-- ==== Sys2Proof/Word.lean ====
section
/-! DEFINITION. The word types of the Eflor Byuno and the two sparse containers that the state is made of. -/

namespace Sys2Proof

/-- A 32-bit register value (R169, R112). -/
abbrev Word := BitVec 32

/-- A 64-bit value: a register pair or a 64-bit special register (R46, R53). -/
abbrev DWord := BitVec 64

/-- A byte of memory. -/
abbrev Byte := BitVec 8

/-- A sparse table: key and value pairs with strictly rising keys. -/
abbrev SMap (α : Type) := List (Nat × α)

/-- Byte-addressed storage: cells with strictly rising addresses, none holding what an unlisted address reads as. -/
abbrev Memory := List (Nat × BitVec 8)

end Sys2Proof
end

