-- ==== Sys2Proof/Machine/Bits.lean ====
section
/-! DEFINITION. Bit fields, sign extension, byte order and bit counting, on natural numbers. -/

namespace Sys2Proof.Machine

/-- Bits `hi:lo` of a natural number (Notation, 00). -/
def bits (w hi lo : Nat) : Nat := (w >>> lo) % 2 ^ (hi + 1 - lo)

/-- One bit of a natural number. -/
def bit (w i : Nat) : Bool := (w >>> i) % 2 == 1

/-- The natural number `n` of `w` bits read as two's complement. -/
def sext (w n : Nat) : Int := if n % 2 ^ w < 2 ^ (w - 1) then (n % 2 ^ w : Nat) else ((n % 2 ^ w : Nat) : Int) - (2 ^ w : Nat)

/-- The low `w` bits of an integer, as a natural number. -/
def wrap (w : Nat) (i : Int) : Nat := (i % ((2 ^ w : Nat) : Int)).toNat

/-- `n` bytes of a natural number, little-endian. -/
def toBytes : Nat → Nat → List Byte
  | 0, _ => []
  | n + 1, w => BitVec.ofNat 8 w :: toBytes n (w / 256)

/-- The natural number of a little-endian list of bytes. -/
def ofBytes : List Byte → Nat
  | [] => 0
  | b :: t => b.toNat + 256 * ofBytes t

/-- Number of one bits among the low `k` bits. -/
def popCount : Nat → Nat → Nat
  | 0, _ => 0
  | k + 1, w => w % 2 + popCount k (w / 2)

/-- Index of the lowest set bit among the low `k` bits; `k` when none is set. -/
def lowestBit : Nat → Nat → Nat
  | 0, _ => 0
  | k + 1, w => if w % 2 = 1 then 0 else 1 + lowestBit k (w / 2)

/-- The low `k` bits in reverse order. -/
def revBits : Nat → Nat → Nat
  | 0, _ => 0
  | k + 1, w => (w % 2) * 2 ^ k + revBits k (w / 2)

/-- Leading zero bits of a `k`-bit number. -/
def clz (k w : Nat) : Nat := if w % 2 ^ k = 0 then k else k - 1 - (w % 2 ^ k).log2

/-- Rotate a `w`-bit number left by `s`. -/
def rotl (w n s : Nat) : Nat := ((n * 2 ^ (s % w)) ||| (n / 2 ^ (w - s % w))) % 2 ^ w

/-- The set bits of a 32-bit mask, ascending. -/
def setBits (m : Nat) : List Nat := (List.range 32).filter (bit m)

/-- The 32-bit mask with the listed bits set. -/
def maskOf (ls : List Nat) : Nat := ls.foldl (fun m l => m ||| 2 ^ l) 0

/-- Replace bits `hi:lo` of `w` by `v`. -/
def setField (w hi lo v : Nat) : Nat :=
  w - bits w hi lo * 2 ^ lo + (v % 2 ^ (hi + 1 - lo)) * 2 ^ lo

end Sys2Proof.Machine
end

