-- ==== Sys2Proof/Syntax.lean ====
section
/-! DEFINITION. The syntax of the Byuno: operand fields, the six lane formats, and one constructor of `Instr` per row
of the table of operations and events. -/

namespace Sys2Proof

/-- The register file of a lane operand, bits 9:8 of an operand field (R55); `special` is file 11. -/
inductive RegFile where
  | v | q | t | special
  deriving DecidableEq, Repr

/-- A source field of a lane word (R55, R56). -/
structure Src where
  last : Bool
  file : RegFile
  idx  : BitVec 8
  deriving DecidableEq, Repr

/-- A destination field of a lane word (R55); file 11 is "none". -/
structure Dst where
  file : RegFile
  idx  : BitVec 8
  deriving DecidableEq, Repr

/-- The L3 format below its opcode (R55). -/
structure L3 where
  fn    : BitVec 8
  dst   : Dst
  a     : Src
  b     : Src
  c     : Src
  msel  : BitVec 3
  fmt   : BitVec 4
  rnd   : BitVec 3
  sat   : Bool
  reuse : Bool
  xA    : BitVec 5
  xB    : BitVec 5
  xD    : BitVec 5
  aux   : BitVec 10
  deriving DecidableEq, Repr

/-- The LI format (R59). -/
structure LI where
  fn   : BitVec 8
  dst  : Dst
  a    : Src
  b    : Src
  imm  : BitVec 32
  msel : BitVec 3
  aux  : BitVec 13
  deriving DecidableEq, Repr

/-- The LM format (R60). -/
structure LM where
  fn    : BitVec 8
  dst   : Dst
  a     : Src
  b     : Src
  off   : BitVec 16
  msel  : BitVec 3
  scope : BitVec 3
  order : BitVec 2
  width : BitVec 4
  xB    : BitVec 5
  hint  : BitVec 2
  amode : BitVec 3
  aux   : BitVec 10
  deriving DecidableEq, Repr

/-- The LX format (R61). -/
structure LX where
  fn   : BitVec 8
  dst  : Dst
  a    : Src
  b    : Src
  c    : Src
  msel : BitVec 3
  pat  : BitVec 6
  esz  : BitVec 3
  xA   : BitVec 5
  xB   : BitVec 5
  xD   : BitVec 5
  imm  : BitVec 10
  deriving DecidableEq, Repr

/-- The LT format without its two reserved fields, which are 0 (R62). -/
structure LT where
  fn    : BitVec 8
  zD    : BitVec 7
  zB    : BitVec 7
  vA    : BitVec 8
  vM    : BitVec 8
  spat  : BitVec 2
  sS    : BitVec 7
  msel  : BitVec 3
  fmt   : BitVec 4
  rnd   : BitVec 3
  sat   : Bool
  reuse : Bool
  xA    : BitVec 5
  xD    : BitVec 5
  aux   : BitVec 10
  deriving DecidableEq, Repr

/-- The LE trailer without its two reserved fields, which are 0 (R63). -/
structure LE where
  count : BitVec 3
  d0    : Dst
  d1    : Dst
  d2    : Dst
  d3    : Dst
  deriving DecidableEq, Repr

/-- Who waits on a semaphore word or polls a test word (R276, R300): a gang in SEMWAIT, or an engine at a test. -/
inductive Waiter where
  | gang (g : Nat)
  | engine (e : Nat)
  deriving DecidableEq, Repr

/-- What a pre-emption removes together (R389). -/
inductive Context where
  | workgroup (wg : Nat)
  | vdev (vnum : Nat)
  deriving DecidableEq, Repr

/-- What the sideband can ask for (R482). -/
inductive SidebandItem where
  | bootStatus
  | temperaturesAndPower
  | counterPage (p : Nat)
  | haltState (p : Nat)
  | partitionReset (p : Nat)
  deriving DecidableEq, Repr

/-- The links whose flits are checked (R392). -/
inductive LinkKind where
  | host | secondTier | ualink
  deriving DecidableEq, Repr

/-- A JTAG request (R482). -/
inductive JtagRequest where
  | boundaryScan | idcode | internalState
  deriving DecidableEq, Repr

/-- What a peer request does (R458, R459, R462): a read of up to 256 bytes, a write of bytes by offset, the 8-byte add, and the
transfers of a whole line with its sidecar and tag (as the 17th scale byte) and the poison of its sectors and its sidecar. -/
inductive PeerOp where
  | read (n : Nat)
  | write (bytes : List (Nat × Byte))
  | add (v : DWord)
  | getLine
  | putLine (bytes scales : List Byte) (bad : Nat) (scBad : Bool)
  deriving DecidableEq, Repr

/-- An inbound peer request (R459): the 64-bit address names VNUM, window and offset. -/
structure PeerRequest where
  acc  : Nat
  addr : Nat
  op   : PeerOp
  deriving DecidableEq, Repr

/-- A host CXL.mem access to device memory (R455): a read of `n` bytes, or a write of bytes. -/
inductive HostAccess where
  | read (pa n : Nat)
  | write (pa : Nat) (bytes : List Byte)
  deriving DecidableEq, Repr

/-- One constructor per row of the table of operations and events: the scalar words, the lane words, and the steps
of the part that are no words (completions, engine blocks, dispatcher, firmware, host, bring-up). -/
inductive Instr where
  /-- SADD (R181). -/
  | sadd (d : BitVec 7) (a : BitVec 7) (b : BitVec 7)
  /-- SSUB (R181). -/
  | ssub (d : BitVec 7) (a : BitVec 7) (b : BitVec 7)
  /-- SMUL (R181). -/
  | smul (d : BitVec 7) (a : BitVec 7) (b : BitVec 7)
  /-- SMULH (R181). -/
  | smulh (d : BitVec 7) (a : BitVec 7) (b : BitVec 7)
  /-- SMULH_N32 (R181). -/
  | smulhN32 (d : BitVec 7) (a : BitVec 7) (b : BitVec 7)
  /-- SAND (R181). -/
  | sand (d : BitVec 7) (a : BitVec 7) (b : BitVec 7)
  /-- SOR (R181). -/
  | sor (d : BitVec 7) (a : BitVec 7) (b : BitVec 7)
  /-- SXOR (R181). -/
  | sxor (d : BitVec 7) (a : BitVec 7) (b : BitVec 7)
  /-- SSHL (R181). -/
  | sshl (d : BitVec 7) (a : BitVec 7) (b : BitVec 7)
  /-- SSHR (R181). -/
  | sshr (d : BitVec 7) (a : BitVec 7) (b : BitVec 7)
  /-- SSRA (R181). -/
  | ssra (d : BitVec 7) (a : BitVec 7) (b : BitVec 7)
  /-- SMIN (R181). -/
  | smin (d : BitVec 7) (a : BitVec 7) (b : BitVec 7)
  /-- SMIN_N32 (R181). -/
  | sminN32 (d : BitVec 7) (a : BitVec 7) (b : BitVec 7)
  /-- SMAX (R181). -/
  | smax (d : BitVec 7) (a : BitVec 7) (b : BitVec 7)
  /-- SMAX_N32 (R181). -/
  | smaxN32 (d : BitVec 7) (a : BitVec 7) (b : BitVec 7)
  /-- SSEL (R181). -/
  | ssel (d : BitVec 7) (a : BitVec 7) (b : BitVec 7)
  /-- SMOV (R181). -/
  | smov (d : BitVec 7) (a : BitVec 7)
  /-- SPOPC (R181). -/
  | spopc (d : BitVec 7) (a : BitVec 7)
  /-- SFFS (R181). -/
  | sffs (d : BitVec 7) (a : BitVec 7)
  /-- SBREV (R181). -/
  | sbrev (d : BitVec 7) (a : BitVec 7)
  /-- SADD_B64 (R181). -/
  | saddB64 (d : BitVec 7) (a : BitVec 7) (b : BitVec 7)
  /-- SSUB_B64 (R181). -/
  | ssubB64 (d : BitVec 7) (a : BitVec 7) (b : BitVec 7)
  /-- SCMP (R182). -/
  | scmp (d : BitVec 7) (a : BitVec 7) (b : BitVec 7) (cond : BitVec 5)
  /-- SADDI (R183). -/
  | saddi (d : BitVec 7) (a : BitVec 7) (imm : BitVec 12)
  /-- SLI (R183). -/
  | sli (d : BitVec 7) (imm : BitVec 19)
  /-- SLI_H (R183). -/
  | sliH (d : BitVec 7) (imm : BitVec 19)
  /-- SADDI_B64 (R183). -/
  | saddiB64 (d : BitVec 7) (a : BitVec 7) (imm : BitVec 12)
  /-- MAND (R184). -/
  | mand (d : BitVec 7) (a : BitVec 7) (b : BitVec 7)
  /-- MOR (R184). -/
  | mor (d : BitVec 7) (a : BitVec 7) (b : BitVec 7) (rc : Bool)
  /-- MANDN (R184). -/
  | mandn (d : BitVec 7) (a : BitVec 7) (b : BitVec 7)
  /-- MXOR (R184). -/
  | mxor (d : BitVec 7) (a : BitVec 7) (b : BitVec 7)
  /-- MNOT (R184). -/
  | mnot (d : BitVec 7) (a : BitVec 7)
  /-- MMOV (R184). -/
  | mmov (d : BitVec 7) (a : BitVec 7) (rc : Bool)
  /-- MPOP (R184). -/
  | mpop (d : BitVec 7) (a : BitVec 7)
  /-- MFIRST (R184). -/
  | mfirst (d : BitVec 7) (a : BitVec 7)
  /-- JMP (R186). -/
  | jmp (off : BitVec 15)
  /-- BZ (R186). -/
  | bz (m : BitVec 7) (off : BitVec 15)
  /-- BNZ (R186). -/
  | bnz (m : BitVec 7) (off : BitVec 15)
  /-- BC_T (R186). -/
  | bcT (off : BitVec 15)
  /-- BC_F (R186). -/
  | bcF (off : BitVec 15)
  /-- CALL (R186). -/
  | call (off : BitVec 15)
  /-- CALLW (R125). -/
  | callw (k : BitVec 4) (off : BitVec 15)
  /-- RET (R186). -/
  | ret
  /-- RETW (R126). -/
  | retw
  /-- EXIT (R28). -/
  | exit
  /-- REPACK (R189). -/
  | repack (m : BitVec 7) (off : BitVec 15)
  /-- UNPACK (R192). -/
  | unpack
  /-- LRUN (R174). -/
  | lrun (len : BitVec 5) (off : BitVec 21)
  /-- WAITC (R311). -/
  | waitc (ld : BitVec 4) (st : BitVec 4) (cp : BitVec 4) (tl : BitVec 4) (gx : BitVec 4) (pl : BitVec 4) (mode : BitVec 2)
  /-- WAITR (R312). -/
  | waitr (a : BitVec 7) (cls : BitVec 3)
  /-- FENCE (R324). -/
  | fence (scope : BitVec 3) (ord : BitVec 2)
  /-- PFENCE (R325). -/
  | pfence (paths : BitVec 4)
  /-- XFENCE (R326). -/
  | xfence
  /-- BARI (R195). -/
  | bari (a : BitVec 7) (b : BitVec 6)
  /-- BARA (R195). -/
  | bara (b : BitVec 6)
  /-- BARW (R195). -/
  | barw (b : BitVec 6)
  /-- SEMADD (R298). -/
  | semadd (d : BitVec 7) (a : BitVec 7) (b : BitVec 7) (scope : BitVec 3) (ord : BitVec 2)
  /-- SEMWAIT (R298). -/
  | semwait (a : BitVec 7) (b : BitVec 7) (scope : BitVec 3) (test : BitVec 2)
  /-- SEMSET (R298). -/
  | semset (a : BitVec 7) (b : BitVec 7) (scope : BitVec 3) (ord : BitVec 2)
  /-- SEMAPHORE_WAITER_RETEST (R300). -/
  | semaphoreWaiterRetest (w : Waiter)
  /-- SEMAPHORE_POLL (R300). -/
  | semaphorePoll (w : Waiter)
  /-- RPOST (R302). -/
  | rpost (d : BitVec 7) (a : BitVec 7)
  /-- RTAKE (R302). -/
  | rtake (d : BitVec 7) (a : BitVec 7)
  /-- SLD_B32 (R345). -/
  | sldB32 (d : BitVec 7) (a : BitVec 7) (imm : BitVec 12)
  /-- SLD_B64 (R345). -/
  | sldB64 (d : BitVec 7) (a : BitVec 7) (imm : BitVec 12)
  /-- SST_B32 (R345). -/
  | sstB32 (d : BitVec 7) (a : BitVec 7) (imm : BitVec 12)
  /-- SST_B64 (R345). -/
  | sstB64 (d : BitVec 7) (a : BitVec 7) (imm : BitVec 12)
  /-- LAUNCH (R336). -/
  | launch (a : BitVec 7)
  /-- SPAWN (R339). -/
  | spawn (a : BitVec 7) (b : BitVec 7)
  /-- GETSR (R197). -/
  | getsr (d : BitVec 7) (n : BitVec 12)
  /-- SETSR (R197). -/
  | setsr (a : BitVec 7) (n : BitVec 12)
  /-- NOP (R198). -/
  | nop
  /-- YIELD (R198). -/
  | yield
  /-- BKPT (R198). -/
  | bkpt
  /-- MCOMMIT (R270). -/
  | mcommit
  /-- TRAP (R198). -/
  | trap (code : BitVec 19)
  /-- MREST (R269). -/
  | mrest (off : BitVec 15)
  /-- CBGO_LADLE (R281). -/
  | cbgoLadle (d : BitVec 7) (a : BitVec 7) (e : BitVec 1)
  /-- CBGO_PLE (R281). -/
  | cbgoPle (d : BitVec 7) (a : BitVec 7)
  /-- CBGO_RUNNER (R281). -/
  | cbgoRunner (d : BitVec 7) (a : BitVec 7) (e : BitVec 2)
  /-- CBSTAT (R283). -/
  | cbstat (d : BitVec 7) (a : BitVec 7)
  /-- LNOP (R70). -/
  | lnop
  /-- ENDRUN (R71). -/
  | endrun (f : LE)
  /-- IADD (R130). -/
  | iadd (f : L3)
  /-- ISUB (R130). -/
  | isub (f : L3)
  /-- IADDC (R131). -/
  | iaddc (f : L3)
  /-- IMUL (R130). -/
  | imul (f : L3)
  /-- IMULH (R130). -/
  | imulh (f : L3)
  /-- IMAD (R130). -/
  | imad (f : L3)
  /-- IABS (R130). -/
  | iabs (f : L3)
  /-- INEG (R130). -/
  | ineg (f : L3)
  /-- IMIN (R130). -/
  | imin (f : L3)
  /-- IMAX (R130). -/
  | imax (f : L3)
  /-- ICLAMP (R130). -/
  | iclamp (f : L3)
  /-- AND (R132). -/
  | and (f : L3)
  /-- OR (R132). -/
  | or (f : L3)
  /-- XOR (R132). -/
  | xor (f : L3)
  /-- NOT (R132). -/
  | not (f : L3)
  /-- SHL (R132). -/
  | shl (f : L3)
  /-- SHR (R132). -/
  | shr (f : L3)
  /-- SRA (R132). -/
  | sra (f : L3)
  /-- ROT (R132). -/
  | rot (f : L3)
  /-- BFX (R133). -/
  | bfx (f : L3)
  /-- BFI (R133). -/
  | bfi (f : L3)
  /-- POPC (R132). -/
  | popc (f : L3)
  /-- CLZ (R132). -/
  | clz (f : L3)
  /-- BREV (R132). -/
  | brev (f : L3)
  /-- ISET (R134). -/
  | iset (f : L3)
  /-- SEL (R135). -/
  | sel (f : L3)
  /-- MOVL (R135). -/
  | movl (f : L3)
  /-- LIM (R136). -/
  | lim (f : LI)
  /-- LEA (R137). -/
  | lea (f : L3)
  /-- LEA64 (R137). -/
  | lea64 (f : L3)
  /-- CVTI (R138). -/
  | cvti (f : L3)
  /-- IDOT4 (R139). -/
  | idot4 (f : L3)
  /-- FADD (R148). -/
  | fadd (f : L3)
  /-- FSUB (R148). -/
  | fsub (f : L3)
  /-- FMUL (R148). -/
  | fmul (f : L3)
  /-- FFMA (R148). -/
  | ffma (f : L3)
  /-- FMIN (R149). -/
  | fmin (f : L3)
  /-- FMAX (R149). -/
  | fmax (f : L3)
  /-- FSET (R150). -/
  | fset (f : L3)
  /-- FCLASS (R151). -/
  | fclass (f : L3)
  /-- FRND (R152). -/
  | frnd (f : L3)
  /-- FCVT (R153). -/
  | fcvt (f : L3)
  /-- FTOI (R154). -/
  | ftoi (f : L3)
  /-- ITOF (R155). -/
  | itof (f : L3)
  /-- FRCP (R156). -/
  | frcp (f : L3)
  /-- FRSQ (R156). -/
  | frsq (f : L3)
  /-- FSQRT (R156). -/
  | fsqrt (f : L3)
  /-- FEXP2 (R156). -/
  | fexp2 (f : L3)
  /-- FLOG2 (R156). -/
  | flog2 (f : L3)
  /-- FSIN (R156). -/
  | fsin (f : L3)
  /-- FCOS (R156). -/
  | fcos (f : L3)
  /-- FTANH (R156). -/
  | ftanh (f : L3)
  /-- FDIVS (R156). -/
  | fdivs (f : L3)
  /-- HADD2 (R148). -/
  | hadd2 (f : L3)
  /-- HMUL2 (R148). -/
  | hmul2 (f : L3)
  /-- HFMA2 (R148). -/
  | hfma2 (f : L3)
  /-- FDOT2 (R160). -/
  | fdot2 (f : L3)
  /-- BMAX (R164). -/
  | bmax (f : L3)
  /-- BSCL (R164). -/
  | bscl (f : L3)
  /-- BQNT (R164). -/
  | bqnt (f : L3)
  /-- BDQT (R165). -/
  | bdqt (f : L3)
  /-- BADD (R166). -/
  | badd (f : L3)
  /-- BMUL (R166). -/
  | bmul (f : L3)
  /-- BFMA (R166). -/
  | bfma (f : L3)
  /-- BRNM (R166). -/
  | brnm (f : L3)
  /-- BCVT (R166). -/
  | bcvt (f : L3)
  /-- BSDOT (R167). -/
  | bsdot (f : L3)
  /-- XRED (R168). -/
  | xred (f : L3)
  /-- XLDP (R207). -/
  | xldp (f : LX)
  /-- XPAT (R209). -/
  | xpat (f : LX)
  /-- XSHF (R210). -/
  | xshf (f : LX)
  /-- XBCST (R210). -/
  | xbcst (f : LX)
  /-- XGATH (R211). -/
  | xgath (f : LX)
  /-- QSWZ (R212). -/
  | qswz (f : LX)
  /-- QBCST (R212). -/
  | qbcst (f : LX)
  /-- VBAL (R213). -/
  | vbal (f : LX)
  /-- VANY (R213). -/
  | vany (f : LX)
  /-- VALL (R213). -/
  | vall (f : LX)
  /-- XSCAN (R214). -/
  | xscan (f : LX)
  /-- TOPK (R216). -/
  | topk (f : LX)
  /-- XSORT (R217). -/
  | xsort (f : LX)
  /-- SDEC (R218). -/
  | sdec (f : LX)
  /-- XXCH (R221). -/
  | xxch (f : LX)
  /-- XXCH_EXCHANGE_COMPLETE (R221). -/
  | xxchExchangeComplete (g : Nat) (op : Nat)
  /-- LDG (R238). -/
  | ldg (f : LM)
  /-- STG (R239). -/
  | stg (f : LM)
  /-- LDB (R241). -/
  | ldb (f : LM)
  /-- STB (R241). -/
  | stb (f : LM)
  /-- LDS (R238). -/
  | lds (f : LM)
  /-- STS (R239). -/
  | sts (f : LM)
  /-- LDL (R240). -/
  | ldl (f : LM)
  /-- LDC (R238). -/
  | ldc (f : LM)
  /-- CSTORE (R242). -/
  | cstore (f : LM)
  /-- ATOM (R243). -/
  | atom (f : LM)
  /-- ATOMX_ADD (R244). -/
  | atomxAdd (f : LM)
  /-- ATOMX_RD (R244). -/
  | atomxRd (f : LM)
  /-- ATOMX_RDCLR (R244). -/
  | atomxRdclr (f : LM)
  /-- ATOMX_CLR (R244). -/
  | atomxClr (f : LM)
  /-- REDG (R243). -/
  | redg (f : LM)
  /-- PREF (R246). -/
  | pref (f : LM)
  /-- MCONV (R252). -/
  | mconv (f : LT)
  /-- MCONV_DIS (R252). -/
  | mconvDis (f : LT)
  /-- MMA (R260). -/
  | mma (f : LT)
  /-- MMAS (R262). -/
  | mmas (f : LT)
  /-- GMMA (R264). -/
  | gmma (f : LT)
  /-- MATRIX_OPERATION_DISPATCH (R254). -/
  | matrixOperationDispatch (twin : Nat)
  /-- MATRIX_OPERATION_RETIRE (R254). -/
  | matrixOperationRetire (twin : Nat)
  /-- MATRIX_WATCHDOG_EXPIRY (R255). -/
  | matrixWatchdogExpiry (twin : Nat)
  /-- TZERO (R265). -/
  | tzero (f : LT)
  /-- TLD (R266). -/
  | tld (f : LT)
  /-- TST (R266). -/
  | tst (f : LT)
  /-- TRD (R267). -/
  | trd (f : LT)
  /-- TWR (R267). -/
  | twr (f : LT)
  /-- TILE_WORD_COMPLETE (R266). -/
  | tileWordComplete (g : Nat) (op : Nat)
  /-- LMMA (R268). -/
  | lmma (f : L3)
  /-- QPOST (R305). -/
  | qpost (f : L3)
  /-- QTAKE (R306). -/
  | qtake (f : L3)
  /-- SPRUE_WORD_COMPLETE (R307). -/
  | sprueWordComplete (g : Nat) (op : Nat)
  /-- PLQ (R418). -/
  | plq (f : L3)
  /-- PLFUSE (R419). -/
  | plfuse (f : L3)
  /-- PLNEXT (R420). -/
  | plnext (f : L3)
  /-- PLCLOSE (R421). -/
  | plclose (f : L3)
  /-- RUN_RETIRE (R175). -/
  | runRetire (g : Nat)
  /-- LOAD_COMPLETE (R236). -/
  | loadComplete (g : Nat) (op : Nat)
  /-- STORE_PERFORMED (R236). -/
  | storePerformed (g : Nat) (op : Nat)
  /-- SFU_RESULT_COMPLETE (R159). -/
  | sfuResultComplete (g : Nat) (op : Nat)
  /-- MARVER_WORD_COMPLETE (R203). -/
  | marverWordComplete (g : Nat) (op : Nat)
  /-- PATTERN_ENTRY_LOADED (R207). -/
  | patternEntryLoaded (g : Nat) (op : Nat)
  /-- ENGINE_STOP (R380). -/
  | engineStop (p : Nat) (index : Nat)
  /-- FAULT_RECORD_GROUP_WRITE (R369). -/
  | faultRecordGroupWrite (p : Nat)
  /-- IDLE_COUNTER_SWAP_CHECK (R38). -/
  | idleCounterSwapCheck (core : Nat)
  /-- ISSUE_PROMOTION (R178). -/
  | issuePromotion (g : Nat)
  /-- PLACE_UNIT (R337). -/
  | placeUnit (p : Nat)
  /-- UNIT_RESERVATION (R338). -/
  | unitReservation (p : Nat)
  /-- WAY_CONVERSION_COMPLETE (R227). -/
  | wayConversionComplete (core : Nat) (way : Nat)
  /-- WORKGROUP_START (R27). -/
  | workgroupStart (wg : Nat)
  /-- WORKGROUP_RETIRE (R29). -/
  | workgroupRetire (wg : Nat)
  /-- DISPATCHER_ENTRY (R331). -/
  | dispatcherEntry (vnum : Nat) (chain : Nat)
  /-- RECORD_NEXT_WAKE (R333). -/
  | recordNextWake (vnum : Nat) (chain : Nat)
  /-- COMMAND_BLOCK_FETCH (R275). -/
  | commandBlockFetch (e : Nat)
  /-- LADLE_NOP (R288). -/
  | ladleNop (e : Nat)
  /-- COPY (R288). -/
  | copy (e : Nat)
  /-- QUANT (R288). -/
  | quant (e : Nat)
  /-- DEQUANT (R288). -/
  | dequant (e : Nat)
  /-- RESCALE (R288). -/
  | rescale (e : Nat)
  /-- TRANSPOSE (R288). -/
  | transpose (e : Nat)
  /-- GATHER (R288). -/
  | gather (e : Nat)
  /-- COMMAND_BLOCK_SIGNAL (R277). -/
  | commandBlockSignal (e : Nat)
  /-- CHAIN_END (R279). -/
  | chainEnd (e : Nat)
  /-- COMMAND_BLOCK_TEST_POLL (R276). -/
  | commandBlockTestPoll (e : Nat)
  /-- PLE_NOP (R396). -/
  | pleNop (e : Nat)
  /-- QUERY (R404). -/
  | query (e : Nat)
  /-- PLE_EMIT_ENTRY (R408). -/
  | pleEmitEntry (e : Nat)
  /-- PLE_TIME_BUDGET_EXPIRY (R410). -/
  | pleTimeBudgetExpiry (e : Nat)
  /-- RUNNER_NOP (R462). -/
  | runnerNop (e : Nat)
  /-- PUT (R462). -/
  | put (e : Nat)
  /-- GET (R462). -/
  | get (e : Nat)
  /-- REDUCE (R464). -/
  | reduce (e : Nat)
  /-- NOTIFY (R462). -/
  | notify (e : Nat)
  /-- RUNNER_CHUNK_DONE (R463). -/
  | runnerChunkDone (e : Nat)
  /-- PEER_REQUEST_TIMEOUT (R465). -/
  | peerRequestTimeout (e : Nat)
  /-- UALINK_INBOUND_REQUEST (R459). -/
  | ualinkInboundRequest (r : PeerRequest)
  /-- HOST_MEM_ACCESS (R455). -/
  | hostMemAccess (a : HostAccess)
  /-- HOST_UNSUPPORTED_REQUEST (R452). -/
  | hostUnsupportedRequest (tag : Nat)
  /-- FUNCTION_LEVEL_RESET (R456). -/
  | functionLevelReset (vf : Nat)
  /-- CXL_RESET (R480). -/
  | cxlReset
  /-- POWER_ON (R475). -/
  | powerOn
  /-- THERMAL_SUPPLY_TRIP (R481). -/
  | thermalSupplyTrip
  /-- HEAD_WRITE (R453). -/
  | headWrite (vnum : Nat) (c : Nat) (val : DWord)
  /-- LOGBASE_WRITE (R453). -/
  | logbaseWrite (vnum : Nat) (val : DWord)
  /-- LOGSIZE_WRITE (R453). -/
  | logsizeWrite (vnum : Nat) (val : DWord)
  /-- GTBASE_WRITE (R453). -/
  | gtbaseWrite (vnum : Nat) (val : DWord)
  /-- WBASE_WRITE (R453). -/
  | wbaseWrite (vnum : Nat) (w : Nat) (val : DWord)
  /-- REGISTER_WRITE (R453). -/
  | registerWrite (vnum : Nat) (off : Nat) (val : DWord)
  /-- TRANSLATION_CONTEXT_WRITE (R347). -/
  | translationContextWrite (asid : Nat) (val : DWord)
  /-- GENRAISE (R361). -/
  | genraise (p : Nat) (asid : Nat)
  /-- ASFLUSH (R363). -/
  | asflush (p : Nat) (asid : Nat)
  /-- FLUSH_TIMEOUT (R363). -/
  | flushTimeout (p : Nat)
  /-- PTSYNC (R360). -/
  | ptsync (p : Nat)
  /-- REPLAY (R372). -/
  | replay (p : Nat) (seq : Nat)
  /-- PGCLEAN (R364). -/
  | pgclean (p : Nat) (size : Nat) (page : Nat)
  /-- ESCALATE (R374). -/
  | escalate (p : Nat) (seq : Nat)
  /-- CLRESET (R433). -/
  | clreset (p : Nat) (k : Nat)
  /-- CLUSTER_RESET_DEADLINE (R433). -/
  | clusterResetDeadline (p : Nat)
  /-- CLUSTER_POWER_GATE (R362). -/
  | clusterPowerGate (cluster : Nat)
  /-- TWIN_RESET (R272). -/
  | twinReset (twin : Nat)
  /-- PREEMPT_CONTEXT (R389). -/
  | preemptContext (c : Context)
  /-- PREEMPT_ENGINE_ACK (R389). -/
  | preemptEngineAck (wg : Nat)
  /-- CONTEXT_RESTORE (R391). -/
  | contextRestore (wg : Nat)
  /-- BUCKET_REFILL (R443). -/
  | bucketRefill (arb : Nat)
  /-- VDEV_TABLE_WRITE (R441), with the sprues that firmware assigns to the virtual device (R303). -/
  | vdevTableWrite (p : Nat) (i : Nat) (ctl : DWord) (rates : List DWord) (sprues : List Nat)
  /-- REMAP_REGISTER_WRITE (R427). -/
  | remapRegisterWrite (sector : Nat) (val : Word)
  /-- PORT_SHARE_WRITE (R438). -/
  | portShareWrite (shares : List Nat)
  /-- READ_GRANT_SET (R425). -/
  | readGrantSet (p : Nat) (lo : Nat) (hi : Nat)
  /-- STRICT_MODE_SET (R392). -/
  | strictModeSet (p : Nat) (on : Bool)
  /-- PARTITION_RESET (R381). -/
  | partitionReset (p : Nat)
  /-- SVN_FUSE_RAISE: the version, and the public key and the signature that the request carries (R478). -/
  | svnFuseRaise (svn : Nat) (signed : Nat × Nat)
  /-- ATTESTATION_REQUEST (R479). -/
  | attestationRequest (nonce : List Byte)
  /-- DEBUGGER_ENABLE (R482). -/
  | debuggerEnable (vnum : Nat) (on : Bool)
  /-- SIDEBAND_QUERY (R482). -/
  | sidebandQuery (q : SidebandItem)
  /-- GAFFER_CHAIN_START (R376). -/
  | gafferChainStart (p : Nat) (ladle : Nat) (addr : Nat)
  /-- DEBUGGER_RESUME (R198). -/
  | debuggerResume (g : Nat)
  /-- END_GRID (R198). -/
  | endGrid (g : Nat)
  /-- PEER_ERROR_RESPONSE (R465). -/
  | peerErrorResponse (e : Nat)
  /-- CLUSTER_UNGATE (R480). -/
  | clusterUngate (cluster : Nat)
  /-- PACKAGE_POWER_LIMIT (R481). -/
  | packagePowerLimit (above : Bool)
  /-- FLIT_CHECK_FAILURE (R392). -/
  | flitCheckFailure (link : LinkKind) (port : Nat) (lost : Bool)
  /-- CONFIGURATION_REQUEST (R475). -/
  | configurationRequest
  /-- JTAG_ACCESS (R482). -/
  | jtagAccess (req : JtagRequest)
  /-- DEBUG_FUSE_UNLOCK (R482). -/
  | debugFuseUnlock
  deriving DecidableEq, Repr

end Sys2Proof
end

