-- ==== Sys2Proof/WellFormed.lean ====
section
/-! DEFINITION. Well-formed instructions: the field values that the encoding chapter and each instruction's own
description allow, as far as the word alone shows it (R46-R64 and the instruction chapters). -/

namespace Sys2Proof

open Machine (bits bit)

namespace WF

/-! ## Operand fields (R56) -/

/-- A source field with a register index or special index that exists; the last-use bit only on a main register. -/
def src (x : Src) : Bool :=
  match x.file with
  | .v => true
  | .q | .t => decide (x.idx.toNat < 8) && !x.last
  | .special => decide (x.idx.toNat < 4) && !x.last

/-- A source field that the instruction does not use holds 0x000. -/
def noSrc (x : Src) : Bool := decide (x = ⟨false, .v, 0⟩)

/-- A source that covers `n` registers of its file, starting at a multiple of `n`. -/
def srcGroup (n : Nat) (x : Src) : Bool :=
  src x && (match x.file with
    | .special => true
    | _ => decide (x.idx.toNat % n = 0))

/-- A 64-bit source when `p`, a 32-bit source otherwise. -/
def srcOr (p : Bool) (x : Src) : Bool := srcGroup (if p then 2 else 1) x

/-- A destination in one of the three files. -/
def dst (x : Dst) : Bool :=
  match x.file with
  | .v => true
  | .q | .t => decide (x.idx.toNat < 8)
  | .special => false

/-- A destination field that the instruction does not use holds file 11, index 0. -/
def noDst (x : Dst) : Bool := decide (x = ⟨.special, 0⟩)

/-- A destination that covers `n` registers. -/
def dstGroup (n : Nat) (x : Dst) : Bool := dst x && decide (x.idx.toNat % n = 0)

/-- A main-register destination (R68, R69, R114) of `n` registers. -/
def dstMain (n : Nat) (x : Dst) : Bool := decide (x.file = .v) && decide (x.idx.toNat % n = 0)

/-- An even main-register pair as source. -/
def srcMainPair (x : Src) : Bool := decide (x.file = .v) && decide (x.idx.toNat % 2 = 0)

/-! ## Integer words (R65, R128) -/

/-- The fields that every integer word holds at 0 (R128). -/
def intCommon (f : L3) : Bool :=
  decide (f.rnd = 0) && decide (f.fmt = 0) && !f.reuse && decide (f.xA = 0) && decide (f.xB = 0) && decide (f.xD = 0)

/-- The type code in fn 2:0 (R65). -/
def ty (f : L3) : Nat := f.fn.toNat % 8

/-- fn 7:3 (R65). -/
def fnHi (f : L3) : Nat := f.fn.toNat / 8

/-- Whether the type is 64-bit. -/
def is64 (f : L3) : Bool := decide (ty f = 2) || decide (ty f = 3)

/-- An integer word with destination and `n` sources of the type's width. -/
def intWord (f : L3) (n : Nat) (sat : Bool) : Bool :=
  intCommon f && decide (f.aux = 0) && (sat || !f.sat)
  && dstGroup (if is64 f then 2 else 1) f.dst && srcOr (is64 f) f.a
  && (if 2 ≤ n then srcOr (is64 f) f.b else noSrc f.b)
  && (if 3 ≤ n then srcOr (is64 f) f.c else noSrc f.c)

/-- An integer word with fn 7:3 = 0 and any type. -/
def intAll (f : L3) (n : Nat) (sat : Bool) : Bool := intWord f n sat && decide (fnHi f = 0)

/-- IMAD, plain or widening (R130). -/
def imad (f : L3) : Bool :=
  if fnHi f = 1 then
    intCommon f && decide (f.aux = 0) && decide (ty f < 2) && dstGroup 2 f.dst && src f.a && src f.b && srcOr true f.c
  else intAll f 3 true

/-- The bitwise words, with or without `.nb` (R132). -/
def logic (f : L3) (n hi : Nat) : Bool :=
  intWord f n false && decide (fnHi f ≤ hi) && (decide (ty f = 1) || decide (ty f = 3))

/-- Shifts and rotates: the count is one 32-bit register (R132). -/
def shift (f : L3) (hi : Nat) : Bool :=
  intCommon f && decide (f.aux = 0) && !f.sat && decide (fnHi f ≤ hi)
  && dstGroup (if is64 f then 2 else 1) f.dst && srcOr (is64 f) f.a && src f.b && noSrc f.c

/-- POPC and CLZ: the destination is one 32-bit register (R132). -/
def count (f : L3) : Bool :=
  intCommon f && decide (f.aux = 0) && !f.sat && decide (fnHi f = 0) && (decide (ty f = 1) || decide (ty f = 3))
  && dst f.dst && srcOr (is64 f) f.a && noSrc f.b && noSrc f.c

def bfx (f : L3) : Bool :=
  intCommon f && decide (f.aux = 0) && !f.sat && decide (f.fn.toNat < 4)
  && dstGroup (if is64 f then 2 else 1) f.dst && srcOr (is64 f) f.a && src f.b && noSrc f.c

def bfi (f : L3) : Bool :=
  intCommon f && decide (f.aux = 0) && !f.sat && (decide (f.fn.toNat = 1) || decide (f.fn.toNat = 3))
  && dstGroup (if is64 f then 2 else 1) f.dst && srcOr (is64 f) f.a && srcOr (is64 f) f.b && src f.c

def iaddc (f : L3) : Bool :=
  intCommon f && !f.sat && decide (f.fn = 1) && decide (f.aux.toNat < 64) && dst f.dst && src f.a && src f.b && noSrc f.c

/-- The mask fields of ISET and FSET: J in 1-7, combine not 11, aux 9:5 zero (R134, R150). -/
def setAux (aux : BitVec 10) : Bool :=
  decide (1 ≤ aux.toNat % 8) && decide (bits aux.toNat 4 3 ≠ 3) && decide (aux.toNat < 32)

def iset (f : L3) : Bool :=
  intCommon f && !f.sat && decide (fnHi f < 10) && decide (ty f < 4) && noDst f.dst && noSrc f.c && setAux f.aux
  && srcOr (is64 f) f.a && (if fnHi f = 6 ∨ fnHi f = 7 then noSrc f.b else srcOr (is64 f) f.b)

def sel (f : L3) : Bool :=
  intCommon f && !f.sat && (decide (f.fn.toNat = 1) || decide (f.fn.toNat = 3)) && decide (f.aux.toNat < 8)
  && dstGroup (if is64 f then 2 else 1) f.dst && srcOr (is64 f) f.a && srcOr (is64 f) f.b && noSrc f.c

def lim (f : LI) : Bool :=
  decide (f.fn.toNat < 3) && dstGroup (if f.fn = 0 then 1 else 2) f.dst && noSrc f.a && noSrc f.b && decide (f.aux = 0)

def lea (f : L3) : Bool :=
  intCommon f && !f.sat && decide (f.aux = 0) && decide (f.fn.toNat < 32)
  && dstGroup (if bit f.fn.toNat 4 then 1 else 2) f.dst && srcOr (!bit f.fn.toNat 4) f.a && src f.b && noSrc f.c

def lea64 (f : L3) : Bool :=
  intCommon f && !f.sat && decide (f.aux = 0) && decide (f.fn.toNat < 8)
  && dstGroup 2 f.dst && srcOr true f.a && srcOr true f.b && noSrc f.c

/-- Bits of one element of a type code (R65). -/
def tyWidth (t : Nat) : Nat := match t / 2 with | 0 => 32 | 1 => 64 | 2 => 16 | _ => 8

/-- Elements of a type code in a register, or 1 in a pair (R65). -/
def tyCount (t : Nat) : Nat := match t / 2 with | 2 => 2 | 3 => 4 | _ => 1

/-- Source type code of CVTI (R138). -/
def cvtS (f : L3) : Nat := bits f.fn.toNat 5 3

/-- The k range of CVTI (R138). -/
def cvtK (f : L3) : Bool :=
  let ns := tyCount (cvtS f)
  let nd := tyCount (ty f)
  let k := f.aux.toNat
  if tyWidth (ty f) > tyWidth (cvtS f) then decide (k < ns / nd)
  else if tyWidth (ty f) < tyWidth (cvtS f) then decide (k < nd / ns)
  else decide (k = 0)

def cvti (f : L3) : Bool :=
  intCommon f && decide (f.fn.toNat < 64) && decide (f.aux.toNat < 8) && cvtK f
  && dstGroup (if is64 f then 2 else 1) f.dst && srcOr (decide (tyWidth (cvtS f) = 64)) f.a && noSrc f.b && noSrc f.c

def idot4 (f : L3) : Bool :=
  intCommon f && decide (f.aux = 0) && decide (f.fn.toNat < 16) && decide (6 ≤ ty f)
  && dst f.dst && src f.a && src f.b && src f.c

/-! ## Floating-point and block words (R142, R143, R163) -/

/-- reuse, and the x fields not used, are 0. -/
def noX (f : L3) : Bool := !f.reuse && decide (f.xA = 0) && decide (f.xB = 0) && decide (f.xD = 0)

/-- Element-wise arithmetic with modifiers for `n` sources; rounding up to mode `r`, `.sat` when `sat` (R143, R148, R149). -/
def farith (f : L3) (n r : Nat) (sat : Bool) : Bool :=
  noX f && decide (f.aux = 0) && decide (f.rnd.toNat ≤ r) && (sat || !f.sat) && decide (f.fn.toNat < 4 ^ n)
  && dst f.dst && src f.a && src f.b && (if n = 3 then src f.c else noSrc f.c)

def fset (f : L3) : Bool :=
  noX f && decide (f.rnd = 0) && !f.sat && decide (f.fn.toNat < 8) && noDst f.dst && src f.a && src f.b && noSrc f.c && setAux f.aux

/-- One source, one destination, fn 0. -/
def funary (f : L3) (r : Nat) (sat : Bool) : Bool :=
  noX f && decide (f.rnd.toNat ≤ r) && (sat || !f.sat) && decide (f.fn = 0) && dst f.dst && src f.a && noSrc f.b && noSrc f.c

def ftoi (f : L3) : Bool :=
  noX f && decide (f.aux = 0) && decide (f.rnd.toNat ≤ 5) && !f.sat && decide (f.fn.toNat < 4)
  && dstGroup (if is64 f then 2 else 1) f.dst && src f.a && noSrc f.b && noSrc f.c

def itof (f : L3) : Bool :=
  noX f && decide (f.aux = 0) && decide (f.rnd.toNat ≤ 5) && !f.sat && decide (f.fn.toNat < 4)
  && dst f.dst && srcOr (is64 f) f.a && noSrc f.b && noSrc f.c

/-- Special functions: main destination, rounding up to mode `r` (R156). -/
def sfu (f : L3) (n r : Nat) : Bool :=
  noX f && decide (f.aux = 0) && decide (f.rnd.toNat ≤ r) && decide (f.fn = 0) && dstMain 1 f.dst
  && src f.a && (if n = 2 then src f.b else noSrc f.b) && noSrc f.c

def fdot2 (f : L3) : Bool :=
  noX f && decide (f.aux.toNat < 16) && decide (f.rnd.toNat ≤ 5) && decide (f.fn.toNat < 64)
  && dst f.dst && src f.a && src f.b && src f.c

/-- A register of any of the three files (a block operand or the start of a group, R161, R162). -/
def reg (x : Src) : Bool := src x && decide (x.file ≠ .special)

/-- A block word: sources `n` (the rest unused), the scale fields it does not use are 0 (R163). -/
def block (f : L3) (n : Nat) (useA useB useD : Bool) (aux r : Nat) (sat : Bool) : Bool :=
  !f.reuse && decide (f.fn = 0) && (useA || decide (f.xA = 0)) && (useB || decide (f.xB = 0)) && (useD || decide (f.xD = 0))
  && decide (f.aux.toNat < aux) && decide (f.rnd.toNat ≤ r) && (sat || !f.sat) && dst f.dst && reg f.a
  && (if 2 ≤ n then reg f.b else noSrc f.b) && (if 3 ≤ n then src f.c else noSrc f.c)

def xred (f : L3) : Bool :=
  noX f && decide (f.aux = 0) && decide (f.fn.toNat < 8) && dst f.dst && src f.a && noSrc f.b && noSrc f.c
  && (if bit f.fn.toNat 0 then decide (f.rnd.toNat ≤ 4) else decide (f.rnd = 0) && !f.sat)

def lmma (f : L3) : Bool :=
  noX f && decide (f.aux = 0) && decide (f.rnd = 0) && decide (f.fn.toNat < 4) && dst f.dst
  && decide (f.a.file = .v) && decide (f.a.idx.toNat + 4 * 2 ^ f.fn.toNat ≤ 256) && src f.b && src f.c

/-! ## Sprue and query words (R304-R306, R417) -/

/-- fmt, rnd, sat, reuse and the x fields are 0. -/
def plain (f : L3) : Bool := noX f && decide (f.fmt = 0) && decide (f.rnd = 0) && !f.sat

def qpost (f : L3) : Bool :=
  plain f && decide (f.fn.toNat < 2) && noDst f.dst && src f.a && src f.b && noSrc f.c && decide (f.aux.toNat < 256)

/-- A take of pairs: J in 1-7, K in fn 5:3, no sources (R306, R417). -/
def take (f : L3) (aux : Nat) : Bool :=
  plain f && decide (f.fn.toNat < 64) && decide (1 ≤ f.fn.toNat % 8) && dstMain 2 f.dst
  && noSrc f.a && noSrc f.b && noSrc f.c && decide (f.aux.toNat < aux)

def plq (f : L3) : Bool :=
  plain f && decide (f.fn.toNat < 2) && noDst f.dst && srcOr true f.a && noSrc f.b && noSrc f.c && decide (f.aux.toNat < 4)

def plfuse (f : L3) : Bool :=
  plain f && decide (f.fn.toNat < 2) && noDst f.dst && src f.a && src f.b && noSrc f.c && decide (f.aux.toNat < 4)

def plclose (f : L3) : Bool :=
  plain f && decide (f.fn = 0) && (dst f.dst || noDst f.dst) && noSrc f.a && noSrc f.b && noSrc f.c && decide (f.aux.toNat < 4)

/-! ## Marver words (R199-R221) -/

/-- The x fields are 0, and pat is 0 unless the word names a slot (R199). -/
def mx (f : LX) (pat : Bool) : Bool :=
  decide (f.xA = 0) && decide (f.xB = 0) && decide (f.xD = 0) && (pat || decide (f.pat = 0)) && decide (f.esz.toNat < 4)

/-- Elements of a register: 32, 64, 128, 256 (R200). -/
def elems (f : LX) : Nat := 32 * 2 ^ f.esz.toNat

/-- The segment size z of a segment code (R200). -/
def segSize (f : LX) (code : Nat) : Nat := if code = 0 then elems f else 2 * 2 ^ code

def xldp (f : LX) : Bool :=
  mx f true && decide (f.fn = 0) && noDst f.dst && srcOr true f.a && noSrc f.b && noSrc f.c && decide (f.esz = 0) && decide (f.imm = 0)

def xpat (f : LX) : Bool :=
  mx f true && decide (f.fn.toNat < 3) && (decide (f.fn = 0) || decide (f.esz ≠ 0)) && dstMain 1 f.dst
  && src f.a && noSrc f.b && noSrc f.c && decide (f.imm.toNat < 256)

def xshf (f : LX) : Bool :=
  let z := segSize f (bits f.fn.toNat 4 2)
  mx f false && decide (f.fn.toNat < 32) && decide (bits f.fn.toNat 4 2 ≠ 7) && decide (z ≤ elems f)
  && dstMain 1 f.dst && src f.a && noSrc f.b && noSrc f.c && decide (f.imm.toNat < z)

def xbcst (f : LX) : Bool := xshf f && decide (f.fn.toNat % 4 = 0) && decide (f.imm.toNat < 256)

def xgath (f : LX) : Bool :=
  mx f false && decide (f.fn.toNat < 2) && (decide (f.fn = 0) || decide (f.esz ≠ 3)) && dstMain 1 f.dst
  && srcOr (decide (f.fn = 1)) f.a && srcOr (decide (f.esz = 3)) f.b && noSrc f.c && decide (f.imm = 0)

def quad (f : LX) (n : Nat) : Bool :=
  mx f false && decide (f.fn = 0) && decide (f.esz = 0) && dstMain 1 f.dst && src f.a && noSrc f.b && noSrc f.c && decide (f.imm.toNat < n)

def vote (f : LX) : Bool :=
  mx f false && decide (f.fn = 0) && decide (f.esz = 0) && src f.a && noSrc f.b && noSrc f.c && decide (f.imm.toNat < 8)
  && (dstMain 1 f.dst || (noDst f.dst && decide (f.imm ≠ 0)))

def xscan (f : LX) : Bool :=
  mx f false && decide (f.esz = 0) && decide (f.fn.toNat < 128) && decide (f.imm.toNat < 4)
  && (if f.fn.toNat % 8 = 1 then decide (bits f.fn.toNat 5 3 ≤ 4) else decide (bits f.fn.toNat 5 3 = 0))
  && dstMain 1 f.dst && src f.a && noSrc f.b && noSrc f.c

/-- Segment lanes of TOPK and XSORT: imm10 8:6 (R216). -/
def rankSeg (f : LX) : Nat := if bits f.imm.toNat 8 6 = 0 then 32 else 2 * 2 ^ bits f.imm.toNat 8 6

/-- Fields shared by TOPK and XSORT (R215-R217). -/
def rank (f : LX) : Bool :=
  mx f false && decide (f.esz = 0) && decide (f.fn.toNat < 8) && decide (f.fn.toNat % 4 ≠ 3) && dstMain 2 f.dst
  && src f.a && src f.b && noSrc f.c && decide (bits f.imm.toNat 9 6 < 4)

def topk (f : LX) : Bool := rank f && decide (1 ≤ f.imm.toNat % 64) && decide (f.imm.toNat % 64 ≤ rankSeg f)
def xsort (f : LX) : Bool := rank f && decide (f.imm.toNat % 64 = 0)

/-- The five registers d, st, st + 1, cur, cur + 1 are distinct main registers (R218). -/
def sdec (f : LX) : Bool :=
  mx f false && decide (f.fn.toNat < 2) && decide (f.esz = 0) && decide (f.imm = 0) && dstMain 1 f.dst
  && srcMainPair f.a && src f.b && srcMainPair f.c && decide (f.a.idx ≠ f.c.idx)
  && decide (f.dst.idx.toNat / 2 ≠ f.a.idx.toNat / 2) && decide (f.dst.idx.toNat / 2 ≠ f.c.idx.toNat / 2)

def xxch (f : LX) : Bool :=
  mx f false && decide (f.esz = 0) && decide (f.imm.toNat < 8) && dstMain 1 f.dst && src f.a && noSrc f.b && noSrc f.c

/-! ## Memory words (R60, R235-R246) -/

/-- The address fields: a pair for amode 000, an index over a scalar pair otherwise (R60). -/
def addr (f : LM) : Bool :=
  if f.amode = 0 then srcOr true f.a && decide (f.aux = 0)
  else decide (f.amode.toNat ≤ 2) && src f.a && decide (f.aux.toNat < 128) && decide (f.aux.toNat % 2 = 0)

/-- LDS and STS: one 32-bit offset register, amode 000 (R60). -/
def saddr (f : LM) : Bool := decide (f.amode = 0) && decide (f.aux = 0) && src f.a

/-- scope at most `s`; the listed orderings; hint at most `h` (R235). -/
def sched (f : LM) (s : Nat) (ords : List Nat) (h : Nat) : Bool :=
  decide (f.scope.toNat ≤ s) && ords.contains f.order.toNat && decide (f.hint.toNat ≤ h)

/-- Count and width of an element access: registers it covers (R238). -/
def span (f : LM) : Nat := 2 ^ f.fn.toNat * (if f.width.toNat = 5 then 2 else 1)

/-- fn and width of an element access (R238). -/
def elem (f : LM) (ws : List Nat) : Bool :=
  ws.contains f.width.toNat && decide (f.fn.toNat < 3) && (decide (f.fn = 0) || decide (4 ≤ f.width.toNat)) && decide (f.xB = 0)

def load (f : LM) (s h : Nat) (ords : List Nat) : Bool :=
  sched f s ords h && elem f [0, 1, 2, 3, 4, 5] && dstMain (span f) f.dst && noSrc f.b

def store (f : LM) (s h : Nat) : Bool :=
  sched f s [0, 2] h && elem f [0, 2, 4, 5] && noDst f.dst && srcGroup (span f) f.b

def ldl (f : LM) : Bool :=
  addr f && sched f 4 [0, 1] 3 && decide (f.width = 4) && decide (f.fn.toNat < 3) && decide (f.xB = 0) && dstMain 2 f.dst && noSrc f.b
  && decide (f.dst.idx.toNat + 2 * 2 ^ f.fn.toNat ≤ 256)

def ldb (f : LM) : Bool :=
  addr f && sched f 4 [0, 1] 3 && decide (f.fn.toNat < 2) && dstMain (2 - f.fn.toNat) f.dst && noSrc f.b

def stb (f : LM) : Bool :=
  addr f && sched f 4 [0, 2] 3 && decide (f.fn.toNat < 2) && noDst f.dst && srcGroup (2 - f.fn.toNat) f.b && decide (f.b.file ≠ .special)

def cstore (f : LM) : Bool := addr f && store f 4 3 && decide (f.fn = 0)

/-- The operation codes and widths of ATOM and REDG (R243). -/
def atomOp (f : LM) : Bool :=
  decide (f.fn.toNat < 13) && (decide (f.width = 4) || (decide (f.width = 5) && decide (f.fn.toNat < 10)))

def atom (f : LM) : Bool :=
  addr f && sched f 4 [0, 1, 2, 3] 0 && decide (f.xB = 0) && atomOp f && dstMain (if f.width = 5 then 2 else 1) f.dst
  && srcGroup ((if f.width = 5 then 2 else 1) * (if f.fn = 9 then 2 else 1)) f.b

def redg (f : LM) : Bool :=
  addr f && sched f 4 [0, 2] 0 && decide (f.xB = 0) && atomOp f && decide (f.fn ≠ 8) && decide (f.fn ≠ 9) && noDst f.dst
  && srcGroup (if f.width = 5 then 2 else 1) f.b

/-- The four operations of ATOMX (R244). -/
def atomx (f : LM) (op : Nat) : Bool :=
  addr f && sched f 4 [0, 1, 2, 3] 0 && decide (f.width = 4) && decide (f.xB = 0) && decide (f.fn.toNat % 4 = op)
  && (match op with
    | 0 => decide (f.fn = 0) && noDst f.dst && src f.b
    | 3 => decide (f.fn = 3) && noDst f.dst && noSrc f.b
    | _ => decide (f.fn.toNat < 64) && decide (bits f.fn.toNat 4 2 ≤ 4) && dstMain 1 f.dst && noSrc f.b)

def pref (f : LM) : Bool :=
  addr f && sched f 0 [0] 2 && decide (f.width = 0) && decide (f.xB = 0) && decide (f.fn.toNat < 2) && noDst f.dst && noSrc f.b

/-! ## Matrix and tile words (R252, R257-R267) -/

/-- Every field of an LT word below its fn is 0. -/
def ltZero (f : LT) : Bool := decide (f = { f with zD := 0, zB := 0, vA := 0, vM := 0, spat := 0, sS := 0, msel := 0, fmt := 0, rnd := 0, sat := false, reuse := false, xA := 0, xD := 0, aux := 0 })

/-- Fields shared by the three contributions (R257, R259). -/
def mmaCommon (f : LT) : Bool :=
  decide (f.rnd = 0) && decide (f.vA.toNat % 2 = 0) && decide (f.vA.toNat + 15 < 256) && decide (f.zD.toNat < 96) && decide (f.zB.toNat < 96)

def mma (f : LT) : Bool :=
  mmaCommon f && decide (f.fn = 0) && decide (f.zB.toNat % 2 = 0) && decide (f.vM = 0) && decide (f.spat = 0) && decide (f.sS = 0)
  && decide (f.xD = 0) && decide (f.aux.toNat < 16)

def mmas (f : LT) : Bool :=
  mmaCommon f && decide (f.fn.toNat < 3) && (decide (f.spat = 1) || decide (f.spat = 2))
  && decide (f.zB.toNat % (if f.spat = 1 then 4 else 8) = 0) && (decide (f.fn = 2) || decide (f.sS = 0))
  && (decide (f.fn ≠ 2) || decide (f.vM = 0)) && decide (f.xD = 0) && decide (f.aux.toNat < 16)

def gmma (f : LT) : Bool :=
  mmaCommon f && decide (f.fn = 0) && decide (f.zB = 0) && decide (f.vM = 0) && decide (f.spat = 0)
  && decide (f.xD.toNat < 8) && decide (f.aux.toNat < 256)

/-- Fields that no tile word uses (R265-R267). -/
def tileCommon (f : LT) : Bool :=
  decide (f.vM = 0) && decide (f.spat = 0) && decide (f.rnd = 0) && !f.sat && !f.reuse && decide (f.aux.toNat % 16 = 0)
  && decide (f.zD.toNat < 96) && decide (f.zB.toNat < 96)

def tzero (f : LT) : Bool :=
  tileCommon f && decide (f.fn = 0) && decide (f.zB = 0) && decide (f.vA = 0) && decide (f.sS = 0) && decide (f.fmt = 0)
  && decide (f.xA = 0) && decide (f.xD = 0)

def tld (f : LT) : Bool :=
  tileCommon f && decide (f.fn = 0) && decide (f.zB = 0) && decide (f.vA = 0) && decide (f.sS.toNat % 2 = 0) && decide (f.fmt = 0)
  && decide (f.xA = 0) && decide (f.xD = 0)

def tst (f : LT) : Bool :=
  tileCommon f && decide (f.fn = 0) && decide (f.zD = 0) && decide (f.vA = 0) && decide (f.sS.toNat % 2 = 0) && decide (f.fmt = 0)
  && decide (f.xA = 0) && decide (f.xD = 0)

/-- Registers of TRD and TWR: fn 2:0 (R267). -/
def tileRegs (f : LT) : Nat := 2 ^ (f.fn.toNat % 8)

/-- Fields shared by TRD and TWR, `x` the scale register field used with `.sc` (R267). -/
def trw (f : LT) (x : BitVec 5) : Bool :=
  tileCommon f && decide (f.fn.toNat < 16) && decide (f.fn.toNat % 8 ≤ 4) && decide (f.sS = 0) && decide (f.vA.toNat + tileRegs f ≤ 256)
  && (if bit f.fn.toNat 3 then
        decide (2 ≤ tileRegs f) && decide (f.vA.toNat % 2 = 0) && decide ((f.aux.toNat / 16) % 2 = 0) && decide (x.toNat + tileRegs f / 2 ≤ 32)
      else decide (x = 0) && decide (f.fmt = 0))

def trd (f : LT) : Bool := trw f f.xD && decide (f.xA = 0) && decide (f.zD = 0)
def twr (f : LT) : Bool := trw f f.xA && decide (f.xD = 0) && decide (f.zB = 0)

/-! ## The trailer (R63, R71) -/

def endrun (f : LE) : Bool :=
  let used := fun (i : Nat) (d : Dst) => if i < f.count.toNat then decide (d.file = .v) else decide (d = ⟨.v, 0⟩)
  decide (f.count.toNat ≤ 4) && used 0 f.d0 && used 1 f.d1 && used 2 f.d2 && used 3 f.d3

/-! ## Scalar words (R46, R51-R53) -/

/-- An even register (R46). -/
def even (r : BitVec 7) : Bool := decide (r.toNat % 2 = 0)

/-- A mask field names m0-m7 (R46). -/
def mask (r : BitVec 7) : Bool := decide (r.toNat < 8)

/-- A special register by its number: 64 bits wide, readable, writable (R53). -/
def special (n : Nat) : Option (Bool × Bool × Bool) :=
  if n < 0x002 then none
  else if n ≤ 0x007 then some (false, true, false)
  else if n = 0x008 then some (true, true, false)
  else if n ≤ 0x00B then some (true, true, true)
  else if n = 0x00C then some (true, true, false)
  else if n = 0x00D then some (false, true, true)
  else if 0x020 ≤ n ∧ n ≤ 0x026 then some (true, true, false)
  else if 0x040 ≤ n ∧ n ≤ 0x04F then some (true, true, true)
  else none

def getsr (d : BitVec 7) (n : BitVec 12) : Bool :=
  match special n.toNat with
  | some (w, r, _) => r && (!w || even d)
  | none => false

def setsr (a : BitVec 7) (n : BitVec 12) : Bool :=
  match special n.toNat with
  | some (w, _, r) => r && (!w || even a)
  | none => false

/-- Scope codes 000-100 (R50). -/
def scope (s : BitVec 3) : Bool := decide (s.toNat ≤ 4)

end WF

/-- The well-formedness of an instruction: what its own fields show. A word that is not well-formed is illegal (R72);
an event is well-formed when the numbers it carries name parts that exist (R1, R2). -/
def Instr.wf : Instr → Bool
  | .sadd _ _ _ => true
  | .ssub _ _ _ => true
  | .smul _ _ _ => true
  | .smulh _ _ _ => true
  | .smulhN32 _ _ _ => true
  | .sand _ _ _ => true
  | .sor _ _ _ => true
  | .sxor _ _ _ => true
  | .sshl _ _ _ => true
  | .sshr _ _ _ => true
  | .ssra _ _ _ => true
  | .smin _ _ _ => true
  | .sminN32 _ _ _ => true
  | .smax _ _ _ => true
  | .smaxN32 _ _ _ => true
  | .ssel _ _ _ => true
  | .smov _ _ => true
  | .spopc _ _ => true
  | .sffs _ _ => true
  | .sbrev _ _ => true
  | .saddB64 d a b => WF.even d && WF.even a && WF.even b
  | .ssubB64 d a b => WF.even d && WF.even a && WF.even b
  | .scmp _ _ _ cond => decide (cond.toNat < 10)
  | .saddi _ _ _ => true
  | .sli _ _ => true
  | .sliH _ _ => true
  | .saddiB64 d a _ => WF.even d && WF.even a
  | .mand d a b => WF.mask d && WF.mask a && WF.mask b
  | .mor d a b rc => WF.mask d && WF.mask a && WF.mask b && (!rc || decide (d = 0))
  | .mandn d a b => WF.mask d && WF.mask a && WF.mask b
  | .mxor d a b => WF.mask d && WF.mask a && WF.mask b
  | .mnot d a => WF.mask d && WF.mask a
  | .mmov d a rc => WF.mask d && WF.mask a && (!rc || decide (d = 0))
  | .mpop _ a => WF.mask a
  | .mfirst _ a => WF.mask a
  | .jmp _ => true
  | .bz m _ => WF.mask m
  | .bnz m _ => WF.mask m
  | .bcT _ => true
  | .bcF _ => true
  | .call _ => true
  | .callw k _ => decide (k ≠ 0)
  | .ret => true
  | .retw => true
  | .exit => true
  | .repack m _ => WF.mask m
  | .unpack => true
  | .lrun len off => decide (1 ≤ len.toNat) && decide (len.toNat ≤ 24) && decide (off.toNat % 4 = 0)
  | .waitc _ _ _ _ _ _ mode => decide (mode.toNat < 2)
  | .waitr _ cls => decide (cls.toNat < 6)
  | .fence scope ord => WF.scope scope && decide (ord ≠ 0)
  | .pfence paths => decide (paths ≠ 0)
  | .xfence => true
  | .bari _ _ => true
  | .bara _ => true
  | .barw _ => true
  | .semadd d a b scope _ => WF.even d && WF.even a && WF.even b && WF.scope scope
  | .semwait a b scope test => WF.even a && WF.even b && WF.scope scope && decide (test ≠ 3)
  | .semset a b scope ord => WF.even a && WF.even b && WF.scope scope && (decide (ord = 0) || decide (ord = 2))
  | .semaphoreWaiterRetest _ => true
  | .semaphorePoll _ => true
  | .rpost _ _ => true
  | .rtake _ _ => true
  | .sldB32 _ a _ => WF.even a
  | .sldB64 d a _ => WF.even d && WF.even a
  | .sstB32 _ a _ => WF.even a
  | .sstB64 d a _ => WF.even d && WF.even a
  | .launch a => WF.even a
  | .spawn a _ => WF.even a
  | .getsr d n => WF.getsr d n
  | .setsr a n => WF.setsr a n
  | .nop => true
  | .yield => true
  | .bkpt => true
  | .mcommit => true
  | .trap _ => true
  | .mrest _ => true
  | .cbgoLadle _ a _ => WF.even a
  | .cbgoPle _ a => WF.even a
  | .cbgoRunner _ a _ => WF.even a
  | .cbstat _ _ => true
  | .lnop => true
  | .endrun f => WF.endrun f
  | .iadd f => WF.intAll f 2 true
  | .isub f => WF.intAll f 2 true
  | .iaddc f => WF.iaddc f
  | .imul f => WF.intAll f 2 true
  | .imulh f => WF.intAll f 2 false
  | .imad f => WF.imad f
  | .iabs f => WF.intAll f 1 true && decide (f.fn.toNat % 2 = 0)
  | .ineg f => WF.intAll f 1 true
  | .imin f => WF.intAll f 2 false
  | .imax f => WF.intAll f 2 false
  | .iclamp f => WF.intAll f 3 false
  | .and f => WF.logic f 2 1
  | .or f => WF.logic f 2 1
  | .xor f => WF.logic f 2 1
  | .not f => WF.logic f 1 0
  | .shl f => WF.shift f 0
  | .shr f => WF.shift f 0
  | .sra f => WF.shift f 0
  | .rot f => WF.shift f 1
  | .bfx f => WF.bfx f
  | .bfi f => WF.bfi f
  | .popc f => WF.count f
  | .clz f => WF.count f
  | .brev f => WF.logic f 1 0
  | .iset f => WF.iset f
  | .sel f => WF.sel f
  | .movl f => WF.logic f 1 0
  | .lim f => WF.lim f
  | .lea f => WF.lea f
  | .lea64 f => WF.lea64 f
  | .cvti f => WF.cvti f
  | .idot4 f => WF.idot4 f
  | .fadd f => WF.farith f 2 5 true
  | .fsub f => WF.farith f 2 5 true
  | .fmul f => WF.farith f 2 5 true
  | .ffma f => WF.farith f 3 5 true
  | .fmin f => WF.farith f 2 0 false
  | .fmax f => WF.farith f 2 0 false
  | .fset f => WF.fset f
  | .fclass f => WF.funary f 0 false && decide (f.aux = 0)
  | .frnd f => WF.funary f 5 false && decide (f.aux = 0)
  | .fcvt f => WF.funary f 5 true && decide (f.aux.toNat < 128)
  | .ftoi f => WF.ftoi f
  | .itof f => WF.itof f
  | .frcp f => WF.sfu f 1 4
  | .frsq f => WF.sfu f 1 0
  | .fsqrt f => WF.sfu f 1 4
  | .fexp2 f => WF.sfu f 1 0
  | .flog2 f => WF.sfu f 1 0
  | .fsin f => WF.sfu f 1 0
  | .fcos f => WF.sfu f 1 0
  | .ftanh f => WF.sfu f 1 0
  | .fdivs f => WF.sfu f 2 4
  | .hadd2 f => WF.farith f 2 5 true
  | .hmul2 f => WF.farith f 2 5 true
  | .hfma2 f => WF.farith f 3 5 true
  | .fdot2 f => WF.fdot2 f
  | .bmax f => WF.block f 1 false false false 1 0 false
  | .bscl f => WF.block f 1 false false true 1 5 true
  | .bqnt f => WF.block f 1 false false true 1 5 true
  | .bdqt f => WF.block f 1 true false false 16 5 true
  | .badd f => WF.block f 2 true true true 1 5 true
  | .bmul f => WF.block f 2 true true true 1 5 true
  | .bfma f => WF.block f 3 true true true 1 5 true && WF.reg f.c
  | .brnm f => WF.block f 1 true false true 1 5 true
  | .bcvt f => WF.block f 1 true false true 16 5 true
  | .bsdot f => WF.block f 3 true true false 256 0 true
  | .xred f => WF.xred f
  | .xldp f => WF.xldp f
  | .xpat f => WF.xpat f
  | .xshf f => WF.xshf f
  | .xbcst f => WF.xbcst f
  | .xgath f => WF.xgath f
  | .qswz f => WF.quad f 256
  | .qbcst f => WF.quad f 4
  | .vbal f => WF.vote f
  | .vany f => WF.vote f
  | .vall f => WF.vote f
  | .xscan f => WF.xscan f
  | .topk f => WF.topk f
  | .xsort f => WF.xsort f
  | .sdec f => WF.sdec f
  | .xxch f => WF.xxch f
  | .xxchExchangeComplete _ _ => true
  | .ldg f => WF.addr f && WF.load f 4 3 [0, 1]
  | .stg f => WF.addr f && WF.store f 4 3
  | .ldb f => WF.ldb f
  | .stb f => WF.stb f
  | .lds f => WF.saddr f && WF.load f 1 0 [0, 1]
  | .sts f => WF.saddr f && WF.store f 1 0
  | .ldl f => WF.ldl f
  | .ldc f => WF.addr f && WF.load f 0 0 [0]
  | .cstore f => WF.cstore f
  | .atom f => WF.atom f
  | .atomxAdd f => WF.atomx f 0
  | .atomxRd f => WF.atomx f 1
  | .atomxRdclr f => WF.atomx f 2
  | .atomxClr f => WF.atomx f 3
  | .redg f => WF.redg f
  | .pref f => WF.pref f
  | .mconv f => WF.ltZero f && decide (f.fn = 0)
  | .mconvDis f => WF.ltZero f && decide (f.fn = 1)
  | .mma f => WF.mma f
  | .mmas f => WF.mmas f
  | .gmma f => WF.gmma f
  | .matrixOperationDispatch twin => decide (twin < 216)
  | .matrixOperationRetire twin => decide (twin < 216)
  | .matrixWatchdogExpiry twin => decide (twin < 216)
  | .tzero f => WF.tzero f
  | .tld f => WF.tld f
  | .tst f => WF.tst f
  | .trd f => WF.trd f
  | .twr f => WF.twr f
  | .tileWordComplete _ _ => true
  | .lmma f => WF.lmma f
  | .qpost f => WF.qpost f
  | .qtake f => WF.take f 256
  | .sprueWordComplete _ _ => true
  | .plq f => WF.plq f
  | .plfuse f => WF.plfuse f
  | .plnext f => WF.take f 4
  | .plclose f => WF.plclose f
  | .runRetire _ => true
  | .loadComplete _ _ => true
  | .storePerformed _ _ => true
  | .sfuResultComplete _ _ => true
  | .marverWordComplete _ _ => true
  | .patternEntryLoaded _ _ => true
  | .engineStop p index => decide (p < 12) && decide (index < 90)
  | .faultRecordGroupWrite p => decide (p < 12)
  | .idleCounterSwapCheck core => decide (core < 432)
  | .issuePromotion _ => true
  | .placeUnit p => decide (p < 12)
  | .unitReservation p => decide (p < 12)
  | .wayConversionComplete core way => decide (core < 432) && decide (way < 12)
  | .workgroupStart _ => true
  | .workgroupRetire _ => true
  | .dispatcherEntry vnum chain => decide (vnum < 96) && decide (chain < 9)
  | .recordNextWake vnum chain => decide (vnum < 96) && decide (chain < 9)
  | .commandBlockFetch _ => true
  | .ladleNop _ => true
  | .copy _ => true
  | .quant _ => true
  | .dequant _ => true
  | .rescale _ => true
  | .transpose _ => true
  | .gather _ => true
  | .commandBlockSignal _ => true
  | .chainEnd _ => true
  | .commandBlockTestPoll _ => true
  | .pleNop _ => true
  | .query _ => true
  | .pleEmitEntry _ => true
  | .pleTimeBudgetExpiry _ => true
  | .runnerNop _ => true
  | .put _ => true
  | .get _ => true
  | .reduce _ => true
  | .notify _ => true
  | .runnerChunkDone _ => true
  | .peerRequestTimeout _ => true
  | .ualinkInboundRequest _ => true
  | .hostMemAccess _ => true
  | .hostUnsupportedRequest _ => true
  | .functionLevelReset vf => decide (1 ≤ vf) && decide (vf ≤ 96)
  | .cxlReset => true
  | .powerOn => true
  | .thermalSupplyTrip => true
  | .headWrite vnum c _ => decide (vnum < 96) && decide (c < 8)
  | .logbaseWrite vnum _ => decide (vnum < 96)
  | .logsizeWrite vnum _ => decide (vnum < 96)
  | .gtbaseWrite vnum _ => decide (vnum < 96)
  | .wbaseWrite vnum w _ => decide (vnum < 96) && decide (w < 16)
  | .registerWrite vnum _ _ => decide (vnum < 96)
  | .translationContextWrite asid _ => decide (asid < 96)
  | .genraise p asid => decide (p < 12) && decide (asid < 96)
  | .asflush p asid => decide (p < 12) && decide (asid < 96)
  | .flushTimeout p => decide (p < 12)
  | .ptsync p => decide (p < 12)
  | .replay p _ => decide (p < 12)
  | .pgclean p _ _ => decide (p < 12)
  | .escalate p _ => decide (p < 12)
  | .clreset p k => decide (p < 12) && decide (k < 9)
  | .clusterResetDeadline p => decide (p < 12)
  | .clusterPowerGate cluster => decide (cluster < 108)
  | .twinReset twin => decide (twin < 216)
  | .preemptContext _ => true
  | .preemptEngineAck _ => true
  | .contextRestore _ => true
  | .bucketRefill _ => true
  | .vdevTableWrite p i _ rates sprues =>
    decide (p < 12) && decide (i < 8) && decide (rates.length = 7) && sprues.all fun n => decide (n < 144)
  | .remapRegisterWrite sector _ => decide (sector < 6)
  | .portShareWrite shares => decide (shares.length = 12)
  | .readGrantSet p _ _ => decide (p < 12)
  | .strictModeSet p _ => decide (p < 12)
  | .partitionReset p => decide (p < 12)
  | .svnFuseRaise _ _ => true
  | .attestationRequest nonce => decide (nonce.length ≤ 32)
  | .debuggerEnable vnum _ => decide (vnum < 96)
  | .sidebandQuery _ => true
  | .gafferChainStart p ladle _ => decide (p < 12) && decide (ladle < 18)
  | .debuggerResume _ => true
  | .endGrid _ => true
  | .peerErrorResponse _ => true
  | .clusterUngate cluster => decide (cluster < 108)
  | .packagePowerLimit _ => true
  | .flitCheckFailure _ _ _ => true
  | .configurationRequest => true
  | .jtagAccess _ => true
  | .debugFuseUnlock => true

end Sys2Proof
end

