-- ==== Sys2Proof/Decode.lean ====
section
/-! DEFINITION. The decoder, total on any bytes, and after it the encoder, both from the encoding chapter (R45-R64). -/

namespace Sys2Proof

/-- Why a word is not an instruction (R51, R56, R64, R72). -/
inductive Reject where
  | scalarOpcode
  | scalarField
  | laneOpcode
  | laneField
  | length
  deriving DecidableEq, Repr

/-- The `n` bits of a word from bit `lo` upward. -/
def fld {k : Nat} (w : BitVec k) (lo n : Nat) : BitVec n := w.extractLsb' lo n

/-! ## Lane formats -/

/-- Bits 9:8 of an operand field (R55). -/
def RegFile.ofBits (b : BitVec 2) : RegFile :=
  match b.toNat with
  | 0 => .v
  | 1 => .q
  | 2 => .t
  | _ => .special

def RegFile.toBits : RegFile → BitVec 2
  | .v => 0
  | .q => 1
  | .t => 2
  | .special => 3

/-- An 11-bit source field (R55). -/
def Src.ofBits (b : BitVec 11) : Src := ⟨b.getLsbD 10, RegFile.ofBits (fld b 8 2), fld b 0 8⟩

def Src.toBits (x : Src) : BitVec 11 := BitVec.ofBool x.last ++ x.file.toBits ++ x.idx

/-- A 10-bit destination field (R55). -/
def Dst.ofBits (b : BitVec 10) : Dst := ⟨RegFile.ofBits (fld b 8 2), fld b 0 8⟩

def Dst.toBits (x : Dst) : BitVec 10 := x.file.toBits ++ x.idx

/-- The L3 fields (R55). -/
def L3.ofBits (w : BitVec 96) : L3 :=
  { fn := fld w 80 8, dst := Dst.ofBits (fld w 70 10), a := Src.ofBits (fld w 59 11), b := Src.ofBits (fld w 48 11),
    c := Src.ofBits (fld w 37 11), msel := fld w 34 3, fmt := fld w 30 4, rnd := fld w 27 3, sat := w.getLsbD 26,
    reuse := w.getLsbD 25, xA := fld w 20 5, xB := fld w 15 5, xD := fld w 10 5, aux := fld w 0 10 }

/-- The LI fields (R59). -/
def LI.ofBits (w : BitVec 96) : LI :=
  { fn := fld w 80 8, dst := Dst.ofBits (fld w 70 10), a := Src.ofBits (fld w 59 11), b := Src.ofBits (fld w 48 11),
    imm := fld w 16 32, msel := fld w 13 3, aux := fld w 0 13 }

/-- The LM fields (R60). -/
def LM.ofBits (w : BitVec 96) : LM :=
  { fn := fld w 80 8, dst := Dst.ofBits (fld w 70 10), a := Src.ofBits (fld w 59 11), b := Src.ofBits (fld w 48 11),
    off := fld w 32 16, msel := fld w 29 3, scope := fld w 26 3, order := fld w 24 2, width := fld w 20 4,
    xB := fld w 15 5, hint := fld w 13 2, amode := fld w 10 3, aux := fld w 0 10 }

/-- The LX fields (R61). -/
def LX.ofBits (w : BitVec 96) : LX :=
  { fn := fld w 80 8, dst := Dst.ofBits (fld w 70 10), a := Src.ofBits (fld w 59 11), b := Src.ofBits (fld w 48 11),
    c := Src.ofBits (fld w 37 11), msel := fld w 34 3, pat := fld w 28 6, esz := fld w 25 3, xA := fld w 20 5,
    xB := fld w 15 5, xD := fld w 10 5, imm := fld w 0 10 }

/-- The LT fields (R62). -/
def LT.ofBits (w : BitVec 96) : LT :=
  { fn := fld w 80 8, zD := fld w 73 7, zB := fld w 66 7, vA := fld w 58 8, vM := fld w 50 8, spat := fld w 48 2,
    sS := fld w 41 7, msel := fld w 34 3, fmt := fld w 30 4, rnd := fld w 27 3, sat := w.getLsbD 26,
    reuse := w.getLsbD 25, xA := fld w 20 5, xD := fld w 10 5, aux := fld w 0 10 }

/-- The two reserved fields of an LT word are 0 (R62). -/
def LT.reserved (w : BitVec 96) : Bool := decide (fld w 37 4 = 0) && decide (fld w 15 5 = 0)

/-- The LE fields (R63). -/
def LE.ofBits (w : BitVec 96) : LE :=
  { count := fld w 80 3, d0 := Dst.ofBits (fld w 70 10), d1 := Dst.ofBits (fld w 60 10), d2 := Dst.ofBits (fld w 50 10),
    d3 := Dst.ofBits (fld w 40 10) }

/-- The two reserved fields of an LE word are 0 (R63). -/
def LE.reserved (w : BitVec 96) : Bool := decide (fld w 83 5 = 0) && decide (fld w 0 40 = 0)

/-! ## The two decoders -/

/-- The instruction a scalar word's opcode, function and fixed fields name (R51); the field values are not yet checked. -/
def scalarRow (w : BitVec 32) : Option Instr :=
  match (fld w 26 6).toNat with
  | 0x01 =>
    if fld w 0 5 = 0 then some (.sadd (fld w 19 7) (fld w 12 7) (fld w 5 7)) else
    if fld w 0 5 = 1 then some (.ssub (fld w 19 7) (fld w 12 7) (fld w 5 7)) else
    if fld w 0 5 = 2 then some (.smul (fld w 19 7) (fld w 12 7) (fld w 5 7)) else
    if fld w 0 5 = 3 then some (.smulh (fld w 19 7) (fld w 12 7) (fld w 5 7)) else
    if fld w 0 5 = 4 then some (.smulhN32 (fld w 19 7) (fld w 12 7) (fld w 5 7)) else
    if fld w 0 5 = 5 then some (.sand (fld w 19 7) (fld w 12 7) (fld w 5 7)) else
    if fld w 0 5 = 6 then some (.sor (fld w 19 7) (fld w 12 7) (fld w 5 7)) else
    if fld w 0 5 = 7 then some (.sxor (fld w 19 7) (fld w 12 7) (fld w 5 7)) else
    if fld w 0 5 = 8 then some (.sshl (fld w 19 7) (fld w 12 7) (fld w 5 7)) else
    if fld w 0 5 = 9 then some (.sshr (fld w 19 7) (fld w 12 7) (fld w 5 7)) else
    if fld w 0 5 = 10 then some (.ssra (fld w 19 7) (fld w 12 7) (fld w 5 7)) else
    if fld w 0 5 = 11 then some (.smin (fld w 19 7) (fld w 12 7) (fld w 5 7)) else
    if fld w 0 5 = 12 then some (.sminN32 (fld w 19 7) (fld w 12 7) (fld w 5 7)) else
    if fld w 0 5 = 13 then some (.smax (fld w 19 7) (fld w 12 7) (fld w 5 7)) else
    if fld w 0 5 = 14 then some (.smaxN32 (fld w 19 7) (fld w 12 7) (fld w 5 7)) else
    if fld w 0 5 = 15 then some (.ssel (fld w 19 7) (fld w 12 7) (fld w 5 7)) else
    if fld w 0 12 = 16 then some (.smov (fld w 19 7) (fld w 12 7)) else
    if fld w 0 12 = 17 then some (.spopc (fld w 19 7) (fld w 12 7)) else
    if fld w 0 12 = 18 then some (.sffs (fld w 19 7) (fld w 12 7)) else
    if fld w 0 12 = 19 then some (.sbrev (fld w 19 7) (fld w 12 7)) else
    if fld w 0 5 = 20 then some (.saddB64 (fld w 19 7) (fld w 12 7) (fld w 5 7)) else
    if fld w 0 5 = 21 then some (.ssubB64 (fld w 19 7) (fld w 12 7) (fld w 5 7)) else none
  | 0x02 =>
    some (.scmp (fld w 19 7) (fld w 12 7) (fld w 5 7) (fld w 0 5))
  | 0x03 =>
    some (.saddi (fld w 19 7) (fld w 12 7) (fld w 0 12))
  | 0x04 =>
    some (.sli (fld w 19 7) (fld w 0 19))
  | 0x05 =>
    some (.sliH (fld w 19 7) (fld w 0 19))
  | 0x06 =>
    some (.saddiB64 (fld w 19 7) (fld w 12 7) (fld w 0 12))
  | 0x10 =>
    if fld w 0 5 = 0 then some (.mand (fld w 19 7) (fld w 12 7) (fld w 5 7)) else none
  | 0x11 =>
    if fld w 1 4 = 0 then some (.mor (fld w 19 7) (fld w 12 7) (fld w 5 7) (w.getLsbD 0)) else none
  | 0x12 =>
    if fld w 0 5 = 0 then some (.mandn (fld w 19 7) (fld w 12 7) (fld w 5 7)) else none
  | 0x13 =>
    if fld w 0 5 = 0 then some (.mxor (fld w 19 7) (fld w 12 7) (fld w 5 7)) else none
  | 0x14 =>
    if fld w 0 12 = 0 then some (.mnot (fld w 19 7) (fld w 12 7)) else none
  | 0x15 =>
    if fld w 1 11 = 0 then some (.mmov (fld w 19 7) (fld w 12 7) (w.getLsbD 0)) else none
  | 0x16 =>
    if fld w 0 12 = 0 then some (.mpop (fld w 19 7) (fld w 12 7)) else none
  | 0x17 =>
    if fld w 0 12 = 0 then some (.mfirst (fld w 19 7) (fld w 12 7)) else none
  | 0x18 =>
    if fld w 15 11 = 0 then some (.jmp (fld w 0 15)) else
    if fld w 22 4 = 1 then some (.bz (fld w 15 7) (fld w 0 15)) else
    if fld w 22 4 = 2 then some (.bnz (fld w 15 7) (fld w 0 15)) else
    if fld w 15 11 = 384 then some (.bcT (fld w 0 15)) else
    if fld w 15 11 = 512 then some (.bcF (fld w 0 15)) else none
  | 0x19 =>
    if fld w 15 11 = 0 then some (.call (fld w 0 15)) else none
  | 0x1A =>
    if fld w 15 7 = 0 then some (.callw (fld w 22 4) (fld w 0 15)) else none
  | 0x1B =>
    if fld w 0 26 = 0 then some (.ret) else
    if fld w 0 26 = 1 then some (.retw) else none
  | 0x1C =>
    if fld w 0 26 = 0 then some (.exit) else none
  | 0x1D =>
    if fld w 22 4 = 0 then some (.repack (fld w 15 7) (fld w 0 15)) else none
  | 0x1E =>
    if fld w 0 26 = 0 then some (.unpack) else none
  | 0x20 =>
    some (.lrun (fld w 21 5) (fld w 0 21))
  | 0x21 =>
    some (.waitc (fld w 22 4) (fld w 18 4) (fld w 14 4) (fld w 10 4) (fld w 6 4) (fld w 2 4) (fld w 0 2))
  | 0x22 =>
    if fld w 19 7 = 0 ∧ fld w 3 9 = 0 then some (.waitr (fld w 12 7) (fld w 0 3)) else none
  | 0x23 =>
    if fld w 5 21 = 0 then some (.fence (fld w 2 3) (fld w 0 2)) else none
  | 0x24 =>
    if fld w 4 22 = 0 then some (.pfence (fld w 0 4)) else none
  | 0x25 =>
    if fld w 0 26 = 0 then some (.xfence) else none
  | 0x28 =>
    if fld w 19 7 = 0 ∧ fld w 6 6 = 0 then some (.bari (fld w 12 7) (fld w 0 6)) else none
  | 0x29 =>
    if fld w 6 20 = 0 then some (.bara (fld w 0 6)) else none
  | 0x2A =>
    if fld w 6 20 = 0 then some (.barw (fld w 0 6)) else none
  | 0x2B =>
    some (.semadd (fld w 19 7) (fld w 12 7) (fld w 5 7) (fld w 2 3) (fld w 0 2))
  | 0x2C =>
    if fld w 19 7 = 0 then some (.semwait (fld w 12 7) (fld w 5 7) (fld w 2 3) (fld w 0 2)) else none
  | 0x2D =>
    if fld w 19 7 = 0 then some (.semset (fld w 12 7) (fld w 5 7) (fld w 2 3) (fld w 0 2)) else none
  | 0x2E =>
    if fld w 0 12 = 0 then some (.rpost (fld w 19 7) (fld w 12 7)) else none
  | 0x2F =>
    if fld w 0 12 = 0 then some (.rtake (fld w 19 7) (fld w 12 7)) else none
  | 0x30 =>
    some (.sldB32 (fld w 19 7) (fld w 12 7) (fld w 0 12))
  | 0x31 =>
    some (.sldB64 (fld w 19 7) (fld w 12 7) (fld w 0 12))
  | 0x32 =>
    some (.sstB32 (fld w 19 7) (fld w 12 7) (fld w 0 12))
  | 0x33 =>
    some (.sstB64 (fld w 19 7) (fld w 12 7) (fld w 0 12))
  | 0x34 =>
    if fld w 19 7 = 0 ∧ fld w 0 12 = 0 then some (.launch (fld w 12 7)) else none
  | 0x35 =>
    if fld w 19 7 = 0 ∧ fld w 0 5 = 0 then some (.spawn (fld w 12 7) (fld w 5 7)) else none
  | 0x38 =>
    if fld w 12 7 = 0 then some (.getsr (fld w 19 7) (fld w 0 12)) else none
  | 0x39 =>
    if fld w 19 7 = 0 then some (.setsr (fld w 12 7) (fld w 0 12)) else none
  | 0x3A =>
    if fld w 0 26 = 0 then some (.nop) else
    if fld w 0 26 = 1 then some (.yield) else
    if fld w 0 26 = 2 then some (.bkpt) else
    if fld w 0 26 = 3 then some (.mcommit) else none
  | 0x3B =>
    if fld w 19 7 = 0 then some (.trap (fld w 0 19)) else none
  | 0x3C =>
    if fld w 15 11 = 0 then some (.mrest (fld w 0 15)) else none
  | 0x3D =>
    if fld w 1 11 = 0 then some (.cbgoLadle (fld w 19 7) (fld w 12 7) (fld w 0 1)) else
    if fld w 0 12 = 2 then some (.cbgoPle (fld w 19 7) (fld w 12 7)) else
    if fld w 2 10 = 1 then some (.cbgoRunner (fld w 19 7) (fld w 12 7) (fld w 0 2)) else none
  | 0x3E =>
    if fld w 0 12 = 0 then some (.cbstat (fld w 19 7) (fld w 12 7)) else none
  | _ => none

/-- Whether a word's field values are checked only when it issues: an LRUN with an illegal length or offset (R72). -/
def lateChecked : Instr → Bool
  | .lrun _ _ => true
  | _ => false

/-- Decode a scalar word (R51, R72). -/
def decodeScalar (w : BitVec 32) : Except Reject Instr :=
  match scalarRow w with
  | none => .error .scalarOpcode
  | some i => if i.wf || lateChecked i then .ok i else .error .scalarField

/-- The instruction a lane word's opcode names, with its fields (R64). -/
def laneRow (w : BitVec 96) : Option Instr :=
  match (fld w 88 8).toNat with
  | 0x00 => some .lnop
  | 0x10 => some (.iadd (L3.ofBits w))
  | 0x11 => some (.isub (L3.ofBits w))
  | 0x12 => some (.iaddc (L3.ofBits w))
  | 0x13 => some (.imul (L3.ofBits w))
  | 0x14 => some (.imulh (L3.ofBits w))
  | 0x15 => some (.imad (L3.ofBits w))
  | 0x16 => some (.iabs (L3.ofBits w))
  | 0x17 => some (.ineg (L3.ofBits w))
  | 0x18 => some (.imin (L3.ofBits w))
  | 0x19 => some (.imax (L3.ofBits w))
  | 0x1A => some (.iclamp (L3.ofBits w))
  | 0x1B => some (.and (L3.ofBits w))
  | 0x1C => some (.or (L3.ofBits w))
  | 0x1D => some (.xor (L3.ofBits w))
  | 0x1E => some (.not (L3.ofBits w))
  | 0x1F => some (.shl (L3.ofBits w))
  | 0x20 => some (.shr (L3.ofBits w))
  | 0x21 => some (.sra (L3.ofBits w))
  | 0x22 => some (.rot (L3.ofBits w))
  | 0x23 => some (.bfx (L3.ofBits w))
  | 0x24 => some (.bfi (L3.ofBits w))
  | 0x25 => some (.popc (L3.ofBits w))
  | 0x26 => some (.clz (L3.ofBits w))
  | 0x27 => some (.brev (L3.ofBits w))
  | 0x28 => some (.iset (L3.ofBits w))
  | 0x29 => some (.sel (L3.ofBits w))
  | 0x2A => some (.movl (L3.ofBits w))
  | 0x2B => some (.lim (LI.ofBits w))
  | 0x2C => some (.lea (L3.ofBits w))
  | 0x2D => some (.lea64 (L3.ofBits w))
  | 0x2E => some (.cvti (L3.ofBits w))
  | 0x2F => some (.idot4 (L3.ofBits w))
  | 0x30 => some (.fadd (L3.ofBits w))
  | 0x31 => some (.fsub (L3.ofBits w))
  | 0x32 => some (.fmul (L3.ofBits w))
  | 0x33 => some (.ffma (L3.ofBits w))
  | 0x34 => some (.fmin (L3.ofBits w))
  | 0x35 => some (.fmax (L3.ofBits w))
  | 0x36 => some (.fset (L3.ofBits w))
  | 0x37 => some (.fclass (L3.ofBits w))
  | 0x38 => some (.frnd (L3.ofBits w))
  | 0x39 => some (.fcvt (L3.ofBits w))
  | 0x3A => some (.ftoi (L3.ofBits w))
  | 0x3B => some (.itof (L3.ofBits w))
  | 0x3C => some (.frcp (L3.ofBits w))
  | 0x3D => some (.frsq (L3.ofBits w))
  | 0x3E => some (.fsqrt (L3.ofBits w))
  | 0x3F => some (.fexp2 (L3.ofBits w))
  | 0x40 => some (.flog2 (L3.ofBits w))
  | 0x41 => some (.fsin (L3.ofBits w))
  | 0x42 => some (.fcos (L3.ofBits w))
  | 0x43 => some (.ftanh (L3.ofBits w))
  | 0x44 => some (.fdivs (L3.ofBits w))
  | 0x45 => some (.hadd2 (L3.ofBits w))
  | 0x46 => some (.hmul2 (L3.ofBits w))
  | 0x47 => some (.hfma2 (L3.ofBits w))
  | 0x48 => some (.fdot2 (L3.ofBits w))
  | 0x50 => some (.bmax (L3.ofBits w))
  | 0x51 => some (.bscl (L3.ofBits w))
  | 0x52 => some (.bqnt (L3.ofBits w))
  | 0x53 => some (.bdqt (L3.ofBits w))
  | 0x54 => some (.badd (L3.ofBits w))
  | 0x55 => some (.bmul (L3.ofBits w))
  | 0x56 => some (.bfma (L3.ofBits w))
  | 0x57 => some (.brnm (L3.ofBits w))
  | 0x58 => some (.bcvt (L3.ofBits w))
  | 0x59 => some (.bsdot (L3.ofBits w))
  | 0x5A => some (.xred (L3.ofBits w))
  | 0x90 => some (.qpost (L3.ofBits w))
  | 0x91 => some (.qtake (L3.ofBits w))
  | 0x92 => some (.plq (L3.ofBits w))
  | 0x93 => some (.plfuse (L3.ofBits w))
  | 0x94 => some (.plnext (L3.ofBits w))
  | 0x95 => some (.plclose (L3.ofBits w))
  | 0x98 => some (.lmma (L3.ofBits w))
  | 0x60 => some (.xldp (LX.ofBits w))
  | 0x61 => some (.xpat (LX.ofBits w))
  | 0x62 => some (.xshf (LX.ofBits w))
  | 0x63 => some (.xbcst (LX.ofBits w))
  | 0x64 => some (.xgath (LX.ofBits w))
  | 0x65 => some (.qswz (LX.ofBits w))
  | 0x66 => some (.qbcst (LX.ofBits w))
  | 0x67 => some (.vbal (LX.ofBits w))
  | 0x68 => some (.vany (LX.ofBits w))
  | 0x69 => some (.vall (LX.ofBits w))
  | 0x6A => some (.xscan (LX.ofBits w))
  | 0x6B => some (.topk (LX.ofBits w))
  | 0x6C => some (.xsort (LX.ofBits w))
  | 0x6D => some (.sdec (LX.ofBits w))
  | 0x6E => some (.xxch (LX.ofBits w))
  | 0x70 => some (.ldg (LM.ofBits w))
  | 0x71 => some (.stg (LM.ofBits w))
  | 0x72 => some (.ldb (LM.ofBits w))
  | 0x73 => some (.stb (LM.ofBits w))
  | 0x74 => some (.lds (LM.ofBits w))
  | 0x75 => some (.sts (LM.ofBits w))
  | 0x76 => some (.ldl (LM.ofBits w))
  | 0x77 => some (.ldc (LM.ofBits w))
  | 0x78 => some (.cstore (LM.ofBits w))
  | 0x79 => some (.atom (LM.ofBits w))
  | 0x7A =>
    match (fld w 80 2).toNat with
    | 0 => some (.atomxAdd (LM.ofBits w))
    | 1 => some (.atomxRd (LM.ofBits w))
    | 2 => some (.atomxRdclr (LM.ofBits w))
    | _ => some (.atomxClr (LM.ofBits w))
  | 0x7B => some (.redg (LM.ofBits w))
  | 0x7C => some (.pref (LM.ofBits w))
  | 0x80 => if fld w 80 8 = 1 then some (.mconvDis (LT.ofBits w)) else some (.mconv (LT.ofBits w))
  | 0x81 => some (.mma (LT.ofBits w))
  | 0x82 => some (.mmas (LT.ofBits w))
  | 0x83 => some (.gmma (LT.ofBits w))
  | 0x84 => some (.tzero (LT.ofBits w))
  | 0x85 => some (.tld (LT.ofBits w))
  | 0x86 => some (.tst (LT.ofBits w))
  | 0x87 => some (.trd (LT.ofBits w))
  | 0x88 => some (.twr (LT.ofBits w))
  | 0xF0 => some (.endrun (LE.ofBits w))
  | _ => none

/-- The reserved bits of a lane word are 0: all of LNOP below its opcode, and the reserved fields of LT and LE. -/
def laneReserved (w : BitVec 96) : Bool :=
  match (fld w 88 8).toNat with
  | 0x00 => decide (w = 0)
  | 0xF0 => LE.reserved w
  | n => if 0x80 ≤ n ∧ n ≤ 0x88 then LT.reserved w else true

/-- Decode a lane word (R64, R70, R72). -/
def decodeLane (w : BitVec 96) : Except Reject Instr :=
  match laneRow w with
  | none => .error .laneOpcode
  | some i => if laneReserved w && i.wf then .ok i else .error .laneField

/-- A 32-bit word from four bytes, lowest address first (R42). -/
def word32 (b0 b1 b2 b3 : Byte) : BitVec 32 := b3 ++ b2 ++ b1 ++ b0

/-- Decode the bytes of one word: four of a scalar word, twelve of a lane word (R42). -/
def decodeBytes : List Byte → Except Reject Instr
  | [b0, b1, b2, b3] => decodeScalar (word32 b0 b1 b2 b3)
  | [b0, b1, b2, b3, b4, b5, b6, b7, b8, b9, b10, b11] =>
    decodeLane (word32 b8 b9 b10 b11 ++ word32 b4 b5 b6 b7 ++ word32 b0 b1 b2 b3)
  | _ => .error .length

/-- The bytes of a word of `n` bytes, lowest address first. -/
def bytesOf : Nat → Nat → List Byte
  | 0, _ => []
  | n + 1, w => BitVec.ofNat 8 w :: bytesOf n (w / 256)

/-- The instruction the decoder reads from the bits `w` of a table row of `nbits` bits: a scalar word when they fit in
32 bits, a lane word otherwise. -/
def decodeTableWord (nbits w : Nat) : Option Instr :=
  match decodeBytes (bytesOf (if nbits ≤ 32 then 4 else 12) w) with
  | .ok i => some i
  | .error _ => none

/-! ## The encoder -/

def L3.toBits (op : BitVec 8) (f : L3) : BitVec 96 :=
  op ++ f.fn ++ f.dst.toBits ++ f.a.toBits ++ f.b.toBits ++ f.c.toBits ++ f.msel ++ f.fmt ++ f.rnd ++ BitVec.ofBool f.sat
    ++ BitVec.ofBool f.reuse ++ f.xA ++ f.xB ++ f.xD ++ f.aux

def LI.toBits (op : BitVec 8) (f : LI) : BitVec 96 :=
  op ++ f.fn ++ f.dst.toBits ++ f.a.toBits ++ f.b.toBits ++ f.imm ++ f.msel ++ f.aux

def LM.toBits (op : BitVec 8) (f : LM) : BitVec 96 :=
  op ++ f.fn ++ f.dst.toBits ++ f.a.toBits ++ f.b.toBits ++ f.off ++ f.msel ++ f.scope ++ f.order ++ f.width ++ f.xB
    ++ f.hint ++ f.amode ++ f.aux

def LX.toBits (op : BitVec 8) (f : LX) : BitVec 96 :=
  op ++ f.fn ++ f.dst.toBits ++ f.a.toBits ++ f.b.toBits ++ f.c.toBits ++ f.msel ++ f.pat ++ f.esz ++ f.xA ++ f.xB
    ++ f.xD ++ f.imm

def LT.toBits (op : BitVec 8) (f : LT) : BitVec 96 :=
  op ++ f.fn ++ f.zD ++ f.zB ++ f.vA ++ f.vM ++ f.spat ++ f.sS ++ (0 : BitVec 4) ++ f.msel ++ f.fmt ++ f.rnd
    ++ BitVec.ofBool f.sat ++ BitVec.ofBool f.reuse ++ f.xA ++ (0 : BitVec 5) ++ f.xD ++ f.aux

def LE.toBits (op : BitVec 8) (f : LE) : BitVec 96 :=
  op ++ (0 : BitVec 5) ++ f.count ++ f.d0.toBits ++ f.d1.toBits ++ f.d2.toBits ++ f.d3.toBits ++ (0 : BitVec 40)

/-- The three words of a lane word in address order (R42). -/
def laneWords (w : BitVec 96) : List (BitVec 32) := [fld w 0 32, fld w 32 32, fld w 64 32]

/-- The words of an instruction, in address order; a step of the part that is no word has none. -/
def encode : Instr → List (BitVec 32)
  | .sadd d a b => [(0x1 : BitVec 6) ++ d ++ a ++ b ++ (0x0 : BitVec 5)]
  | .ssub d a b => [(0x1 : BitVec 6) ++ d ++ a ++ b ++ (0x1 : BitVec 5)]
  | .smul d a b => [(0x1 : BitVec 6) ++ d ++ a ++ b ++ (0x2 : BitVec 5)]
  | .smulh d a b => [(0x1 : BitVec 6) ++ d ++ a ++ b ++ (0x3 : BitVec 5)]
  | .smulhN32 d a b => [(0x1 : BitVec 6) ++ d ++ a ++ b ++ (0x4 : BitVec 5)]
  | .sand d a b => [(0x1 : BitVec 6) ++ d ++ a ++ b ++ (0x5 : BitVec 5)]
  | .sor d a b => [(0x1 : BitVec 6) ++ d ++ a ++ b ++ (0x6 : BitVec 5)]
  | .sxor d a b => [(0x1 : BitVec 6) ++ d ++ a ++ b ++ (0x7 : BitVec 5)]
  | .sshl d a b => [(0x1 : BitVec 6) ++ d ++ a ++ b ++ (0x8 : BitVec 5)]
  | .sshr d a b => [(0x1 : BitVec 6) ++ d ++ a ++ b ++ (0x9 : BitVec 5)]
  | .ssra d a b => [(0x1 : BitVec 6) ++ d ++ a ++ b ++ (0xA : BitVec 5)]
  | .smin d a b => [(0x1 : BitVec 6) ++ d ++ a ++ b ++ (0xB : BitVec 5)]
  | .sminN32 d a b => [(0x1 : BitVec 6) ++ d ++ a ++ b ++ (0xC : BitVec 5)]
  | .smax d a b => [(0x1 : BitVec 6) ++ d ++ a ++ b ++ (0xD : BitVec 5)]
  | .smaxN32 d a b => [(0x1 : BitVec 6) ++ d ++ a ++ b ++ (0xE : BitVec 5)]
  | .ssel d a b => [(0x1 : BitVec 6) ++ d ++ a ++ b ++ (0xF : BitVec 5)]
  | .smov d a => [(0x1 : BitVec 6) ++ d ++ a ++ (0x10 : BitVec 12)]
  | .spopc d a => [(0x1 : BitVec 6) ++ d ++ a ++ (0x11 : BitVec 12)]
  | .sffs d a => [(0x1 : BitVec 6) ++ d ++ a ++ (0x12 : BitVec 12)]
  | .sbrev d a => [(0x1 : BitVec 6) ++ d ++ a ++ (0x13 : BitVec 12)]
  | .saddB64 d a b => [(0x1 : BitVec 6) ++ d ++ a ++ b ++ (0x14 : BitVec 5)]
  | .ssubB64 d a b => [(0x1 : BitVec 6) ++ d ++ a ++ b ++ (0x15 : BitVec 5)]
  | .scmp d a b cond => [(0x2 : BitVec 6) ++ d ++ a ++ b ++ cond]
  | .saddi d a imm => [(0x3 : BitVec 6) ++ d ++ a ++ imm]
  | .sli d imm => [(0x4 : BitVec 6) ++ d ++ imm]
  | .sliH d imm => [(0x5 : BitVec 6) ++ d ++ imm]
  | .saddiB64 d a imm => [(0x6 : BitVec 6) ++ d ++ a ++ imm]
  | .mand d a b => [(0x10 : BitVec 6) ++ d ++ a ++ b ++ (0x0 : BitVec 5)]
  | .mor d a b rc => [(0x11 : BitVec 6) ++ d ++ a ++ b ++ (0x0 : BitVec 4) ++ BitVec.ofBool rc]
  | .mandn d a b => [(0x12 : BitVec 6) ++ d ++ a ++ b ++ (0x0 : BitVec 5)]
  | .mxor d a b => [(0x13 : BitVec 6) ++ d ++ a ++ b ++ (0x0 : BitVec 5)]
  | .mnot d a => [(0x14 : BitVec 6) ++ d ++ a ++ (0x0 : BitVec 12)]
  | .mmov d a rc => [(0x15 : BitVec 6) ++ d ++ a ++ (0x0 : BitVec 11) ++ BitVec.ofBool rc]
  | .mpop d a => [(0x16 : BitVec 6) ++ d ++ a ++ (0x0 : BitVec 12)]
  | .mfirst d a => [(0x17 : BitVec 6) ++ d ++ a ++ (0x0 : BitVec 12)]
  | .jmp off => [(0xC000 : BitVec 17) ++ off]
  | .bz m off => [(0x181 : BitVec 10) ++ m ++ off]
  | .bnz m off => [(0x182 : BitVec 10) ++ m ++ off]
  | .bcT off => [(0xC180 : BitVec 17) ++ off]
  | .bcF off => [(0xC200 : BitVec 17) ++ off]
  | .call off => [(0xC800 : BitVec 17) ++ off]
  | .callw k off => [(0x1A : BitVec 6) ++ k ++ (0x0 : BitVec 7) ++ off]
  | .ret => [(0x6C000000 : BitVec 32)]
  | .retw => [(0x6C000001 : BitVec 32)]
  | .exit => [(0x70000000 : BitVec 32)]
  | .repack m off => [(0x1D0 : BitVec 10) ++ m ++ off]
  | .unpack => [(0x78000000 : BitVec 32)]
  | .lrun len off => [(0x20 : BitVec 6) ++ len ++ off]
  | .waitc ld st cp tl gx pl mode => [(0x21 : BitVec 6) ++ ld ++ st ++ cp ++ tl ++ gx ++ pl ++ mode]
  | .waitr a cls => [(0x1100 : BitVec 13) ++ a ++ (0x0 : BitVec 9) ++ cls]
  | .fence scope ord => [(0x4600000 : BitVec 27) ++ scope ++ ord]
  | .pfence paths => [(0x9000000 : BitVec 28) ++ paths]
  | .xfence => [(0x94000000 : BitVec 32)]
  | .bari a b => [(0x1400 : BitVec 13) ++ a ++ (0x0 : BitVec 6) ++ b]
  | .bara b => [(0x2900000 : BitVec 26) ++ b]
  | .barw b => [(0x2A00000 : BitVec 26) ++ b]
  | .semadd d a b scope ord => [(0x2B : BitVec 6) ++ d ++ a ++ b ++ scope ++ ord]
  | .semwait a b scope test => [(0x1600 : BitVec 13) ++ a ++ b ++ scope ++ test]
  | .semset a b scope ord => [(0x1680 : BitVec 13) ++ a ++ b ++ scope ++ ord]
  | .rpost d a => [(0x2E : BitVec 6) ++ d ++ a ++ (0x0 : BitVec 12)]
  | .rtake d a => [(0x2F : BitVec 6) ++ d ++ a ++ (0x0 : BitVec 12)]
  | .sldB32 d a imm => [(0x30 : BitVec 6) ++ d ++ a ++ imm]
  | .sldB64 d a imm => [(0x31 : BitVec 6) ++ d ++ a ++ imm]
  | .sstB32 d a imm => [(0x32 : BitVec 6) ++ d ++ a ++ imm]
  | .sstB64 d a imm => [(0x33 : BitVec 6) ++ d ++ a ++ imm]
  | .launch a => [(0x1A00 : BitVec 13) ++ a ++ (0x0 : BitVec 12)]
  | .spawn a b => [(0x1A80 : BitVec 13) ++ a ++ b ++ (0x0 : BitVec 5)]
  | .getsr d n => [(0x38 : BitVec 6) ++ d ++ (0x0 : BitVec 7) ++ n]
  | .setsr a n => [(0x1C80 : BitVec 13) ++ a ++ n]
  | .nop => [(0xE8000000 : BitVec 32)]
  | .yield => [(0xE8000001 : BitVec 32)]
  | .bkpt => [(0xE8000002 : BitVec 32)]
  | .mcommit => [(0xE8000003 : BitVec 32)]
  | .trap code => [(0x1D80 : BitVec 13) ++ code]
  | .mrest off => [(0x1E000 : BitVec 17) ++ off]
  | .cbgoLadle d a e => [(0x3D : BitVec 6) ++ d ++ a ++ (0x0 : BitVec 11) ++ e]
  | .cbgoPle d a => [(0x3D : BitVec 6) ++ d ++ a ++ (0x2 : BitVec 12)]
  | .cbgoRunner d a e => [(0x3D : BitVec 6) ++ d ++ a ++ (0x1 : BitVec 10) ++ e]
  | .cbstat d a => [(0x3E : BitVec 6) ++ d ++ a ++ (0x0 : BitVec 12)]
  | .lnop => laneWords 0
  | .endrun f => laneWords (f.toBits 0xF0)
  | .iadd f => laneWords (f.toBits 0x10)
  | .isub f => laneWords (f.toBits 0x11)
  | .iaddc f => laneWords (f.toBits 0x12)
  | .imul f => laneWords (f.toBits 0x13)
  | .imulh f => laneWords (f.toBits 0x14)
  | .imad f => laneWords (f.toBits 0x15)
  | .iabs f => laneWords (f.toBits 0x16)
  | .ineg f => laneWords (f.toBits 0x17)
  | .imin f => laneWords (f.toBits 0x18)
  | .imax f => laneWords (f.toBits 0x19)
  | .iclamp f => laneWords (f.toBits 0x1A)
  | .and f => laneWords (f.toBits 0x1B)
  | .or f => laneWords (f.toBits 0x1C)
  | .xor f => laneWords (f.toBits 0x1D)
  | .not f => laneWords (f.toBits 0x1E)
  | .shl f => laneWords (f.toBits 0x1F)
  | .shr f => laneWords (f.toBits 0x20)
  | .sra f => laneWords (f.toBits 0x21)
  | .rot f => laneWords (f.toBits 0x22)
  | .bfx f => laneWords (f.toBits 0x23)
  | .bfi f => laneWords (f.toBits 0x24)
  | .popc f => laneWords (f.toBits 0x25)
  | .clz f => laneWords (f.toBits 0x26)
  | .brev f => laneWords (f.toBits 0x27)
  | .iset f => laneWords (f.toBits 0x28)
  | .sel f => laneWords (f.toBits 0x29)
  | .movl f => laneWords (f.toBits 0x2A)
  | .lim f => laneWords (f.toBits 0x2B)
  | .lea f => laneWords (f.toBits 0x2C)
  | .lea64 f => laneWords (f.toBits 0x2D)
  | .cvti f => laneWords (f.toBits 0x2E)
  | .idot4 f => laneWords (f.toBits 0x2F)
  | .fadd f => laneWords (f.toBits 0x30)
  | .fsub f => laneWords (f.toBits 0x31)
  | .fmul f => laneWords (f.toBits 0x32)
  | .ffma f => laneWords (f.toBits 0x33)
  | .fmin f => laneWords (f.toBits 0x34)
  | .fmax f => laneWords (f.toBits 0x35)
  | .fset f => laneWords (f.toBits 0x36)
  | .fclass f => laneWords (f.toBits 0x37)
  | .frnd f => laneWords (f.toBits 0x38)
  | .fcvt f => laneWords (f.toBits 0x39)
  | .ftoi f => laneWords (f.toBits 0x3A)
  | .itof f => laneWords (f.toBits 0x3B)
  | .frcp f => laneWords (f.toBits 0x3C)
  | .frsq f => laneWords (f.toBits 0x3D)
  | .fsqrt f => laneWords (f.toBits 0x3E)
  | .fexp2 f => laneWords (f.toBits 0x3F)
  | .flog2 f => laneWords (f.toBits 0x40)
  | .fsin f => laneWords (f.toBits 0x41)
  | .fcos f => laneWords (f.toBits 0x42)
  | .ftanh f => laneWords (f.toBits 0x43)
  | .fdivs f => laneWords (f.toBits 0x44)
  | .hadd2 f => laneWords (f.toBits 0x45)
  | .hmul2 f => laneWords (f.toBits 0x46)
  | .hfma2 f => laneWords (f.toBits 0x47)
  | .fdot2 f => laneWords (f.toBits 0x48)
  | .bmax f => laneWords (f.toBits 0x50)
  | .bscl f => laneWords (f.toBits 0x51)
  | .bqnt f => laneWords (f.toBits 0x52)
  | .bdqt f => laneWords (f.toBits 0x53)
  | .badd f => laneWords (f.toBits 0x54)
  | .bmul f => laneWords (f.toBits 0x55)
  | .bfma f => laneWords (f.toBits 0x56)
  | .brnm f => laneWords (f.toBits 0x57)
  | .bcvt f => laneWords (f.toBits 0x58)
  | .bsdot f => laneWords (f.toBits 0x59)
  | .xred f => laneWords (f.toBits 0x5A)
  | .qpost f => laneWords (f.toBits 0x90)
  | .qtake f => laneWords (f.toBits 0x91)
  | .plq f => laneWords (f.toBits 0x92)
  | .plfuse f => laneWords (f.toBits 0x93)
  | .plnext f => laneWords (f.toBits 0x94)
  | .plclose f => laneWords (f.toBits 0x95)
  | .lmma f => laneWords (f.toBits 0x98)
  | .xldp f => laneWords (f.toBits 0x60)
  | .xpat f => laneWords (f.toBits 0x61)
  | .xshf f => laneWords (f.toBits 0x62)
  | .xbcst f => laneWords (f.toBits 0x63)
  | .xgath f => laneWords (f.toBits 0x64)
  | .qswz f => laneWords (f.toBits 0x65)
  | .qbcst f => laneWords (f.toBits 0x66)
  | .vbal f => laneWords (f.toBits 0x67)
  | .vany f => laneWords (f.toBits 0x68)
  | .vall f => laneWords (f.toBits 0x69)
  | .xscan f => laneWords (f.toBits 0x6A)
  | .topk f => laneWords (f.toBits 0x6B)
  | .xsort f => laneWords (f.toBits 0x6C)
  | .sdec f => laneWords (f.toBits 0x6D)
  | .xxch f => laneWords (f.toBits 0x6E)
  | .ldg f => laneWords (f.toBits 0x70)
  | .stg f => laneWords (f.toBits 0x71)
  | .ldb f => laneWords (f.toBits 0x72)
  | .stb f => laneWords (f.toBits 0x73)
  | .lds f => laneWords (f.toBits 0x74)
  | .sts f => laneWords (f.toBits 0x75)
  | .ldl f => laneWords (f.toBits 0x76)
  | .ldc f => laneWords (f.toBits 0x77)
  | .cstore f => laneWords (f.toBits 0x78)
  | .atom f => laneWords (f.toBits 0x79)
  | .atomxAdd f => laneWords (f.toBits 0x7A)
  | .atomxRd f => laneWords (f.toBits 0x7A)
  | .atomxRdclr f => laneWords (f.toBits 0x7A)
  | .atomxClr f => laneWords (f.toBits 0x7A)
  | .redg f => laneWords (f.toBits 0x7B)
  | .pref f => laneWords (f.toBits 0x7C)
  | .mconv f => laneWords (f.toBits 0x80)
  | .mconvDis f => laneWords (f.toBits 0x80)
  | .mma f => laneWords (f.toBits 0x81)
  | .mmas f => laneWords (f.toBits 0x82)
  | .gmma f => laneWords (f.toBits 0x83)
  | .tzero f => laneWords (f.toBits 0x84)
  | .tld f => laneWords (f.toBits 0x85)
  | .tst f => laneWords (f.toBits 0x86)
  | .trd f => laneWords (f.toBits 0x87)
  | .twr f => laneWords (f.toBits 0x88)
  | .semaphoreWaiterRetest _ => []
  | .semaphorePoll _ => []
  | .xxchExchangeComplete _ _ => []
  | .matrixOperationDispatch _ => []
  | .matrixOperationRetire _ => []
  | .matrixWatchdogExpiry _ => []
  | .tileWordComplete _ _ => []
  | .sprueWordComplete _ _ => []
  | .runRetire _ => []
  | .loadComplete _ _ => []
  | .storePerformed _ _ => []
  | .sfuResultComplete _ _ => []
  | .marverWordComplete _ _ => []
  | .patternEntryLoaded _ _ => []
  | .engineStop _ _ => []
  | .faultRecordGroupWrite _ => []
  | .idleCounterSwapCheck _ => []
  | .issuePromotion _ => []
  | .placeUnit _ => []
  | .unitReservation _ => []
  | .wayConversionComplete _ _ => []
  | .workgroupStart _ => []
  | .workgroupRetire _ => []
  | .dispatcherEntry _ _ => []
  | .recordNextWake _ _ => []
  | .commandBlockFetch _ => []
  | .ladleNop _ => []
  | .copy _ => []
  | .quant _ => []
  | .dequant _ => []
  | .rescale _ => []
  | .transpose _ => []
  | .gather _ => []
  | .commandBlockSignal _ => []
  | .chainEnd _ => []
  | .commandBlockTestPoll _ => []
  | .pleNop _ => []
  | .query _ => []
  | .pleEmitEntry _ => []
  | .pleTimeBudgetExpiry _ => []
  | .runnerNop _ => []
  | .put _ => []
  | .get _ => []
  | .reduce _ => []
  | .notify _ => []
  | .runnerChunkDone _ => []
  | .peerRequestTimeout _ => []
  | .ualinkInboundRequest _ => []
  | .hostMemAccess _ => []
  | .hostUnsupportedRequest _ => []
  | .functionLevelReset _ => []
  | .cxlReset => []
  | .powerOn => []
  | .thermalSupplyTrip => []
  | .headWrite _ _ _ => []
  | .logbaseWrite _ _ => []
  | .logsizeWrite _ _ => []
  | .gtbaseWrite _ _ => []
  | .wbaseWrite _ _ _ => []
  | .registerWrite _ _ _ => []
  | .translationContextWrite _ _ => []
  | .genraise _ _ => []
  | .asflush _ _ => []
  | .flushTimeout _ => []
  | .ptsync _ => []
  | .replay _ _ => []
  | .pgclean _ _ _ => []
  | .escalate _ _ => []
  | .clreset _ _ => []
  | .clusterResetDeadline _ => []
  | .clusterPowerGate _ => []
  | .twinReset _ => []
  | .preemptContext _ => []
  | .preemptEngineAck _ => []
  | .contextRestore _ => []
  | .bucketRefill _ => []
  | .vdevTableWrite _ _ _ _ _ => []
  | .remapRegisterWrite _ _ => []
  | .portShareWrite _ => []
  | .readGrantSet _ _ _ => []
  | .strictModeSet _ _ => []
  | .partitionReset _ => []
  | .svnFuseRaise _ _ => []
  | .attestationRequest _ => []
  | .debuggerEnable _ _ => []
  | .sidebandQuery _ => []
  | .gafferChainStart _ _ _ => []
  | .debuggerResume _ => []
  | .endGrid _ => []
  | .peerErrorResponse _ => []
  | .clusterUngate _ => []
  | .packagePowerLimit _ => []
  | .flitCheckFailure _ _ _ => []
  | .configurationRequest => []
  | .jtagAccess _ => []
  | .debugFuseUnlock => []

end Sys2Proof
end

