-- ==== Sys2Proof/Machine/Map.lean ====
section
/-! DEFINITION. The operations of the two containers of the state: sparse tables and byte memory. -/

namespace Sys2Proof

/-- The entry of a key, if there is one. -/
def SMap.find? {α : Type} (k : Nat) : SMap α → Option α
  | [] => none
  | (k', v) :: t => if k' = k then some v else SMap.find? k t

/-- The entry of a key, or a default. -/
def SMap.getD {α : Type} (k : Nat) (d : α) (m : SMap α) : α := (SMap.find? k m).getD d

/-- Set the entry of a key, keeping the keys rising. -/
def SMap.put {α : Type} (k : Nat) (v : α) : SMap α → SMap α
  | [] => [(k, v)]
  | (k', v') :: t =>
    if k < k' then (k, v) :: (k', v') :: t
    else if k = k' then (k, v) :: t
    else (k', v') :: SMap.put k v t

/-- Remove the entry of a key. -/
def SMap.erase {α : Type} (k : Nat) : SMap α → SMap α
  | [] => []
  | (k', v') :: t => if k' = k then SMap.erase k t else (k', v') :: SMap.erase k t

/-- Change the entry of a key, starting from a default where there is none. -/
def SMap.upd {α : Type} (k : Nat) (d : α) (f : α → α) (m : SMap α) : SMap α :=
  SMap.put k (f (SMap.getD k d m)) m

/-- Change the entry of a key where there is one. -/
def SMap.modify {α : Type} (k : Nat) (f : α → α) (m : SMap α) : SMap α :=
  match SMap.find? k m with
  | some v => SMap.put k (f v) m
  | none => m

/-- The keys, in rising order. -/
def SMap.keys {α : Type} (m : SMap α) : List Nat := m.map Prod.fst

/-- The entries, in rising key order. -/
def SMap.vals {α : Type} (m : SMap α) : List α := m.map Prod.snd

/-- Keep the entries that satisfy a test. -/
def SMap.keep {α : Type} (p : Nat → α → Bool) (m : SMap α) : SMap α := m.filter fun kv => p kv.1 kv.2

/-- Change every entry. -/
def SMap.mapV {α : Type} (f : Nat → α → α) (m : SMap α) : SMap α := m.map fun kv => (kv.1, f kv.1 kv.2)

/-- Put a list of entries. -/
def SMap.putAll {α : Type} (kvs : List (Nat × α)) (m : SMap α) : SMap α :=
  kvs.foldl (fun m kv => SMap.put kv.1 kv.2 m) m

/-- What a byte that nothing has written reads as: 0 (R434: every line of HBM reads as zero until it is written). -/
def Memory.default : Byte := 0

/-- The byte at an address. -/
def Memory.byte (m : Memory) (a : Nat) : Byte := SMap.getD a Memory.default m

/-- Write one byte; writing what an unlisted address reads as removes the entry. -/
def Memory.setByte (m : Memory) (a : Nat) (b : Byte) : Memory :=
  if b = Memory.default then SMap.erase a m else SMap.put a b m

/-- `n` bytes from an address upward. -/
def Memory.read (m : Memory) (a : Nat) : Nat → List Byte
  | 0 => []
  | n + 1 => Memory.byte m a :: Memory.read m (a + 1) n

/-- Write a list of bytes from an address upward. -/
def Memory.write (m : Memory) (a : Nat) : List Byte → Memory
  | [] => m
  | b :: t => Memory.write (Memory.setByte m a b) (a + 1) t

/-- The addresses rise strictly from a bound and no entry holds what an unlisted address reads as. -/
def Memory.wfFrom (lo : Nat) : Memory → Bool
  | [] => true
  | (a, b) :: t => decide (lo ≤ a) && decide (b ≠ Memory.default) && Memory.wfFrom (a + 1) t

/-- The canonical form of a memory. -/
def Memory.wf (m : Memory) : Bool := Memory.wfFrom 0 m

end Sys2Proof
end

