-- ==== Sys2Proof/Machine/State.lean ====
section
/-! DEFINITION. The state of the Byuno as plain data, the state after reset, and the reasons a step can stop. -/

namespace Sys2Proof.Machine

/-! ## Lane registers and the state of a gang -/

/-- One lane register: value, poison bit P (R116), LIVE bit (R119; main registers only). -/
structure Cell where
  val  : Word
  p    : Bool
  live : Bool
  deriving DecidableEq, Repr

/-- An entry of the call stack (R169). -/
structure CallEntry where
  ret    : Nat
  window : Bool
  slide  : Nat
  deriving DecidableEq, Repr

/-- What stands at a lane position of a gang (R190): the lane's birth gang and whether it is set aside. -/
structure LanePos where
  birth : Nat
  aside : Bool
  deriving DecidableEq, Repr

/-- The six outstanding-operation counters (R309). -/
inductive Cnt where
  | ld | st | cp | tl | gx | pl
  deriving DecidableEq, Repr

/-- A fault as the access that met it sees it (R370, R371). -/
structure FaultInfo where
  cause  : Nat
  va     : Nat
  gen    : Nat
  lvl    : Nat
  acc    : Nat
  ppn    : Nat
  detail : Nat
  deriving DecidableEq, Repr

/-- One record written for a parked word: page, SEQ and RCNT (R369, R373). -/
structure ParkRec where
  page : Nat
  seq  : Nat
  rcnt : Nat
  deriving DecidableEq, Repr

/-- A parked word, fetch, chain, record or request (R366): its unfinished lanes, the fault records written for it,
whether its group is in the queue (R369), and whether it has been replayed and may go on, its records kept for a repeat (R372,
R373). -/
structure Park where
  lanes   : Nat
  faults  : List (FaultInfo × Nat)
  written : Bool
  recs    : List ParkRec
  replay  : Bool
  deriving DecidableEq, Repr

/-- A TLB entry: a valid leaf (R355, R356). -/
structure TlbEntry where
  asid  : Nat
  gen   : Nat
  va    : Nat
  lvl   : Nat
  entry : Nat
  deriving DecidableEq, Repr

/-- What an outstanding operation of a gang is. -/
inductive PendKind where
  /-- A load-class word (R236). -/
  | load
  /-- A store-class word (R236). -/
  | store
  /-- A special-function word (R159). -/
  | sfu
  /-- A Marver word (R203). -/
  | marver
  /-- A pattern load (R207). -/
  | xldp
  /-- The n-th XXCH of its gang with what it sends and its receiving lanes; paired once the partner's n-th has issued
  (R220, R221). -/
  | xxch (n : Nat) (paired : Bool) (sent : List (Nat × Cell)) (lanes : Nat)
  /-- TZERO, TLD or TST (R265, R266). -/
  | tile
  /-- QPOST or QTAKE, PLFUSE or PLNEXT: held for room or entries (R307, R419, R420). -/
  | sprue
  /-- PLQ or PLCLOSE (R418, R421). -/
  | handle
  /-- The k-th contribution to a matrix operation (R253). -/
  | matrix (k : Nat)
  /-- A chain counted on cp or pl, by its handle number (R281). -/
  | chain (h : Nat)
  deriving DecidableEq, Repr

/-- An outstanding operation of a gang: its class, the run it belongs to until that run retires, the main registers it
will write, the values it delivers on completion, the masks it will write, the registers it pins, whether it has
completed behind an older one of its class (R310), and the park of its word with what a replay needs (R121, R237):
the values its sources held (key lane · 1024 + 256 · operand + register). `todo` are the lanes whose accesses are still to be
performed (R317), `xlats` the leaves through which the word was translated at issue (R365), `lrun` the address of its run's LRUN
(R387), and `rc` says that the gang has passed a reconvergence point since the word issued (R185). -/
structure Pend where
  id      : Nat
  kind    : PendKind
  cls     : Option Cnt
  run     : Option Nat
  dests   : List Nat
  results : List (Nat × Cell)
  masks   : List (Nat × Nat × Nat)
  pins    : List Nat
  done    : Bool
  park    : Option Park
  todo    : Nat
  word    : Instr
  base    : Nat
  lanes   : Nat
  widx    : Nat
  runAddr : Nat
  scales  : List (Nat × Nat × Byte)
  ops     : SMap Cell
  conds   : List (Nat × Nat)
  xlats   : List TlbEntry
  lrun    : Nat
  rc      : Bool
  deriving DecidableEq, Repr

/-- A queued run (R174, R172): the address of its LRUN, its own address, lane offset, length, captured s30, fetched words, the index of the next word to issue,
its two sets, and the registers its trailer names once the trailer has been read (R71). -/
structure Run where
  serial  : Nat
  lrun    : Nat
  addr    : Nat
  off     : Nat
  len     : Nat
  s30     : Word
  words   : List (BitVec 96)
  next    : Nat
  ended   : Option (List Nat)
  maskWr  : List Nat
  scalRd  : List Nat
  park    : Option Park
  deriving DecidableEq, Repr

/-- Whether a gang runs, sleeps after REPACK, or has exited (R28, R189). -/
inductive Life where
  | awake | asleep | exited
  deriving DecidableEq, Repr

/-- What a gang's scalar stream waits in, where the wait outlives the step (R37, R189, R198). -/
inductive Wait where
  | none
  | barrier (b : Nat)
  | semaphore (addr cmp test scope : Nat)
  | ring (off : Nat)
  | rendezvous (repack : Bool) (m target : Nat)
  | trap
  | bkpt
  | scalarPark
  | formatImage
  deriving DecidableEq, Repr

/-- A query handle (R416). -/
structure Handle where
  engine  : Nat
  chain   : Nat
  budget  : Bool
  fusion  : List (Word × Word × Bool × Bool)
  output  : List (Word × Word × Bool × Bool)
  closing : Bool
  status  : Option Word
  deriving DecidableEq, Repr

/-- Where a gang stands and which gang it is (R10, R11, R18). -/
structure Place where
  wg    : Nat
  gidx  : Nat
  role  : Nat
  side  : Nat
  qtr   : Nat
  core  : Nat
  slot  : Nat
  deriving DecidableEq, Repr

/-- The writable special registers of a gang and its window state (R53, R54, R87, R90, R123); `spoiled` are the granules of its spill
area that a program has written since they were spilled (R124). -/
structure Specials where
  seed    : DWord
  lsbase  : DWord
  fmtbase : DWord
  fmt     : SMap DWord
  win     : Bool
  lutrap  : Bool
  wb      : Nat
  low     : Nat
  spoiled : List Nat
  deriving DecidableEq, Repr

/-- The restart state that MREST records (R269). -/
structure Restart where
  pc   : Nat
  s    : SMap Word
  xxch : Nat
  rv   : Bool
  deriving DecidableEq, Repr

/-- The owed set (R385). -/
structure Owed where
  wbp : Bool
  chp : Bool
  lgd : Bool
  deriving DecidableEq, Repr

/-- The lane side of a gang: its registers (key lane · 1024 + file · 256 + index; an unlisted main register is freed, an
unlisted q register was never written, an unlisted t register is unwritten), the helper shadow of the run in progress
(R34), the scale registers (key x · 16 + j; unlisted is 0), what stands at each position (unlisted: the lane born
there), and the halves of registers with an uncorrectable error (key 2 · register key + half, R392, R393). -/
structure LaneFile where
  regs   : SMap Cell
  shadow : SMap Cell
  scale  : SMap Byte
  pos    : SMap (Option LanePos)
  err    : List Nat
  deriving DecidableEq, Repr

/-- A gang's links to chains, sets and the exchange (R220, R252, R281, R283, R416). -/
structure GangEng where
  chains  : Nat
  status  : SMap Word
  handles : SMap Handle
  conv    : Bool
  opnum   : Nat
  xxch    : Nat
  deriving DecidableEq, Repr

/-- One gang slot's state (R27, R169). `since` is the clk from which its next lane word has been eligible without issuing, and `sinceS` the
same for its scalar word; `promo` and `promoS` say that such a word is promoted (R178). -/
structure Gang where
  place   : Place
  pc      : Nat
  s       : SMap Word
  m       : SMap Word
  c       : Bool
  stack   : List CallEntry
  lane    : LaneFile
  sp      : Specials
  runs    : List Run
  pend    : List Pend
  eng     : GangEng
  life    : Life
  wait    : Wait
  park    : Option Park
  owed    : Owed
  restart : Restart
  issued  : Nat
  promo   : Bool
  since   : Nat
  promoS  : Bool
  sinceS  : Nat
  vnum    : Nat
  grid    : Nat
  deriving DecidableEq, Repr

/-! ## Engines -/

/-- Where a chain stands in R275. -/
inductive ChainStage where
  | fetch
  | testing
  | perform
  | working
  | emitting
  | signal
  | ending
  deriving DecidableEq, Repr

/-- What started a chain and owns it (R281, R282, R331, R376, R416), and the cluster at whose TLB a Runner chain
translates (R356). -/
structure Owner where
  vnum   : Option Nat
  wg     : Option Nat
  core   : Option Nat
  gang   : Option Nat
  handle : Nat
  query  : Option Nat
  record : Option Nat
  part   : Nat
  clu    : Nat
  deriving DecidableEq, Repr

/-- A term slot's place in its list (R401, R409): its current posting block (the number of blocks once the list is over),
the first id of the block's skip range, its skip entry (LAST, BMAX) and its documents with their frequencies once each
has been read. -/
structure Cursor where
  blk  : Nat
  lo   : Nat
  skip : Option (Nat × Nat)
  docs : Option (List (Nat × Nat))
  deriving DecidableEq, Repr

/-- The state of a query (R395, R407): the descriptor's words, the lowest document not yet handled, the kept documents
(id, score) in rank order, the cursors by slot, the last kept fusion entry, whether the last fusion entry has been
consumed, how many fusion entries the query waits for (none: it waits for nothing), whether the
traversal is over, and whether poison was read. -/
structure Traversal where
  desc    : List Nat
  next    : Nat
  heap    : List (Nat × Nat)
  cursors : SMap Cursor
  prev    : Option Nat
  fdone   : Bool
  need    : Option Nat
  done    : Bool
  bad     : Bool
  deriving DecidableEq, Repr

/-- A chain on an engine (R273-R284): the current block's address and words, its status bits, the units of the block
done, the clk of its acceptance, and, for a query, its traversal, the entries to emit, how many are out, and whether the
traversal has ended early. `failed` holds the first failed rank of a Runner's block (R465), `undef`
says that a Ladle's block has undefined destination values (R287), bit 32 of `flags` that the chain has written tile slots (R295), `causes` gathers arithmetic causes (1 invalid, 2 overflow),
`ranks` holds the entries of a Runner's group (R460), and `paid` says that the piece of work in progress has been paid for (R445). -/
structure Chain where
  id      : Nat
  block   : Nat
  words   : List Nat
  seed    : DWord
  owner   : Owner
  stage   : ChainStage
  perf    : Nat
  flags   : Nat
  prog    : Nat
  accept  : Nat
  park    : Option Park
  trav    : Option Traversal
  out     : List (Word × Word × Bool × Bool)
  sent    : Nat
  failed  : Option Nat
  stopped : Bool
  holdBuf : Bool
  undef   : Bool
  causes  : Nat
  ranks   : List Nat
  paid    : Bool
  deriving DecidableEq, Repr

/-- A grant of an engine's time (R414, R445): the holder, the clk at which the work asked for ends, whether it is borrowed, and the
posting blocks and candidates that a posting-list engine has worked on under it. -/
structure Grant where
  holder : Nat
  ends   : Nat
  lent   : Bool
  blocks : Nat
  cands  : Nat
  deriving DecidableEq, Repr

/-- An engine: its chains in queue order, the chain that holds it, and, for a Ladle, the chain buffer with its scale
bytes (key 16 · line + j), its poisoned sectors and the lines that the chain holding it has written (R282, R291); `grant` is the
last grant of its time (R445). -/
structure Engine where
  chains : List Chain
  cur    : Option Nat
  grant  : Option Grant
  buf    : Memory
  bufSc  : Memory
  bufBad : List Nat
  bufWr  : List Nat
  deriving DecidableEq, Repr

/-- A chain saved with its workgroup (R282, R389, R391): the number of its engine in the cluster or die (0-1 Ladle, 2
posting-list engine, 4-7 Runner), and what it held of the chain buffer. -/
structure Away where
  eng    : Nat
  chain  : Chain
  buf    : Memory
  bufSc  : Memory
  bufBad : List Nat
  bufWr  : List Nat
  deriving DecidableEq, Repr

/-! ## Workgroups and grids -/

/-- A named barrier (R194). -/
structure Barrier where
  e : Nat
  a : Nat
  deriving DecidableEq, Repr

/-- A contribution to a matrix operation, with its operands as they were read (R253, R254): A (key 32 · register + lane),
its scale bytes, the metadata registers, the scalar register sS, its selected mask, and the entries of A and B. -/
structure Contrib where
  gang  : Nat
  pend  : Nat
  word  : Instr
  a     : List (Nat × Cell)
  asc   : List Nat
  md    : List (Nat × Cell)
  sS    : Nat
  lanes : Nat
  run   : Nat
  widx  : Nat
  fa    : Nat
  fb    : Nat
  deriving DecidableEq, Repr

/-- A convened set's reuse latch (R261). -/
structure Latch where
  fmt  : Nat
  spat : Nat
  a    : List (List (Nat × Cell))
  asc  : List (List Nat)
  deriving DecidableEq, Repr

/-- A binding of a pattern slot that a newer one replaced (R208): what the slot was bound to, the gang that bound it anew, the
gangs that may still see it, and the barriers at which the binder has arrived since in the phase that stands. -/
structure OldBinding where
  slot   : Nat
  addr   : Option Nat
  binder : Nat
  seers  : List Nat
  bars   : List Nat
  deriving DecidableEq, Repr

/-- A workgroup's life between placement and retirement (R17, R27, R389, R391). -/
inductive Stage where
  | setup
  | running
  | saving
  | saved
  deriving DecidableEq, Repr

/-- A use of a tile slot from its tile time until it completes (R249): side · 96 + slot, whether it writes, whose it is, the clk of
its tile time, and its rank among the uses of that clk (quarters, then Ladles). -/
structure TileUse where
  key   : Nat
  write : Bool
  id    : Nat
  clk   : Nat
  rank  : Nat
  deriving DecidableEq, Repr

/-- A workgroup (R3, R10, R225, R247): scratch and tile bytes are keyed by offset (tile key: side · 393216 + 4096 · slot + byte;
scale key: side · 24576 + 256 · slot + 16 · line + j; poison by 4-byte word of scratch and by sector of a tile, key byte key / 64). `busy` lists the uses of its slots in tile-time order (R249); contributions not yet accepted are kept under set · 2^32 + operation. `rings` are the ring headers that its gangs have used (R301); `lone`: its partner in a paired grid was killed (R223);
`ctx`: the pre-emption that removes it (R389). -/
structure Wg where
  grid    : Nat
  num     : Nat
  child   : Option Nat
  core    : Nat
  twin    : Bool
  gangs   : List Nat
  scratch : Memory
  scrBad  : List Nat
  bars    : SMap Barrier
  slots   : SMap Nat
  older   : List OldBinding
  tile    : Memory
  tileSc  : Memory
  tileBad : List Nat
  busy    : List TileUse
  latches : SMap Latch
  contrib : SMap (List Contrib)
  stage   : Stage
  saved   : Bool
  ways    : List Nat
  ways2   : List Nat
  ctx     : Option Nat
  lone    : Bool
  away    : List Away
  rings   : List Nat
  deriving DecidableEq, Repr

/-- A grid entered by the dispatcher (R329, R331, R341). `code` holds the instruction words that the fetch path has read
for it, key 2 · address, plus 1 for a lane word, `image` memory as the grid was entered, and `root` the root table that translated its
addresses then (R43); `quiet` says that it completes without its signal (R456). A launch record without work that waits for its
signal stands here as a grid of no workgroups (R332). -/
structure Grid where
  vnum    : Nat
  prio    : Nat
  id      : Nat
  w       : Nat
  ngang   : Nat
  regs    : Nat
  scr     : Nat
  bars    : Nat
  tiles   : Nat
  f       : Nat
  mt      : Nat
  v       : Nat
  coh     : Nat
  cpair   : Bool
  tsave   : Bool
  arg     : DWord
  entry   : Nat
  wtest   : Bool
  lsbase  : DWord
  fmtbase : DWord
  seed    : DWord
  spbase  : Nat
  spstr   : Nat
  seq     : Nat
  next    : Nat
  live    : Nat
  kids    : Nat
  killed  : Bool
  record  : Option Nat
  park    : Option Park
  code    : SMap Nat
  image   : Memory
  root    : Option Nat
  quiet   : Bool
  deriving DecidableEq, Repr

/-- A child task in a cluster's queue (R339), with the workgroup that spawned it (R433). -/
structure ChildTask where
  entry  : Nat
  args   : List Word
  grid   : Nat
  num    : Nat
  parent : Nat
  deriving DecidableEq, Repr

/-! ## Cores and clusters -/

/-- The mode of a way (R224, R227): L1, closed and being converted for a workgroup, or scratch of a workgroup. -/
inductive Way where
  | l1
  | closing (wg : Nat)
  | scratch (wg : Nat)
  deriving DecidableEq, Repr

/-- An L1 line (R227, R230): `way` is the way it lies in; `clr` marks the sectors, and `scClr` the sidecar, whose poison one
store of the whole unit has cleared since the line was last clean (R234); `err` marks the sectors in which the data array has
an uncorrectable error (R385, R392); `owners` are the gangs whose bytes are dirty in it. Lines stand most recently used first. -/
structure L1Line where
  way    : Nat
  va     : Nat
  asid   : Nat
  gen    : Nat
  pa     : Nat
  wp     : Bool
  sv     : Nat
  bytes  : Memory
  dm     : Nat
  cv     : Bool
  scales : Memory
  cm     : Nat
  bad    : Nat
  scBad  : Bool
  clr    : Nat
  scClr  : Bool
  err    : Nat
  ef     : Bool
  el     : Bool
  owners : List Nat
  deriving DecidableEq, Repr

/-- A line of a path cache (R233, R250), by physical line address; bits 3-0 of `bad` are its poisoned sectors, and bits 7-4 those that
are so by an error of the cache itself (R392). -/
structure PathLine where
  pa     : Nat
  bytes  : List Byte
  scales : List Byte
  bad    : Nat
  scBad  : Bool
  deriving DecidableEq, Repr

/-- A Marver pattern entry (R205, R204) with the physical addresses of its first and its last byte. -/
structure PatEntry where
  va    : Nat
  pa    : Nat
  pa2   : Nat
  asid  : Nat
  gen   : Nat
  bytes : List Byte
  bad   : Bool
  deriving DecidableEq, Repr

/-- A quarter's choice (R178): its rotation pointers (0-3 the levels, 4 promoted gangs; 8-12 the same for scalar words), the
clk of its last choices, and the choices of that clk: slot, pointer, and pipe or port (0 vector, 1 special function, 2 memory,
3 Marver, 4 matrix, 5 scalar); `sfu` is the clk of the last special-function word. -/
structure Quarter where
  ptrs  : SMap Nat
  clk   : Nat
  taken : List (Nat × Nat × Nat)
  sfu   : Option Nat
  deriving DecidableEq, Repr

/-- A core (R170, R36, R178, R205, R224, R233). -/
structure Core where
  ways    : SMap Way
  lines   : List L1Line
  const   : List PathLine
  pats    : List PatEntry
  clkBase : Nat
  issued  : Nat
  qtrs    : SMap Quarter
  deriving DecidableEq, Repr

/-- Who is bound to a sprue (R304). -/
inductive Binder where
  | gang (g wg : Nat)
  | chain (e c : Nat)
  deriving DecidableEq, Repr

/-- A sprue (R303, R304): entries in order (low, high, mark, poison). -/
structure Sprue where
  entries  : List (Word × Word × Bool × Bool)
  producer : Option Binder
  consumer : Option Binder
  deriving DecidableEq, Repr

/-- A cluster (R233, R250, R303, R339, R355, R356). `walk` holds the walk cache: address
space, table-entry address and entry. -/
structure Cluster where
  tlb    : List TlbEntry
  walk   : List (Nat × Nat × Nat)
  tile   : List PathLine
  stream : List PathLine
  tasks  : List ChildTask
  sprues : SMap Sprue
  gated  : Bool
  deriving DecidableEq, Repr

/-- An accepted matrix operation (R253, R254, R261, R264): its contributions in convened order, the A operand it uses with
its scale bytes, its row groups (first row, row after the last, B slot), the metadata read from scratch at dispatch, and
the clk of its dispatch; `id` is the number of its issuer's contribution. -/
structure MatOp where
  id       : Nat
  wg       : Nat
  set      : Nat
  contribs : List Contrib
  a        : List (List (Nat × Cell))
  asc      : List (List Nat)
  groups   : List (Nat × Nat × Nat)
  md       : List Byte
  started  : Option Nat
  deriving DecidableEq, Repr

/-! ## Partition, virtual device, package -/

/-- A virtual-device table entry (R440). -/
structure VdevEntry where
  en    : Bool
  det   : Bool
  rates : List Nat
  deriving DecidableEq, Repr

/-- A translation context (R347), with the words (EN, ROOT) that writes since the last PTSYNC replaced, newest first: a walk
that begins before the next one may use any of them. -/
structure Ctx where
  en    : Bool
  root  : Nat
  gen   : Nat
  prior : List (Bool × Nat)
  deriving DecidableEq, Repr

/-- A flush whose drain is not over (R363, R364): the DETAIL of its timeout, the clk of its first step, and the accesses
it waits for (gang, operation). -/
structure Drain where
  detail : Nat
  start  : Nat
  waits  : List (Nat × Nat)
  deriving DecidableEq, Repr

/-- The translation command port (R359): the last command's done and error bits, a drain, and a cluster reset in progress
(cluster, start). -/
structure Port where
  done  : Bool
  error : Bool
  drain : Option Drain
  reset : Option (Nat × Nat)
  deriving DecidableEq, Repr

/-- A group of records that waits for room (R369): who is parked; `away` is a chain saved with its workgroup. -/
inductive Parked where
  | word (g op : Nat)
  | scalar (g : Nat)
  | run (g serial : Nat)
  | chain (e c : Nat)
  | away (wg c : Nat)
  | record (vnum chain : Nat)
  | inbound (n : Nat)
  | grid (n : Nat)
  deriving DecidableEq, Repr

/-- A unit of the waiting order (R337). -/
inductive PUnit where
  | grid (g : Nat)
  | swapped (wgs : List Nat) (prio seq : Nat)
  | child (cluster : Nat)
  deriving DecidableEq, Repr

/-- A partition's own state (R347, R359, R369, R379, R383, R392, R394, R425, R440); `image` is the digest of the image that its Gaffer
runs (R478). -/
structure Partition where
  halted   : Bool
  halting  : Bool
  hseq     : Nat
  hclk     : Nat
  toStop   : List Nat
  stopBase : Nat
  fqBase   : Nat
  fqProd   : Nat
  fqCons   : Nat
  seq      : Nat
  backlog  : List (List Nat)
  groups   : List Parked
  strict   : Bool
  port     : Port
  table    : SMap VdevEntry
  tblError : Bool
  sprues   : SMap Nat
  acceptSeq : Nat
  swapped  : List PUnit
  coreNext : Nat
  twinNext : Nat
  cluNext  : Nat
  first    : SMap (PUnit × Nat)
  reserved : Option PUnit
  ctrPage  : Nat
  grants   : List (Nat × Nat)
  readOnly : List (Nat × Nat)
  rotor    : Nat
  image    : Nat
  deriving DecidableEq, Repr

/-- How far the dispatcher is with a chain's current record (R331, R332): to be read, checked and in its test, or ready for entry (both
with its words and the lane-section base). -/
inductive RecStage where
  | fresh
  | testing (ws : List Nat) (lsbase : Nat)
  | ready (ws : List Nat) (lsbase : Nat)
  deriving DecidableEq, Repr

/-- A launch chain of a virtual device (R331, R333, R334): current record, whether it was refused, whether it has been
handled and waits for NEXT, its park, and how far the dispatcher is with the record. -/
structure LaunchChain where
  cur     : Nat
  stopped : Bool
  handled : Bool
  park    : Option Park
  stage   : RecStage
  deriving DecidableEq, Repr

/-- A virtual device's registers and queues (R336, R387, R388, R453, R482); the launch queue stands among the chains as the ninth. -/
structure Vdev where
  chains  : SMap LaunchChain
  queue   : List Nat
  logBase : Nat
  logSize : Nat
  logProd : Nat
  logCons : Nat
  logDrop : Nat
  logSeq  : Nat
  gtBase  : Nat
  wbase   : SMap Nat
  wctl    : SMap DWord
  debug   : Bool
  deriving DecidableEq, Repr

/-- A line that a slice holds (R428): its address, its owner (none: the partition, for firmware), whether it is a replica, its
sharer vector, whether every byte of it is valid, the write masks of its data bytes and of its sidecar (bit 16: the format tag),
and what memory still holds where a mask is set or poison differs: bytes, sidecar bytes, and the five poison bits (sectors 3-0,
and bit 4 the sidecar); `err` marks the units in which the slice itself has an uncorrectable error (R392). State.mem and State.side hold the bytes as a read of the line finds them. -/
structure SliceLine where
  line    : Nat
  owner   : Option Nat
  replica : Bool
  sharers : Nat
  full    : Bool
  wm      : Nat
  sm      : Nat
  old     : Memory
  oldSide : Memory
  oldBad  : Nat
  err     : Nat
  deriving DecidableEq, Repr

/-- A cell in a slice's shadow area (R245): its address and its 48-byte image. -/
structure ShadowCell where
  pa    : Nat
  image : List Byte
  deriving DecidableEq, Repr

/-- A token bucket (R443, R450): level, tokens' worth borrowed in this and in the last period, BURST, F and NOBRW as they stand since
the arbiter's last period began; level and F in units of 2^-20. -/
structure Bucket where
  level  : Nat
  brw    : Nat
  last   : Nat
  burst  : Nat
  refill : Nat
  noBrw  : Bool
  deriving DecidableEq, Repr

/-- What one attempt to start meets, decided outside the device (R475, R478): the image, its signature and the public key that it
carries, whether it is production-signed, its digest, version and SVN; the links; the stacks, slices, Gaffers and ports that fail; temperature
and supply; and what the package Gaffer configures from the board: granted ranges (R349, R425), the expanders' capacities
(R457), HDM ranges (R455) and the accelerator id (R458). -/
structure BootFacts where
  image      : Nat
  sig        : Nat
  production : Bool
  digest     : Nat
  version    : Nat
  svn        : Nat
  linkOk     : Bool
  badStack   : List Nat
  badSlice   : SMap (List Nat)
  badPart    : Option Nat
  badTier    : Option Nat
  badUal     : Option Nat
  tempOk     : Bool
  grants     : SMap (List (Nat × Nat))
  tierCap    : SMap Nat
  hdm        : SMap (Nat × Nat)
  accId      : Nat
  key        : Nat
  deriving DecidableEq, Repr

/-- The power states (R480). -/
inductive Power where
  | off | starting | running | minimal | dead
  deriving DecidableEq, Repr

/-- What leaves the device: responses and events seen outside (R452, R453, R455, R459, R475, R479, R481, R482). -/
inductive Out where
  | hostData (bytes : List Byte)
  | hostDone
  | hostPoison
  | hostUnsupported (tag : Nat)
  | hostRetry
  | hostConfig
  | mailboxError
  | mailboxOk
  | msix
  | peerData (acc : Nat) (bytes : List Byte) (poison : Bool)
  | peerLine (acc : Nat) (bytes scales : List Byte) (bad : Nat) (scBad : Bool)
  | peerDone (acc : Nat)
  | peerError (acc : Nat)
  | debugRecord (g : Nat) (pc : Nat)
  /-- A report and its signature by leaf `n` of a key for reports (R479), with that key, the identity leaf that signed it, and that signature. -/
  | report (key : Nat) (leaf : BitVec 16) (cert : Nat) (n : Nat) (nonce : List Byte) (words : List Nat) (sig : Nat)
  | mctp (words : List Nat)
  | mctpTrip
  | jtagScan
  | jtagIdcode
  deriving DecidableEq, Repr

/-- An inbound request parked on a fault (R459). -/
structure Inbound where
  req  : PeerRequest
  part : Nat
  park : Park
  deriving DecidableEq, Repr

/-- A peer's exported memory as the Runners reach it (R462): bytes by window offset, sidecars (key offset / 8 + j), poisoned sectors
and sidecars, window length and rights. -/
structure PeerWin where
  mem    : Memory
  side   : Memory
  bad    : List Nat
  badSc  : List Nat
  len    : Nat
  rd     : Bool
  wr     : Bool
  deriving DecidableEq, Repr

/-- The package (R425, R427, R438, R457, R458, R475-R482); `romKey` is the digest of the vendor's public key that the boot ROM holds
(R478), `idKey` the device's identity key, `leaf` the fuse counter of its leaves, and `aka` the key for reports of this start with the leaf
that signed it and that signature (R479). -/
structure Package where
  power    : Power
  facts    : List BootFacts
  attempts : Nat
  reason   : Nat
  rsect    : Nat
  rdetail  : Nat
  parts    : Nat
  sectors  : Nat
  fwver    : Nat
  digest   : Nat
  svn      : Nat
  ididx    : Nat
  slc      : SMap Nat
  svnFuse  : Nat
  idKey    : Nat
  leaf     : BitVec 16
  reports  : Nat
  aka   : Option (Nat × BitVec 16 × Nat)
  debugFuse : Bool
  romKey   : Nat
  remap    : SMap Word
  remapErr : Bool
  shares   : SMap Nat
  accId    : Nat
  hdm      : SMap (Nat × Nat)
  tierCap  : SMap Nat
  withhold : Bool
  mailErr  : Bool
  deriving DecidableEq, Repr

/-- What comes from outside the device's engines and has no row in the table of operations: reads of a BAR0 page (R453, R477), words
and addresses that firmware writes (R359, R369, R383, R394), and errors of the storage structures (R392, R393). -/
inductive Outside where
  /-- A read of a register of a VF's page, and of the PF's page (R453, R477). -/
  | registerRead (v off : Nat)
  | functionRead (off : Nat)
  /-- Power is removed (R480). -/
  | powerOff
  /-- A 64-bit word written to the translation command port (R359). -/
  | commandWord (p w : Nat)
  /-- The Gaffer sets the base and moves the consumer index of its fault record queue (R369), sets the base of its stop area (R383)
  and of its counter page (R394), each as an offset in its stack. -/
  | queueBase (p off : Nat)
  | queueConsumer (p i : Nat)
  | stopArea (p off : Nat)
  | counterPage (p off : Nat)
  /-- A single-bit error of a structure, corrected (R392, R394). -/
  | corrected (p struct : Nat)
  /-- Uncorrectable errors: a sector of memory, a sidecar, a word of a workgroup's scratch, a sector of its tile store, a sector of a
  core's n-th L1 line, a sector (4: the sidecar) of the n-th line of a path cache (core's constant path 0, cluster's tile path 1, its
  stream path 2). -/
  | sector (pa : Nat)
  | sidecar (line : Nat)
  | scratchWord (w off : Nat)
  | tileSector (w side off : Nat)
  | l1Sector (core n sector : Nat)
  | pathSector (path unit n sector : Nat)
  /-- Bits that turn in the words of a gang's state: a half of a lane's register (its number within the lane), a scalar register, a
  mask, a word of a scale register, of a format table entry, of a call-stack entry. -/
  | laneHalf (g lane rkey half : Nat) (flip : BitVec 16)
  | scalarReg (g i : Nat) (flip : Word)
  | maskReg (g k : Nat) (flip : Word)
  | scaleWord (g x n : Nat) (flip : Word)
  | formatWord (g k n : Nat) (flip : Word)
  | stackWord (g n : Nat) (flip : Word)
  deriving DecidableEq, Repr

/-- Who moves next: a gang's scalar stream, a gang's lane stream, a step of the part that is no word, or the clock. -/
inductive Turn where
  | scalar (g : Nat)
  | lane (g : Nat)
  | event (i : Instr)
  | outside (x : Outside)
  | clk
  deriving DecidableEq, Repr, Inhabited

/-- A request at an arbiter (R442): the arbiter, the holder whose bucket pays, and the tokens that it asks for. -/
structure Request where
  arb    : Nat
  holder : Nat
  n      : Nat
  deriving DecidableEq, Repr

/-- A request that waits at its arbiter (R444, R447): the turn that asks, which waits with it (none: the write-back of a victim, which
nothing waits for, R429), and the requests that the turn has been granted already. -/
structure Waiting where
  turn    : Option Turn
  req     : Request
  granted : List Request
  deriving DecidableEq, Repr

/-- What the turn in progress asks of the arbiters: the turn, the request that has to wait, the requests that have been granted to it, and
those that were granted before it waited; and, for a scalar word, whether another gang of its quarter has a word that is eligible in this clk
and cannot issue in it any more, and whether one has a word that still can (R198; the model's own). -/
structure Asking where
  turn    : Option Turn
  short   : Option Request
  granted : List Request
  credit  : List Request
  rivals  : Bool × Bool
  deriving DecidableEq, Repr

/-- The state of the device. Tables are keyed by the numbers of R2; an unlisted entry holds the part's reset value. -/
structure State where
  /-- Physical memory, by physical address (R348, R434). -/
  mem      : Memory
  /-- Sidecar bytes and format tag of a line: key 32 · line + j, j = 16 the tag (R97, R98, R434). -/
  side     : Memory
  /-- Poisoned 64-byte sectors, by address / 64, and poisoned sidecars, by line (R234). -/
  bad      : List Nat
  sideBad  : List Nat
  /-- The sets of the shared-cache slices, most recent line first: key slice · 1024 + set, slices numbered
  17 · sector + physical slice (R426-R430). -/
  slices   : SMap (List SliceLine)
  /-- The shadow areas of the slices, most recent cell first, by physical slice (R245). -/
  cells    : SMap (List ShadowCell)
  /-- Bits 7:5 of the tag byte of a line, NB and CMP; unlisted is 001 (R434). -/
  tags     : SMap Nat
  gangs    : SMap Gang
  wgs      : SMap Wg
  grids    : SMap Grid
  cores    : SMap Core
  clusters : SMap Cluster
  engines  : SMap Engine
  twins    : SMap (List MatOp)
  parts    : SMap Partition
  vdevs    : SMap Vdev
  ctxs     : SMap Ctx
  buckets  : SMap Bucket
  /-- Periods of each arbiter that have begun (R443). -/
  periods  : SMap Nat
  inbound  : SMap Inbound
  peers    : SMap PeerWin
  /-- Links on which a packet has been lost that the next access over them meets: 16-19 second tier, 20 host (R392, R454, R457). -/
  lost     : List Nat
  pkg      : Package
  out      : List Out
  /-- The requests that wait at the arbiters, oldest first (R444, R447). -/
  queued   : List Waiting
  /-- What the turn in progress asks (the model's own). -/
  ask      : Asking
  /-- Uncorrectable errors that the turn in progress has met at a home: partition, structure, address (R392; the model's own). -/
  found    : List (Nat × Nat × Nat)
  /-- Leaves that the access in progress was translated through before they were changed (R365; the model's own). -/
  held     : List TlbEntry
  /-- The gang whose word issues in this step (the model's own). -/
  cur      : Nat
  /-- Who moves next, in order; when empty the choice is free (the model's own). -/
  agenda   : List Turn
  /-- Number of free values drawn (the model's own). -/
  fresh    : Nat
  /-- Clocks passed (the model's own). -/
  now      : Nat
  /-- The next unused key for gangs, workgroups, grids, chains and operations (the model's own). -/
  nextId   : Nat
  deriving DecidableEq, Repr

/-! ## Initial values -/

/-- A quarter after reset: nothing chosen, every pointer at slot 0. -/
def Quarter.init : Quarter := ⟨[], 0, [], none⟩

/-- A core after reset (R170, R224): every way serves the L1, nothing is held. -/
def Core.init : Core := ⟨[], [], [], [], 0, 0, []⟩

/-- A cluster after reset (R433). -/
def Cluster.init : Cluster := ⟨[], [], [], [], [], [], false⟩

/-- An engine after reset: no chain, nothing of the buffer written. -/
def Engine.init : Engine := ⟨[], none, none, [], [], [], []⟩

def Sprue.init : Sprue := ⟨[], none, none⟩

/-- A table entry after reset (R440): EN 0, DET 1, every rate word 0. -/
def VdevEntry.init : VdevEntry := ⟨false, true, [0, 0, 0, 0, 0, 0, 0]⟩

def Ctx.init : Ctx := ⟨false, 0, 0, []⟩

def Partition.init : Partition :=
  { halted := false, halting := false, hseq := 0, hclk := 0, toStop := [], stopBase := 0x40000, fqBase := 0, fqProd := 0,
    fqCons := 0, seq := 0, backlog := [], groups := [], strict := false, port := ⟨false, false, none, none⟩, table := [],
    tblError := false, sprues := [], acceptSeq := 1, swapped := [], coreNext := 0, twinNext := 0, cluNext := 0,
    first := [], reserved := none, ctrPage := 0x42000, grants := [], readOnly := [], rotor := 0, image := 0 }

def LaunchChain.init : LaunchChain := ⟨0, false, false, none, .fresh⟩

/-- A virtual device's registers after reset (R453): LOGSIZE 7, everything else 0. -/
def Vdev.init : Vdev := ⟨[], [], 0, 7, 0, 0, 0, 0, 0, [], [], false⟩

/-- No share, so no bucket (R443). -/
def Bucket.init : Bucket := ⟨0, 0, 0, 0, 0, false⟩

/-- An attempt whose training and self-tests pass and in which nothing is configured: what a start meets where no facts are given. -/
def BootFacts.good : BootFacts :=
  ⟨0, 0, true, 0, 0, 0, true, [], [], none, none, none, true, [], [], [], 0, 0⟩

def Package.init : Package :=
  { power := .starting, facts := [], attempts := 0, reason := 0,
    rsect := 0xFF, rdetail := 0, parts := 0, sectors := 0, fwver := 0, digest := 0, svn := 0, ididx := 0, slc := [], svnFuse := 0,
    idKey := 0, leaf := 0, reports := 0, aka := none, debugFuse := false, romKey := 0, remap := [], remapErr := false, shares := [],
    accId := 0, hdm := [], tierCap := [], withhold := false, mailErr := false }

/-- Nothing asked. -/
def Asking.none : Asking := ⟨.none, .none, [], [], (false, false)⟩

/-- The port share of a partition after reset (R438). -/
def Package.shareInit : Nat := 85

/-- The device right after reset: nothing resident, memory all zero (R434), every table empty. -/
def State.reset : State :=
  { mem := [], side := [], bad := [], sideBad := [], slices := [], cells := [], tags := [], gangs := [], wgs := [], grids := [], cores := [],
    clusters := [], engines := [], twins := [], parts := [], vdevs := [], ctxs := [], buckets := [], periods := [], inbound := [],
    peers := [], lost := [], pkg := Package.init, out := [], queued := [], ask := Asking.none, found := [], held := [], cur := 0, agenda := [], fresh := 0, now := 0, nextId := 0 }

/-! ## Reasons a step can stop -/

/-- Reasons a step ends in a fault of the model. -/
inductive Fault where
  /-- Raised by HOST_MEM_ACCESS to an address outside every HDM range (R455). Safe: the spec gives no access there. -/
  | noSuchAddress
  deriving DecidableEq, Repr

/-- Reasons a step is refused. -/
inductive Refusal where
  /-- Raised by an arm of `exec` whose instruction has no meaning yet. Safe. -/
  | notModelled (mnemonic : String)
  /-- Raised by JTAG_ACCESS to internal state with the debug fuse unlocked: R482 does not say what it reaches. Safe. -/
  | jtagInternalState
  deriving DecidableEq, Repr

end Sys2Proof.Machine
end

