-- ==== Sys2Proof/Config.lean ====
section
/-! DEFINITION. What an implementation fixes, and the free values: constants without a body, so that nothing can be
proved of a particular value. -/

namespace Sys2Proof

/-- An undefined 32-bit value (R5): the free value numbered `n`, for the register or place `k`. -/
opaque Config.undef : Nat → Nat → BitVec 32

/-- An undefined byte of memory or of a buffer (R5, R287, R291, R380, R465). -/
opaque Config.undefByte : Nat → Nat → BitVec 8

/-- Who moves next when the agenda is empty: no rule fixes when a unit that can act does (R4). -/
opaque Config.nextTurn : Nat → Machine.Turn

/-- How many of the outstanding fault records the Gaffer has consumed when a group asks for room (R369). -/
opaque Config.consumed : Nat → Nat

/-- YIELD's flag (R198): whether another gang of the quarter had an eligible word that did not issue. -/
opaque Config.yieldSeen : Nat → Bool

/-- Which of the words that have stood at an address a fetch gives, where it was rewritten while its grid runs (R43). -/
opaque Config.oldWord : Nat → Nat

/-- Whether a line of a path cache, or an entry of a TLB or a walk cache, that no longer agrees with what it was filled from
has been replaced before this use (R233, R355, R356: capacities, and no order of replacement). -/
opaque Config.replaced : Nat → Bool

/-- Which word of a context that was written since the last PTSYNC a walk uses (R347). -/
opaque Config.contextWord : Nat → Nat

/-- Which of the sixteen entries of a broken 64 KB group translates an access, and whether as a 64 KB page (R354). -/
opaque Config.groupEntry : Nat → Nat

/-- Whether a byte of a pattern image that was written while it is held is the new byte (R208). -/
opaque Config.newByte : Nat → Nat → Bool

/-- Which binding of a pattern slot a gang sees that no barrier has told of the newest (R208). -/
opaque Config.binding : Nat → Nat

/-- How many words behind the gang's own the PC of a log record lies (R388: it is approximate). -/
opaque Config.logLag : Nat → Nat

/-- The lanes whose accesses an event of completion does not perform yet (R4, R321). -/
opaque Config.heldLanes : Nat → Nat

/-- Whether accesses that an event performs were translated when their word issued, and not only now (R365). -/
opaque Config.early : Nat → Bool

/-- Addresses and bytes that lane words which a halt has kept from issuing would have written (R380). -/
opaque Config.abandoned : Nat → List (Nat × BitVec 8)

/-- The clocks an engine took to stop (R384 SKID). -/
opaque Config.skid : Nat → Nat

/-- The encoding that an HBM controller chooses for a line that is neither zero nor poisoned (R435). -/
opaque Config.encoding : Nat → Nat

/-- Packets that a cluster had begun when it was reset (R432). -/
opaque Config.begunPackets : Nat → Nat

/-- Whether a document lies in a posting block that pruning passes over unread and whose page gives no bytes (R409). -/
opaque Config.heldUnread : Nat → Bool

/-- The SHAKE256 digest of a public key (R478). -/
opaque Config.shake256 : Nat → Nat

/-- Whether a signature over some data verifies under a public key, by XMSS as R478 names it: key, data, signature. -/
opaque Config.xmssVerifies : Nat → List Nat → Nat → Bool

/-- The signature of some data by a leaf of an XMSS key: key, leaf, data (R479). -/
opaque Config.xmssSign : Nat → Nat → List Nat → Nat

/-- The key for reports that a start derives (R479). -/
opaque Config.aliasKey : Nat → Nat

/-- A temperature or power reading that the sideband gives and no rule states (R482). -/
opaque Config.sensor : Nat → Nat

/-- The code of an inexact special function inside its stated bound (R157), by function and by input bits with SUB and
SAT. -/
opaque Config.sfu : Nat → Nat → Nat

/-- Arrival order of the ranks of a per-step reduction with determinism off (R9, R464). -/
opaque Config.arrival : Nat → List Nat

/-- The rank whose request failed, where the failure itself does not say (R465). -/
opaque Config.failedRank : Nat → Nat

/-- The UALink port, modulo 16, through which the pod's switch reaches an accelerator (R458). -/
opaque Config.uaPort : Nat → Nat

/-- The partition, modulo 12, whose packet a link carried when a flit failed its check (R392). -/
opaque Config.packetOf : Nat → Nat

end Sys2Proof
end

