-- ==== Sys2Proof/Machine/Num.lean ====
section
/-! DEFINITION. Element formats, exact values, rounding and conversion, scales, the stochastic generator, the exact
accumulator and the special functions. -/

namespace Sys2Proof.Machine

/-! ## Formats (R82, R86, R88) -/

/-- A format-table entry by its fields (R86). -/
structure Fmt where
  sat  : Bool
  int  : Bool
  blk  : Nat
  sub  : Bool
  sgn  : Bool
  spec : Nat
  bias : Int
  man  : Nat
  exp  : Nat
  raw  : Nat

/-- Unpack an entry; MAN 15 stands for 23 (R86). -/
def Fmt.ofEntry (w : Nat) : Fmt :=
  { sat := bit w 23, int := bit w 22, blk := bits w 21 20, sub := bit w 19, sgn := bit w 18, spec := bits w 17 16,
    bias := sext 8 (bits w 15 8), man := if bits w 7 4 = 15 then 23 else bits w 7 4, exp := bits w 3 0, raw := w }

/-- The width of an entry (R88). -/
def Fmt.width (f : Fmt) : Nat := f.sgn.toNat + f.exp + f.man

/-- A word that SETSR of a format entry accepts (R89). -/
def entryOk (w : Nat) : Bool :=
  decide (w / 2 ^ 24 = 0) && decide (bits w 17 16 ≠ 3) && decide (bits w 21 20 ≠ 3)
  && !(decide (11 ≤ bits w 7 4) && decide (bits w 7 4 ≤ 14)) && decide (bits w 3 0 ≤ 8)

/-- The usable entries (R88). -/
def Fmt.usable (f : Fmt) : Bool :=
  entryOk (f.raw % 2 ^ 24)
  && (decide (f.width = 4) || decide (f.width = 6) || decide (f.width = 8) || decide (f.width = 16) || decide (f.width = 32))
  && (if f.width = 32 then decide (f.exp = 8) && decide (f.man = 23) && decide (f.bias = 127) && decide (f.spec = 1) && f.sgn
        && decide (f.blk = 0) else decide (f.man ≠ 23))
  && (if f.int then decide (f.width = 8) && decide (f.exp = 0) && f.sgn && decide (f.spec = 0) && !f.sub && decide (f.bias = 0)
        else decide (1 ≤ f.exp))
  && (decide (f.spec ≠ 1) || decide (2 ≤ f.exp))
  && (decide (f.blk = 0) || decide (f.width = 4) || decide (f.width = 6) || decide (f.width = 8))
  && (decide (f.blk ≠ 1) || decide (f.width = 8))

/-- The classes of R140. -/
def Fmt.s32 (f : Fmt) : Bool := f.usable && decide (f.width = 32)
def Fmt.s16 (f : Fmt) : Bool := f.usable && decide (f.width = 16) && decide (f.blk = 0)
def Fmt.sc (f : Fmt) : Bool := f.usable && decide (f.blk = 0)
def Fmt.b (f : Fmt) : Bool := f.usable && decide (f.blk ≠ 0)

/-- Block length in elements (R86). -/
def Fmt.blockLen (f : Fmt) : Nat := if f.blk = 1 then 16 else 32

/-- Elements per lane of a class SC entry (R140). -/
def Fmt.perLane (f : Fmt) : Nat := if f.width = 32 then 1 else if f.width = 16 then 2 else if f.width = 4 then 8 else 4

/-- Bits that an element takes in a lane register: a 6-bit element takes a byte (R94, R140). -/
def Fmt.slot (f : Fmt) : Nat := 32 / f.perLane

/-- The preset table (R87). -/
def presets : List (Nat × BitVec 64) :=
  [ (0, 0x0D7FF8), (1, 0x0D7F78), (2, 0x0D0FA5), (3, 0x2E0734), (4, 0x2D0F25), (5, 0x2C0323), (6, 0x2C0132),
    (7, 0x2C0112), (8, 0x640070), (9, 0x1E0734) ]

/-- Entry 0 of the presets, binary32. -/
def binary32 : Fmt := Fmt.ofEntry 0x0D7FF8

/-! ## Exact values (R83-R85) -/

/-- An exact value: NaN, an infinity, or (−1)^neg · m · 2^e. -/
inductive Num where
  | nan
  | inf (neg : Bool)
  | fin (neg : Bool) (m : Nat) (e : Int)
  deriving DecidableEq, Repr

def Num.zero : Num := .fin false 0 0

/-- The value of a code under an entry (R83, R141). -/
def Fmt.decode (f : Fmt) (code : Nat) : Num :=
  if f.int then
    let v := sext 8 code
    .fin (decide (v < 0)) v.natAbs (-6)
  else
    let m := code % 2 ^ f.man
    let e := code / 2 ^ f.man % 2 ^ f.exp
    let neg := f.sgn && bit code (f.man + f.exp)
    let top := decide (e = 2 ^ f.exp - 1)
    if e = 0 then (if f.sub then .fin neg m (1 - f.bias - f.man) else .fin neg 0 0)
    else if f.spec = 1 && top then (if m = 0 then .inf neg else .nan)
    else if f.spec = 2 && top && decide (m = 2 ^ f.man - 1) then .nan
    else .fin neg (2 ^ f.man + m) ((e : Int) - f.bias - f.man)

def Num.neg : Num → Num
  | .nan => .nan
  | .inf s => .inf (!s)
  | .fin s m e => .fin (!s) m e

def Num.abs : Num → Num
  | .nan => .nan
  | .inf _ => .inf false
  | .fin _ m e => .fin false m e

def Num.isNan : Num → Bool
  | .nan => true
  | _ => false

def Num.isInf : Num → Bool
  | .inf _ => true
  | _ => false

def Num.isZero : Num → Bool
  | .fin _ m _ => decide (m = 0)
  | _ => false

def Num.sign : Num → Bool
  | .nan => false
  | .inf s => s
  | .fin s _ _ => s

/-- A finite value as an integer in units of 2^u, for u at most its exponent. -/
def Num.scaled (u : Int) : Num → Int
  | .fin s m e => (if s then -1 else 1) * ((m * 2 ^ (e - u).toNat : Nat) : Int)
  | _ => 0

def Num.expo : Num → Int
  | .fin _ m e => if m = 0 then 0 else e
  | _ => 0

/-- Floor of log2 of the magnitude of a finite non-zero value. -/
def Num.log2 : Num → Int
  | .fin _ m e => (m.log2 : Int) + e
  | _ => 0

/-- Multiply by a power of two. -/
def Num.scale2 (k : Int) : Num → Num
  | .fin s m e => .fin s m (e + k)
  | x => x

/-! ## Arithmetic with its special cases (R144). The flag is the invalid cause. -/

/-- A product. -/
def Num.mul : Num → Num → Num × Bool
  | .nan, _ => (.nan, false)
  | _, .nan => (.nan, false)
  | .inf s, y => if y.isZero then (.nan, true) else (.inf (s != y.sign), false)
  | x, .inf t => if x.isZero then (.nan, true) else (.inf (x.sign != t), false)
  | .fin s m e, .fin t n d => (.fin (s != t) (m * n) (e + d), false)

/-- The exact sum of a list of terms; `rdn` is the sign of an exact zero from terms of opposite sign. -/
def Num.sum (xs : List Num) (rdn : Bool) : Num × Bool :=
  if xs.any Num.isNan then (.nan, false)
  else
    let p := xs.any fun x => x.isInf && !x.sign
    let n := xs.any fun x => x.isInf && x.sign
    if p && n then (.nan, true)
    else if p then (.inf false, false)
    else if n then (.inf true, false)
    else
      let u := xs.foldl (fun u x => if x.isZero then u else min u x.expo) 0
      let v := xs.foldl (fun a x => a + (if x.isZero then 0 else x.scaled u)) (0 : Int)
      if v = 0 then
        (if xs.all Num.sign then (.fin (!xs.isEmpty) 0 0, false)
         else if xs.all fun x => !x.sign then (.fin false 0 0, false)
         else (.fin rdn 0 0, false))
      else (.fin (decide (v < 0)) v.natAbs u, false)

/-- A sum of products: 0 × ∞ anywhere, then the sum (R144). Each term is a list of factors. -/
def Num.dot (terms : List (Num × Num)) (rest : List Num) (rdn : Bool) : Num × Bool :=
  if (terms.any fun t => t.1.isNan || t.2.isNan) || rest.any Num.isNan then (.nan, false)
  else
    let ps := terms.map fun t => t.1.mul t.2
    if ps.any Prod.snd then (.nan, true) else Num.sum (ps.map Prod.fst ++ rest) rdn

/-- Order of two values that are not NaN. -/
def Num.lt (x y : Num) : Bool :=
  match x, y with
  | .inf true, .inf true => false
  | .inf true, _ => true
  | _, .inf true => false
  | .inf false, _ => false
  | _, .inf false => true
  | _, _ =>
    let u := min x.expo y.expo
    decide ((if x.isZero then 0 else x.scaled u) < (if y.isZero then 0 else y.scaled u))

/-- Equality of values, ±0 alike. -/
def Num.eqv (x y : Num) : Bool := !x.lt y && !y.lt x

/-! ## Rounding and conversion (R99-R101, R104) -/

/-- m · 2^sh rounded to an integer under a mode; `even` tells whether the lower neighbour's code is even. -/
def roundInt (mode : Nat) (neg : Bool) (rb m : Nat) (sh : Int) (even : Nat → Bool) : Nat :=
  if 0 ≤ sh then m * 2 ^ sh.toNat
  else
    let d := 2 ^ (-sh).toNat
    let q := m / d
    let r := m % d
    let up := match mode with
      | 0 => decide (d < 2 * r) || (decide (2 * r = d) && !even q)
      | 1 => false
      | 2 => neg && decide (r ≠ 0)
      | 3 => !neg && decide (r ≠ 0)
      | 4 => decide (d ≤ 2 * r)
      | _ => decide (2 ^ 32 ≤ r * 2 ^ 32 / d + rb)
    if up then q + 1 else q

/-- A converted code with the causes overflow and invalid (R101). -/
structure Conv where
  code : Nat
  ov   : Bool
  inv  : Bool
  deriving DecidableEq, Repr

/-- Whether a format has a NaN code (R84). -/
def Fmt.hasNan (f : Fmt) : Bool := (decide (f.spec = 1) && decide (1 ≤ f.man)) || decide (f.spec = 2)

/-- The canonical NaN (R84). -/
def Fmt.nanCode (f : Fmt) : Nat :=
  if f.spec = 2 then 2 ^ (f.exp + f.man) - 1 else (2 ^ f.exp - 1) * 2 ^ f.man + 2 ^ (f.man - 1)

def Fmt.signCode (f : Fmt) (neg : Bool) : Nat := if f.sgn && neg then 2 ^ (f.exp + f.man) else 0

def Fmt.infCode (f : Fmt) (neg : Bool) : Nat := f.signCode neg + (2 ^ f.exp - 1) * 2 ^ f.man

/-- Magnitude code of the largest finite value (R82). -/
def Fmt.maxCode (f : Fmt) : Nat :=
  if f.spec = 1 then (2 ^ f.exp - 1) * 2 ^ f.man - 1
  else if f.spec = 2 then 2 ^ (f.exp + f.man) - 2
  else 2 ^ (f.exp + f.man) - 1

/-- emax of R82 and R102. -/
def Fmt.emax (f : Fmt) : Int := (2 ^ f.exp : Nat) - 1 - f.bias - (if f.spec = 1 then 1 else 0)

/-- The result for a finite magnitude out of range (R100). -/
def Fmt.outOfRange (f : Fmt) (mode : Nat) (sat neg : Bool) : Nat :=
  let big := f.signCode neg + f.maxCode
  if f.int then (if neg then 0x80 else 0x7F)
  else if sat || decide (f.spec = 0) then big
  else if f.spec = 2 then f.nanCode
  else
    match mode with
    | 1 => big
    | 2 => if neg then f.infCode neg else big
    | 3 => if neg then big else f.infCode neg
    | _ => f.infCode neg

/-- Convert an exact value into a format under a rounding mode, SAT and the generator word (R99, R100, R104, R141). -/
def Fmt.conv (f : Fmt) (mode : Nat) (satBit : Bool) (rb : Nat) (x : Num) : Conv :=
  let sat := satBit || f.sat
  match x with
  | .nan => if f.hasNan then ⟨f.nanCode, false, false⟩ else ⟨0, false, true⟩
  | .inf neg =>
    if neg && !f.sgn then ⟨0, false, true⟩
    else if f.int then ⟨if neg then 0x80 else 0x7F, false, false⟩
    else if f.spec = 1 then ⟨f.infCode neg, false, false⟩
    else if f.spec = 2 && !sat then ⟨f.nanCode, false, false⟩
    else ⟨f.signCode neg + f.maxCode, false, false⟩
  | .fin neg m e =>
    if m = 0 then ⟨if f.int then 0 else f.signCode neg, false, false⟩
    else if neg && !f.sgn then ⟨0, false, true⟩
    else if f.int then
      let n := roundInt mode neg rb m (e + 6) (fun q => q % 2 == 0)
      if (if neg then 128 < n else 127 < n) then ⟨if neg then 0x80 else 0x7F, true, false⟩
      else ⟨if neg then (256 - n) % 256 else n, false, false⟩
    else
      let fl := (m.log2 : Int) + e
      let low : Int := 1 - f.bias
      let base := if f.sub then max fl low else fl
      let q := base - f.man
      let even := fun n : Nat => if f.man = 0 ∧ n ≠ 0 then decide ((base + f.bias) % 2 = 0) else n % 2 == 0
      let n := roundInt mode neg rb m (e - q) even
      if n = 0 then ⟨f.signCode neg, false, false⟩
      else
        let fl' := (n.log2 : Int) + q
        if fl' < low then
          (if f.sub then ⟨f.signCode neg + n, false, false⟩ else ⟨f.signCode neg, false, false⟩)
        else
          let mant := (if f.man ≤ n.log2 then n / 2 ^ (n.log2 - f.man) else n * 2 ^ (f.man - n.log2)) % 2 ^ f.man
          let mag := (fl' + f.bias).toNat * 2 ^ f.man + mant
          if f.maxCode < mag then ⟨f.outOfRange mode sat neg, true, false⟩ else ⟨f.signCode neg + mag, false, false⟩

/-- Round to binary32 with subnormals kept, nearest even (R110). -/
def round32 (x : Num) : Conv := binary32.conv 0 false 0 x

/-! ## Scales and blocks (R85, R102) -/

/-- Decoded block value: element × scale (R85). -/
def blockValue (f : Fmt) (code scale : Nat) : Num :=
  if scale = 0xFF then .nan else (f.decode code).scale2 ((scale : Int) - 127)

/-- The scale code that R102 chooses for a list of values. -/
def chooseScale (f : Fmt) (xs : List Num) : Nat :=
  if xs.any fun x => x.isNan || x.isInf then 0xFF
  else
    match xs.filter fun x => !x.isZero with
    | [] => 0
    | y :: ys =>
      let l := ys.foldl (fun a x => max a x.log2) y.log2
      (max (-127) (min 127 (l - f.emax)) + 127).toNat

/-- Largest magnitude, NaN if any is NaN (R110). -/
def maxMagnitude (xs : List Num) : Num :=
  if xs.any Num.isNan then .nan else xs.foldl (fun a x => if a.lt x.abs then x.abs else a) Num.zero

/-! ## The stochastic generator (R105) -/

def mix64 (z : Nat) : Nat :=
  let z := ((z ^^^ (z >>> 30)) * 0xBF58476D1CE4E5B9) % 2 ^ 64
  let z := ((z ^^^ (z >>> 27)) * 0x94D049BB133111EB) % 2 ^ 64
  z ^^^ (z >>> 31)

/-- The generator word of two counters and a seed (R105, R290). -/
def genWord (c0 c1 seed : Nat) : Nat :=
  let h := mix64 (c0 ^^^ seed)
  mix64 (h ^^^ c1 ^^^ rotl 64 seed 32) % 2 ^ 32

/-! ## The exact accumulator (R107-R109) -/

structure Exact where
  a    : Nat
  nan  : Bool
  pinf : Bool
  ninf : Bool
  deriving DecidableEq, Repr

def Exact.zero : Exact := ⟨0, false, false, false⟩

/-- Add a value (R108). -/
def Exact.add (x : Exact) : Num → Exact
  | .nan => { x with nan := true }
  | .inf false => { x with pinf := true }
  | .inf true => { x with ninf := true }
  | .fin neg m e =>
    let g := roundInt 0 neg 0 m (e + 149) (fun q => q % 2 == 0)
    { x with a := if neg then (x.a + (2 ^ 320 - g % 2 ^ 320)) % 2 ^ 320 else (x.a + g) % 2 ^ 320 }

/-- The value that a read rounds, and the invalid cause of opposing infinities (R109). -/
def Exact.value (x : Exact) : Num × Bool :=
  if x.nan then (.nan, x.pinf && x.ninf)
  else if x.pinf && x.ninf then (.nan, true)
  else if x.pinf then (.inf false, false)
  else if x.ninf then (.inf true, false)
  else
    let v := sext 320 x.a
    (.fin (decide (v < 0)) v.natAbs (-149), false)

/-- The 48-byte image (R107). -/
def Exact.image (x : Exact) : List Byte :=
  toBytes 40 x.a ++ toBytes 8 (x.nan.toNat + 2 * x.pinf.toNat + 4 * x.ninf.toNat)

def Exact.ofImage (bs : List Byte) : Exact :=
  let f := ((bs.drop 40).headD 0).toNat
  ⟨ofBytes (bs.take 40), bit f 0, bit f 1, bit f 2⟩

/-! ## Division and square root, correctly rounded (R157) -/

/-- A quotient of finite non-zero values, with a sticky last bit below every rounding place. -/
def divNum : Num → Num → Num
  | .fin s m e, .fin t n d =>
    let k := 80 + n.log2
    let q := m * 2 ^ k / n
    .fin (s != t) (2 * q + (if m * 2 ^ k % n = 0 then 0 else 1)) (e - d - k - 1)
  | _, _ => .nan

/-- The integer square root, bit by bit from bit `k` down. -/
def isqrt (n : Nat) : Nat → Nat → Nat
  | 0, r => r
  | k + 1, r => isqrt n k (if (r + 2 ^ k) * (r + 2 ^ k) ≤ n then r + 2 ^ k else r)

/-- The square root of a positive value, with a sticky last bit. -/
def sqrtNum : Num → Num
  | .fin _ m e =>
    let odd := e % 2 ≠ 0
    let m := (if odd then 2 * m else m) * 2 ^ 120
    let e := (if odd then e - 1 else e) - 120
    let r := isqrt m (m.log2 / 2 + 1) 0
    .fin false (2 * r + (if r * r = m then 0 else 1)) (e / 2 - 1)
  | x => x

/-! ## References for the bounded functions (R157), in fixed point with an error below 2^-90 -/

/-- 2π · 2^320. -/
def twoPi : Nat := 0x6487ed5110b4611a62633145c06e0e68948127044533e63a0105df531d89cd9128a5043cc71a026ef

/-- ln 2 · 2^192. -/
def ln2 : Nat := 0xb17217f7d1cf79abc9e3b39803f2f6af40f343267298b62d

/-- The power series of exp (`st` = 1) or of the odd and even series (`st` = 2), in units of 2^-192: the sum of
t · x^st / ((k+1) … (k+st)) with the signs asked for. -/
def series (x : Int) (alt : Bool) (st : Nat) : Nat → Nat → Int → Int
  | 0, _, _ => 0
  | fuel + 1, k, t =>
    let t' := (List.range st).foldl (fun t i => t * x / 2 ^ 192 / ((k + i + 1 : Nat) : Int)) t
    t + series x alt st fuel (k + st) (if alt then -t' else t')

/-- 2^a for a value in units of 2^-192, as a value. -/
def exp2Ref (a : Int) : Num :=
  let n := a / 2 ^ 192
  let fr := a % 2 ^ 192
  let v := series (fr * ln2 / 2 ^ 192) false 1 60 0 (2 ^ 192)
  .fin false v.toNat (n - 192)

/-- Fraction bits of log2 of x / 2^192 in [1, 2), by squaring. -/
def logBits : Nat → Nat → Nat → Nat
  | 0, _, acc => acc
  | k + 1, x, acc =>
    let y := x * x / 2 ^ 192
    if 2 ^ 193 ≤ y then logBits k (y / 2) (2 * acc + 1) else logBits k y (2 * acc)

/-- log2 of a positive finite value, in units of 2^-90. -/
def log2Ref (m : Nat) (e : Int) : Int :=
  let l := m.log2
  ((l : Int) + e) * 2 ^ 90 + (logBits 90 (m * 2 ^ 192 / 2 ^ l) 0 : Nat)

/-- An angle reduced into [0, 2π), in units of 2^-192. -/
def reduceAngle (m : Nat) (e : Int) : Nat :=
  let x := if 0 ≤ e + 320 then m * 2 ^ (e + 320).toNat else m / 2 ^ (-(e + 320)).toNat
  x % twoPi / 2 ^ 128

def sinRef (m : Nat) (e : Int) : Num :=
  let x : Int := reduceAngle m e
  let v := series x true 2 40 1 x
  .fin (decide (v < 0)) v.natAbs (-192)

def cosRef (m : Nat) (e : Int) : Num :=
  let x : Int := reduceAngle m e
  let v := series x true 2 40 0 (2 ^ 192)
  .fin (decide (v < 0)) v.natAbs (-192)

/-- A value in units of 2^-192, truncated. -/
def fix192 (m : Nat) (e : Int) : Nat := if 0 ≤ e + 192 then m * 2 ^ (e + 192).toNat else m / 2 ^ (-(e + 192)).toNat

/-- tanh of a magnitude below 9: (E - 1) / (E + 1) with E = 2^(2a / ln 2). -/
def tanhRef (m : Nat) (e : Int) : Num :=
  match exp2Ref ((2 * fix192 m e * 2 ^ 192 / ln2 : Nat) : Int) with
  | .fin _ v x =>
    let E := fix192 v x
    .fin false ((E - 2 ^ 192) * 2 ^ 192 / (E + 2 ^ 192)) (-192)
  | y => y

/-- Whether two finite values differ by at most b · 2^u. -/
def within (x y : Num) (b : Nat) (u : Int) : Bool :=
  let w := min (min x.expo y.expo) u
  decide ((x.scaled w - y.scaled w).natAbs ≤ b * 2 ^ (u - w).toNat)

/-- The result inside a bound: the free code when it is a finite value within b · 2^u of the reference, else the
reference rounded to nearest. -/
def pickSfu (ref : Num) (b : Nat) (u : Int) (free : Nat) : Num :=
  let y := binary32.decode (free % 2 ^ 32)
  match y with
  | .fin _ _ _ => if within y ref b u then y else binary32.decode (round32 ref).code
  | _ => binary32.decode (round32 ref).code

/-- Exponent of one binary32 ulp at a value. -/
def ulp32 (x : Num) : Int := max x.log2 (-126) - 23

end Sys2Proof.Machine
end

