-- ==== Sys2Proof/Machine/Home.lean ====
section
/-! DEFINITION. Tables and numbering, the physical map, token buckets, the shared-cache slices, and every access at the home of a
line: what it pays, which lines the slices hold, what memory holds (R234, R317, R348, R423-R451). -/

namespace Sys2Proof.Machine

/-! ## Tables and numbering (R2) -/

def clusterOf (core : Nat) : Nat := core / 4
def twinOf (core : Nat) : Nat := core / 2
def partOfCluster (k : Nat) : Nat := k / 9
def sectorOfCluster (k : Nat) : Nat := k / 18
def partOfVnum (v : Nat) : Nat := v / 8

def State.gang? (s : State) (g : Nat) : Option Gang := SMap.find? g s.gangs
def State.putGang (s : State) (g : Nat) (G : Gang) : State := { s with gangs := SMap.put g G s.gangs }
def State.modGang (s : State) (g : Nat) (f : Gang → Gang) : State := { s with gangs := SMap.modify g f s.gangs }
def State.wg? (s : State) (w : Nat) : Option Wg := SMap.find? w s.wgs
def State.putWg (s : State) (w : Nat) (W : Wg) : State := { s with wgs := SMap.put w W s.wgs }
def State.modWg (s : State) (w : Nat) (f : Wg → Wg) : State := { s with wgs := SMap.modify w f s.wgs }
def State.grid? (s : State) (n : Nat) : Option Grid := SMap.find? n s.grids
def State.modGrid (s : State) (n : Nat) (f : Grid → Grid) : State := { s with grids := SMap.modify n f s.grids }
def State.core (s : State) (c : Nat) : Core := SMap.getD c Core.init s.cores
def State.modCore (s : State) (c : Nat) (f : Core → Core) : State := { s with cores := SMap.upd c Core.init f s.cores }
def State.cluster (s : State) (k : Nat) : Cluster := SMap.getD k Cluster.init s.clusters
def State.modCluster (s : State) (k : Nat) (f : Cluster → Cluster) : State :=
  { s with clusters := SMap.upd k Cluster.init f s.clusters }
def State.engine (s : State) (e : Nat) : Engine := SMap.getD e Engine.init s.engines
def State.modEngine (s : State) (e : Nat) (f : Engine → Engine) : State :=
  { s with engines := SMap.upd e Engine.init f s.engines }
def State.part (s : State) (p : Nat) : Partition := SMap.getD p Partition.init s.parts
def State.modPart (s : State) (p : Nat) (f : Partition → Partition) : State :=
  { s with parts := SMap.upd p Partition.init f s.parts }
def State.vdev (s : State) (v : Nat) : Vdev := SMap.getD v Vdev.init s.vdevs
def State.modVdev (s : State) (v : Nat) (f : Vdev → Vdev) : State := { s with vdevs := SMap.upd v Vdev.init f s.vdevs }
def State.ctx (s : State) (a : Nat) : Ctx := SMap.getD a Ctx.init s.ctxs
def State.modCtx (s : State) (a : Nat) (f : Ctx → Ctx) : State := { s with ctxs := SMap.upd a Ctx.init f s.ctxs }
def State.emit (s : State) (o : Out) : State := { s with out := s.out ++ [o] }

/-- A fresh key and the state that has used it. -/
def State.newId (s : State) : Nat × State := (s.nextId, { s with nextId := s.nextId + 1 })

/-- Whether a partition's halt line is raised (R379, R381). -/
def State.stopped (s : State) (p : Nat) : Bool := (s.part p).halting || (s.part p).halted

/-- The Gaffers run: the device is up (R475, R480). -/
def State.up (s : State) : Bool := decide (s.pkg.power = .running) || decide (s.pkg.power = .minimal)

/-- A partition is in service: the device is up and the partition came up with it (R475, R476). -/
def State.inService (s : State) (p : Nat) : Bool := s.up && bit s.pkg.parts p

/-- A virtual device's table entry (R440). -/
def State.entry (s : State) (v : Nat) : VdevEntry := SMap.getD (v % 8) VdevEntry.init (s.part (partOfVnum v)).table

/-- A rate word of a virtual device, or of the partition's firmware (holder 96 + p): R440, R449. -/
def State.rate (s : State) (holder index : Nat) : Nat :=
  if holder < 96 then (if (s.entry holder).en then (s.entry holder).rates.getD index 0 else 0)
  else if index = 1 then 0 else 32 + 4 * 2 ^ 32

/-- Insert a number into a rising list. -/
def insNat (n : Nat) : List Nat → List Nat
  | [] => [n]
  | a :: t => if n < a then n :: a :: t else if n = a then a :: t else a :: insNat n t

/-- Insertion sort by a key, stable. -/
def sortBy {α : Type} (le : α → α → Bool) : List α → List α
  | [] => []
  | a :: t => ins a (sortBy le t)
where
  ins (a : α) : List α → List α
    | [] => [a]
    | b :: t => if le a b then a :: b :: t else b :: ins a t

/-! ## The physical map (R348, R424, R425) -/

/-- First physical address of a partition's HBM stack. -/
def stackBase (p : Nat) : Nat := p * 0x1000000000

/-- Usable bytes of a stack: 60 GB. -/
def stackSize : Nat := 0xF00000000

def tierBase (k : Nat) : Nat := 0x100000000000 + k * 0x20000000000
def hostBase : Nat := 0x8000000000000

/-- The partition whose stack holds a physical address. -/
def stackOf (pa : Nat) : Option Nat :=
  if pa / 0x1000000000 < 12 ∧ pa % 0x1000000000 < stackSize then some (pa / 0x1000000000) else none

/-- The second-tier port of a physical address. -/
def tierOf (pa : Nat) : Option Nat :=
  if 0x100000000000 ≤ pa ∧ pa < tierBase 4 then some ((pa - 0x100000000000) / 0x20000000000) else none

def isHost (pa : Nat) : Bool := decide (hostBase ≤ pa) && decide (pa < 2 ^ 52)

/-- Some row of the physical map holds the address (R348). -/
def mapped (pa : Nat) : Bool := (stackOf pa).isSome || (tierOf pa).isSome || isHost pa

/-- Whether an interval lies in one of a list of half-open intervals. -/
def inRanges (lo hi : Nat) (rs : List (Nat × Nat)) : Bool := rs.any fun r => decide (r.1 ≤ lo) && decide (hi ≤ r.2)

/-- Whether a page is in a partition's ranges for access (R349, R457): its stack, its granted second-tier (up to the
expander's capacity; none in minimal mode, R476) and host ranges, and its read grants. -/
def State.inRange (s : State) (p lo size : Nat) : Bool :=
  (decide (stackBase p ≤ lo) && decide (lo + size ≤ stackBase p + stackSize))
  || (inRanges lo (lo + size) (s.part p).grants
      && (match tierOf lo with
          | some k => decide (s.pkg.power ≠ .minimal) && decide (lo + size ≤ tierBase k + SMap.getD k 0 s.pkg.tierCap)
          | none => isHost lo))
  || inRanges lo (lo + size) (s.part p).readOnly

/-- Whether a page lies only in a read grant (R353, R425). -/
def State.readOnlyPage (s : State) (p lo size : Nat) : Bool :=
  inRanges lo (lo + size) (s.part p).readOnly && !(decide (stackBase p ≤ lo) && decide (lo + size ≤ stackBase p + stackSize))

/-- The partition in whose slices a line has its home: that of its stack, or the one to which its range is granted (R425). -/
def State.homePart (s : State) (pa : Nat) : Nat :=
  match stackOf pa with
  | some q => q
  | none => ((List.range 12).find? fun p => inRanges pa (pa + 1) (s.part p).grants).getD 0

/-! ## Token buckets (R442-R451) -/

/-- Arbiters by number: 4 · core + quarter, 2000 + Ladle, 3000 + PLE's cluster, 4000 + partition (HBM), 5000 + cluster
(port), 6000 + 2 · sector + direction (ring stop), 7000 + 2 · link + direction (16 UALink ports, 4 second-tier ports, the host
link; direction 0 leaves the device). The resource index of an arbiter. -/
def arbIndex (arb : Nat) : Nat :=
  if arb < 2000 then 0 else if arb < 3000 then 4 else if arb < 4000 then 5 else if arb < 5000 then 2
  else if arb < 6000 then 3 else if arb < 7000 then 3 else 6

/-- Capacity per period (R442). -/
def arbCapacity (arb : Nat) : Nat :=
  if arb < 2000 then 4096 else if arb < 4000 then 1024 else if arb < 5000 then 55829 else if arb < 6000 then 4096
  else if arb < 7000 then 16384 else if arb < 7032 then 1702 else 2178

/-- Shared between partitions (R442). -/
def arbShared (arb : Nat) : Bool := decide (6000 ≤ arb)

/-- Time resources: Ladles and posting-list engines (R445). -/
def arbTime (arb : Nat) : Bool := decide (2000 ≤ arb) && decide (arb < 4000)

def State.share (s : State) (p : Nat) : Nat := SMap.getD p Package.shareInit s.pkg.shares

/-- The partition of a holder: a virtual device, or the firmware of partition `holder - 96`. -/
def holderPart (holder : Nat) : Nat := if holder < 96 then partOfVnum holder else holder - 96

/-- Refill F of a holder at an arbiter, in units of 2^-20 (R443). -/
def State.refill (s : State) (arb holder : Nat) : Nat :=
  let sh := s.rate holder (arbIndex arb) % 2048
  if arbShared arb then arbCapacity arb * s.share (holderPart holder) * sh else arbCapacity arb * sh * 1024

def State.burst (s : State) (arb holder : Nat) : Nat := bits (s.rate holder (arbIndex arb)) 35 32

/-- A bucket as its arbiter's next period begins (R443, R450): the level is at most the new depth, the refill is the new F, and
what was lent is that of the last period. -/
def State.nextBucket (s : State) (arb holder : Nat) (b : Bucket) : Bucket :=
  let f := s.refill arb holder
  let d := s.burst arb holder * f
  { level := min (min b.level d + f) d, brw := 0, last := b.brw, burst := s.burst arb holder, refill := f,
    noBrw := bit (s.rate holder (arbIndex arb)) 16 }

/-- A bucket after `k` periods have begun (R443). -/
def State.bucketAfter (s : State) (arb holder k : Nat) (b : Bucket) : Bucket :=
  match k with
  | 0 => b
  | 1 => s.nextBucket arb holder b
  | n + 2 =>
    let c := s.nextBucket arb holder b
    { c with level := min (c.level + (n + 1) * c.refill) (c.burst * c.refill), last := 0 }

/-- Periods of an arbiter that have begun and have not been brought to its buckets yet: a period begins at every 1,024th clk. -/
def State.periodsDue (s : State) (arb : Nat) : Nat := s.now / 1024 - SMap.getD arb 0 s.periods

/-- A bucket as it stands now; one that nothing has touched is at its depth (R443: at arbiter reset every level is D). -/
def State.bucket (s : State) (arb holder : Nat) : Bucket :=
  match SMap.find? (arb * 128 + holder) s.buckets with
  | some b => s.bucketAfter arb holder (s.periodsDue arb) b
  | none => ⟨s.burst arb holder * s.refill arb holder, 0, 0, s.burst arb holder, s.refill arb holder,
      bit (s.rate holder (arbIndex arb)) 16⟩

/-- Bring every bucket of an arbiter to the period that has begun (R443, R450). -/
def State.catchUp (s : State) (arb : Nat) : State :=
  let k := s.periodsDue arb
  if k = 0 then s
  else { s with buckets := SMap.mapV (fun key b => if key / 128 = arb then s.bucketAfter arb (key % 128) k b else b) s.buckets,
                periods := SMap.put arb (s.now / 1024) s.periods }

/-- Write down a bucket as it stands, so that a rate that is written now takes effect when the arbiter's next period begins (R450). -/
def State.holdBucket (s : State) (arb holder : Nat) : State :=
  let s := s.catchUp arb
  { s with buckets := SMap.put (arb * 128 + holder) (s.bucket arb holder) s.buckets }

/-- A request of `n` tokens can pay: time resources ask for 1 when the request begins (R445). -/
def Bucket.canPay (b : Bucket) (time : Bool) (n : Nat) : Bool := decide ((if time then 1 else n) * 2 ^ 20 ≤ b.level)

/-- A request can pay now (R445); in minimal mode every bucket can (R476). -/
def State.affords (s : State) (q : Request) : Bool :=
  decide (s.pkg.power = .minimal) || (s.bucket q.arb q.holder).canPay (arbTime q.arb) q.n

/-- Ask an arbiter for `n` tokens (R444, R445, R476, R481): the state after paying or borrowing, or none when the
request waits. `first` says that no request that can pay waits at the arbiter. A grant of time pays clk by clk (State.payTime). -/
def State.payAs (s : State) (first : Bool) (arb holder n : Nat) : Option State :=
  if s.pkg.withhold ∧ arb < 2000 then none
  else if s.pkg.power = .minimal then some s
  else
    let s := s.catchUp arb
    let b := s.bucket arb holder
    let key := arb * 128 + holder
    if b.canPay (arbTime arb) n then
      some (if arbTime arb then s else { s with buckets := SMap.put key { b with level := b.level - n * 2 ^ 20 } s.buckets })
    else if b.noBrw || !first then none
    else some (if arbTime arb then s else { s with buckets := SMap.put key { b with brw := b.brw + n } s.buckets })

def State.pay (s : State) (arb holder n : Nat) : Option State := s.payAs true arb holder n

/-- One clk of a grant of time: it takes a token while the level exceeds 0, and the clk of a borrowed grant, or of one whose level
has reached 0, are borrowed (R445). -/
def State.payTime (s : State) (arb : Nat) (g : Grant) : State :=
  if s.pkg.power = .minimal then s
  else
    let s := s.catchUp arb
    let b := s.bucket arb g.holder
    let b := if g.lent ∨ b.level = 0 then { b with brw := b.brw + 1 } else { b with level := b.level - 2 ^ 20 }
    { s with buckets := SMap.put (arb * 128 + g.holder) b s.buckets }

/-! ### Requests that wait (R444, R447) -/

/-- The requests of other turns that wait at an arbiter, oldest first; the requests of a halted partition wait for nothing (R379). -/
def State.others (s : State) (arb : Nat) : List Waiting :=
  s.queued.filter fun w => decide (w.req.arb = arb) && decide (w.turn ≠ s.ask.turn) && !s.stopped (holderPart w.req.holder)

/-- Those of them that came before the turn in progress. -/
def State.earlier (s : State) (arb : Nat) : List Waiting :=
  ((s.queued.takeWhile fun w => decide (w.turn ≠ s.ask.turn) || decide (w.req.arb ≠ arb))).filter fun w =>
    decide (w.req.arb = arb) && decide (w.turn ≠ s.ask.turn) && !s.stopped (holderPart w.req.holder)

/-- What the arbiter answers to a request: an earlier request that can pay goes first, and so does an earlier one of the same holder;
nothing is lent while any request that can pay waits (R444, R445, R447). -/
def State.grant (s : State) (q : Request) : Option State :=
  if decide (s.pkg.power ≠ .minimal) && (s.earlier q.arb).any fun w => decide (w.req.holder = q.holder) || s.affords w.req then none
  else s.payAs ((s.others q.arb).all fun w => !s.affords w.req) q.arb q.holder q.n

/-- A request of the turn in progress at an arbiter that grants the oldest request first (R444). Where it must wait, the turn waits with it
(R447). -/
def State.charge (s : State) (arb holder n : Nat) : State :=
  let q : Request := ⟨arb, holder, n⟩
  if s.ask.short.isSome then s
  else if s.ask.credit.contains q then { s with ask := { s.ask with credit := s.ask.credit.erase q, granted := s.ask.granted ++ [q] } }
  else match s.grant q with
    | some t => { t with ask := { t.ask with granted := t.ask.granted ++ [q] } }
    | none => { s with ask := { s.ask with short := some q } }

/-- A request that nothing waits for: where it cannot be granted at once it stays in its arbiter's queue (R429). -/
def State.chargeLater (s : State) (arb holder n : Nat) : State :=
  (s.grant ⟨arb, holder, n⟩).getD { s with queued := s.queued ++ [⟨none, ⟨arb, holder, n⟩, []⟩] }

/-- The write-backs in the queues of the arbiters, oldest first, are granted where they can be (R429, R444). -/
def State.drainQueues (s : State) : State :=
  (s.queued.filter fun w => decide (w.turn = none)).foldl (fun s w =>
    let t := { s with queued := s.queued.erase w }
    if ((s.queued.takeWhile fun x => decide (x ≠ w)).any fun x => decide (x.req.arb = w.req.arb)
        && !s.stopped (holderPart x.req.holder) && (decide (x.req.holder = w.req.holder) || s.affords x.req)) then s
    else (t.payAs ((t.others w.req.arb).all fun x => !t.affords x.req) w.req.arb w.req.holder w.req.n).getD s) s

/-- A turn begins to ask: what it was granted before it waited stands (R447). -/
def State.asking (s : State) (t : Turn) : State :=
  { s with ask := ⟨some t, none, [], ((s.queued.find? fun w => decide (w.turn = some t)).map Waiting.granted).getD [], (false, false)⟩,
           found := [] }

/-- The turn in progress waits: what it has been granted stays granted, and nothing else of it has happened. `s` is the state before the
turn. -/
def State.waitFor (s : State) (granted : List Request) (q : Request) : State :=
  let t := granted.foldl (fun s r => s.charge r.arb r.holder r.n) s
  let w : Waiting := ⟨s.ask.turn, q, granted⟩
  let put := if t.queued.any fun x => decide (x.turn = w.turn) && decide (x.req.arb = q.arb)
    then t.queued.map fun x => if x.turn = w.turn then w else x
    else (t.queued.filter fun x => decide (x.turn ≠ w.turn)) ++ [w]
  { t with queued := put, ask := Asking.none }

/-- A request that waits for a gang that is gone (R29). -/
def State.stale (s : State) (w : Waiting) : Bool :=
  match w.turn with
  | some (.scalar g) | some (.lane g) => (s.gang? g).isNone
  | _ => false

/-- A stream of `n` beats in packets of 16, by a holder that may borrow: packet by packet it pays while the level lasts and then borrows
(R442, R445). -/
def State.chargeStream (s : State) (arb holder n : Nat) : State :=
  if s.pkg.power = .minimal then s
  else
    let s := s.catchUp arb
    let b := s.bucket arb holder
    let full := min (n / 16) (b.level / (16 * 2 ^ 20))
    let left := b.level - full * 16 * 2 ^ 20
    let last := if n / 16 = full ∧ n % 16 * 2 ^ 20 ≤ left then n % 16 else 0
    let b := { b with level := left - last * 2 ^ 20, brw := b.brw + (n - 16 * full - last) }
    { s with buckets := SMap.put (arb * 128 + holder) b s.buckets }

/-! ## The fabric (R423, R442) -/

/-- Who makes an access at a home: the holder that pays, the owner of the lines it allocates, its partition, the cluster whose
port it passes (R432), and the sector at whose crossbar it enters (R423). -/
structure Req where
  holder : Nat
  owner  : Option Nat
  part   : Nat
  port   : Option Nat
  sector : Nat

/-- Firmware and dispatcher work of a partition (R428, R449). -/
def Req.firmware (p : Nat) : Req := ⟨96 + p, none, p, none, p / 2⟩

/-- An agent of a cluster, for a virtual device or, where there is none, for firmware. -/
def Req.cluster (v : Option Nat) (k : Nat) : Req := ⟨v.getD (96 + partOfCluster k), v, partOfCluster k, some k, sectorOfCluster k⟩

/-- An access from an I/O chiplet: host and peers (R423, R449, R455, R459). -/
def Req.chiplet (v : Option Nat) (p chiplet : Nat) : Req := ⟨v.getD (96 + p), v, p, none, 3 * chiplet + 1⟩

/-- A chain on a Runner of a die (R423, R437). -/
def Req.runner (v : Option Nat) (p die : Nat) : Req := ⟨v.getD (96 + p), v, p, none, 3 * die + 1⟩

/-- Ring stops and directions from one sector to another: the shorter way, and the rising one where both are as long (R423). -/
def ringPath (a b : Nat) : List (Nat × Nat) :=
  let up := (b + 6 - a) % 6
  if up ≤ 3 then (List.range up).map fun i => ((a + i) % 6, 0) else (List.range (6 - up)).map fun i => ((a + 6 - i) % 6, 1)

/-- Beats of `n` bytes: 64 bytes each, at least one (R442). -/
def beats (n : Nat) : Nat := max 1 ((n + 63) / 64)

/-- A packet goes round the ring (R423, R442). -/
def State.chargeRing (s : State) (holder a b n : Nat) : State :=
  (ringPath a b).foldl (fun s x => s.charge (6000 + 2 * x.1 + x.2) holder n) s

/-- The same for a packet that nothing waits for (R429). -/
def State.chargeRingLater (s : State) (holder a b n : Nat) : State :=
  (ringPath a b).foldl (fun s x => s.chargeLater (6000 + 2 * x.1 + x.2) holder n) s

/-- A packet crosses a link; direction 0 leaves the device (R442). -/
def State.chargeLink (s : State) (link dir holder n : Nat) : State := s.charge (7000 + 2 * link + dir) holder n

/-- The request packet of an access to a home sector: it passes the cluster's port and the ring (R442). -/
def State.send (s : State) (r : Req) (sector n : Nat) : State :=
  (match r.port with
   | some k => s.charge (5000 + k) r.holder n
   | none => s).chargeRing r.holder r.sector sector n

/-- What the home sends back (R442). -/
def State.reply (s : State) (r : Req) (sector n : Nat) : State := s.chargeRing r.holder sector r.sector n

/-- The link numbers of the second-tier ports and of the host link, and the sector at which a link enters (R423). -/
def tierLink (k : Nat) : Nat := 16 + k
def hostLink : Nat := 20
def linkSector (link : Nat) : Nat :=
  if link = hostLink ∨ link = 16 ∨ link = 17 ∨ link < 8 then 1 else 4

/-! ## Where a line stands in the slices (R426, R427) -/

/-- The fold of R426. -/
def h3 (pa : Nat) : Nat := (List.range 15).foldl (fun h i => h ^^^ bits pa (3 * i + 10) (3 * i + 8)) 0

/-- The set of R426. -/
def sliceSet (pa : Nat) : Nat := bits pa 20 11 ^^^ bits pa 30 21

/-- The physical slice that serves logical slice `j` of a sector (R427). -/
def State.physSlice (s : State) (sector j : Nat) : Nat :=
  let r := (SMap.getD sector 0 s.pkg.remap).toNat
  17 * sector + (if bit r 31 ∧ bits r 4 0 = j then 16 else j)

/-- Key of the set of a line in the slice of partition `q` that serves it. -/
def State.setKey (s : State) (q pa : Nat) : Nat := s.physSlice (q / 2) (8 * (q % 2) + h3 pa) * 1024 + sliceSet pa

/-- Key of the set of a line at its home (R425, R426). -/
def State.homeKey (s : State) (pa : Nat) : Nat := s.setKey (s.homePart pa) pa

/-- The line that a set holds, as the home's or as a replica. -/
def State.sliceLine? (s : State) (key line : Nat) (replica : Bool) : Option SliceLine :=
  (SMap.getD key [] s.slices).find? fun l => decide (l.line = line) && l.replica == replica

/-- A line that is dirty: some byte of it, its sidecar or its tag is masked (R428). -/
def SliceLine.dirty (l : SliceLine) : Bool := decide (l.wm ≠ 0) || decide (l.sm ≠ 0)

/-! ## The bytes of memory and their poison (R234, R434) -/

/-- Whether the 64-byte sector of an address is poisoned (R234). -/
def State.sectorBad (s : State) (pa : Nat) : Bool := s.bad.contains (pa / 64)

/-- Whether any sector of an extent is poisoned. -/
def State.extentBad (s : State) (pa n : Nat) : Bool :=
  (List.range ((pa + n - 1) / 64 + 1 - pa / 64)).any fun i => s.bad.contains (pa / 64 + i)

def State.setSectorBad (s : State) (sec : Nat) (b : Bool) : State :=
  { s with bad := if b then insNat sec s.bad else s.bad.erase sec }

def State.setSideBad (s : State) (line : Nat) (b : Bool) : State :=
  { s with sideBad := if b then insNat line s.sideBad else s.sideBad.erase line }

/-- Structure codes of R394. -/
def structOf (pa : Nat) : Nat := if (stackOf pa).isSome then 7 else if (tierOf pa).isSome then 8 else 9

/-- The five poison bits of a line: sectors 3-0, and bit 4 the sidecar (R434 SP, SCP). -/
def State.poisonBits (s : State) (line : Nat) : Nat :=
  maskOf ((List.range 4).filter fun i => s.bad.contains (4 * line + i)) + (s.sideBad.contains line).toNat * 16

/-- The bytes at a physical address. -/
def State.readPa (s : State) (pa n : Nat) : List Byte := Memory.read s.mem pa n

/-- Sixteen scale bytes and the format tag of a line (R97, R98, R434). -/
def State.readSide (s : State) (line : Nat) : List Byte := Memory.read s.side (32 * line) 17

/-- A little-endian 64-bit word at a physical address. -/
def State.read64 (s : State) (pa : Nat) : Nat := ofBytes (s.readPa pa 8)

/-- Set the write masks of `n` bytes from offset `off` of a line, keeping what memory holds below them (R428). -/
def SliceLine.maskData (l : SliceLine) (m : Memory) (off n : Nat) : SliceLine :=
  { l with
    err := l.err - (l.err &&& maskOf ((List.range 4).filter fun i => decide (off ≤ 64 * i) && decide (64 * i + 64 ≤ off + n)))
    old := (List.range n).foldl (fun o i =>
      if bit l.wm (off + i) then o else Memory.setByte o (off + i) (Memory.byte m (256 * l.line + off + i))) l.old
    wm := l.wm ||| (2 ^ n - 1) * 2 ^ off }

/-- The same for a byte of the sidecar, or for the tag. -/
def SliceLine.maskSide (l : SliceLine) (m : Memory) (j : Nat) : SliceLine :=
  { l with
    oldSide := if bit l.sm j then l.oldSide else Memory.setByte l.oldSide j (Memory.byte m (32 * l.line + j))
    sm := l.sm ||| 2 ^ j }

/-- Change the home's line in its slice, where the slice holds it. -/
def State.modSlice (s : State) (line : Nat) (f : SliceLine → SliceLine) : State :=
  { s with slices := SMap.modify (s.homeKey (256 * line)) (fun ls => ls.map fun l =>
      if l.line = line ∧ l.replica = false then f l else l) s.slices }

/-- Write bytes at a physical address: into the slices that hold their lines, under masks, and else to memory (R428). -/
def State.lay (s : State) (pa : Nat) (bs : List Byte) : State :=
  let n := bs.length
  let s := if n = 0 then s
    else (List.range ((pa + n - 1) / 256 + 1 - pa / 256)).foldl (fun s i =>
      let line := pa / 256 + i
      let lo := max pa (256 * line)
      let hi := min (pa + n) (256 * line + 256)
      s.modSlice line fun l => l.maskData s.mem (lo - 256 * line) (hi - lo)) s
  { s with mem := Memory.write s.mem pa bs }

/-- The cells of a slice's shadow area that lie in a line (R245). -/
def State.cellsOf (s : State) (line : Nat) : List ShadowCell :=
  (SMap.getD (s.homeKey (256 * line) / 1024) [] s.cells).filter fun c => decide (c.pa / 256 = line)

/-- Remove the shadow cells that a write overlaps (R245). -/
def State.dropCells (s : State) (pa n : Nat) : State :=
  if s.cells.isEmpty then s
  else { s with cells := SMap.mapV (fun _ cs => cs.filter fun c => !(decide (c.pa < pa + n) && decide (pa < c.pa + 64))) s.cells }

/-- Write bytes at a physical address, and the poison of the sectors written: data with P set poisons every sector it
touches; data with P clear clears a sector only when it covers all of it (R234). A shadow cell that the write overlaps is
removed (R245). -/
def State.writePa (s : State) (pa : Nat) (bs : List Byte) (p : Bool) : State :=
  let n := bs.length
  let s := (s.dropCells pa n).lay pa bs
  if n = 0 then s
  else (List.range ((pa + n - 1) / 64 + 1 - pa / 64)).foldl (fun s i =>
    let sec := pa / 64 + i
    if p then s.setSectorBad sec true
    else if pa ≤ 64 * sec ∧ 64 * sec + 64 ≤ pa + n then s.setSectorBad sec false
    else s) s

/-- Write scale bytes (and the tag, as the 17th) of a line from byte `j`. -/
def State.writeSide (s : State) (line j : Nat) (bs : List Byte) : State :=
  let s := (List.range bs.length).foldl (fun s i => s.modSlice line fun l => l.maskSide s.side (j + i)) s
  { s with side := Memory.write s.side (32 * line + j) bs }

/-! ## Lines between memory and the slices (R428, R429, R434, R435) -/

/-- Remove a replica of a line from a slice set (R431). -/
def State.dropReplica (s : State) (key line : Nat) : State :=
  { s with slices := SMap.modify key (fun ls => ls.filter fun l => !(l.replica && decide (l.line = line))) s.slices }

/-- Remove the replicas of a line that the sectors of a sharer vector hold (R431). -/
def State.dropSharers (s : State) (line sharers : Nat) : State :=
  (List.range 6).foldl (fun s x =>
    if bit sharers x then (s.dropReplica (s.setKey (2 * x) (256 * line)) line).dropReplica (s.setKey (2 * x + 1) (256 * line)) line else s) s

/-- Invalidate every replica of a line and clear its sharer vector (R431). -/
def State.dropReplicas (s : State) (pa : Nat) : State :=
  let line := pa / 256
  let sh := ((s.sliceLine? (s.homeKey pa) line false).map SliceLine.sharers).getD 0
  if sh = 0 then s else (s.dropSharers line sh).modSlice line fun l => { l with sharers := 0 }

/-- Add a number to a 64-bit counter of a partition's counter page, saturating (R394); every replica of the counter's line is gone
first (R431). -/
def State.bump (s : State) (p off n : Nat) : State :=
  let pa := stackBase p + (s.part p).ctrPage + off
  (s.dropReplicas pa).lay pa (toBytes 8 (min (s.read64 pa + n) (2 ^ 64 - 1)))

/-- Bits 7:5 of a line's tag byte: NB and CMP (R434). -/
def State.tag (s : State) (line : Nat) : Nat := SMap.getD line 1 s.tags

/-- A line comes from a stack, or an expander, to a slice: its bursts or beats are paid for, and the bursts that its encoding
saves are counted (R435, R442). -/
def State.bringIn (s : State) (holder pa : Nat) : State :=
  match stackOf pa with
  | some q =>
    let t := s.tag (pa / 256)
    if t % 2 = 1 then (s.charge (4000 + q) holder (t / 2 + 1)).bump q 0x108 (3 - t / 2)
    else s.charge (4000 + q) holder 4
  | none =>
    match tierOf pa with
    | some k =>
      let s := s.chargeRing holder (s.homePart pa / 2) (linkSector (tierLink k)) 1
      ((s.chargeLink (tierLink k) 0 holder 1).chargeLink (tierLink k) 1 holder 4).chargeRing holder
        (linkSector (tierLink k)) (s.homePart pa / 2) 4
    | none => s

/-- A line is written back to its stack or expander, which nothing waits for (R429, R435, R442). -/
def State.writeOut (s : State) (holder pa : Nat) : State :=
  match stackOf pa with
  | some q =>
    let t := s.tag (pa / 256)
    if t % 2 = 1 then (s.chargeLater (4000 + q) holder (t / 2 + 1)).bump q 0x108 (3 - t / 2)
    else s.chargeLater (4000 + q) holder 4
  | none =>
    match tierOf pa with
    | some k => (s.chargeRingLater holder (s.homePart pa / 2) (linkSector (tierLink k)) 4).chargeLater (7000 + 2 * tierLink k) holder 4
    | none => s

/-- The controller reads a line to merge a write that falls short of it (R435). -/
def State.mergeIn (s : State) (holder pa : Nat) : State :=
  match stackOf pa with
  | some q =>
    let t := s.tag (pa / 256)
    if t % 2 = 1 then (s.chargeLater (4000 + q) holder (t / 2 + 1)).bump q 0x108 (3 - t / 2)
    else s.chargeLater (4000 + q) holder 4
  | none => s

/-- The encoding of a line as the controller writes it: an all-zero line is the zero line, a poisoned one is stored raw, any other is
the controller's choice (R435). -/
def State.encodeStored (s : State) (line : Nat) : State :=
  if (stackOf (256 * line)).isNone then s
  else
    let put := fun (s : State) (t : Nat) => { s with tags := if t = 1 then SMap.erase line s.tags else SMap.put line t s.tags }
    if s.poisonBits line ≠ 0 then put s 6
    else if (s.readPa (256 * line) 256).all (· = 0) && (s.readSide line).all (· = 0) then put s 1
    else
      let e := Config.encoding s.fresh % 5
      put { s with fresh := s.fresh + 1 } (if e < 4 then 2 * e + 1 else 6)

/-- Poison that a clean line of a slice has and memory has not leaves with it (R457): the sectors without a masked byte read as
memory holds them. -/
def State.settlePoison (s : State) (l : SliceLine) : State :=
  let s := (List.range 4).foldl (fun s i =>
    if bits l.wm (64 * i + 63) (64 * i) = 0 then s.setSectorBad (4 * l.line + i) (bit l.oldBad i) else s) s
  if l.sm = 0 then s.setSideBad l.line (bit l.oldBad 4) else s

/-- A line leaves its set (R428, R431, R435): a dirty one is written back whole, merged with what memory holds where its masks fall
short; and since its sharer vector goes with it, the replicas that the vector names are invalidated. -/
def State.leave (s : State) (q : Nat) (l : SliceLine) : State :=
  if l.replica then s
  else
    let holder := l.owner.getD (96 + q)
    let s := (s.dropSharers l.line l.sharers).settlePoison l
    if !l.dirty then s
    else
      let s := if l.full ∨ (l.wm = 2 ^ 256 - 1 ∧ l.sm = 2 ^ 17 - 1) then s else s.mergeIn holder (256 * l.line)
      (s.encodeStored l.line).writeOut holder (256 * l.line)

/-- The way quota of an owner in the slices of partition `q`; firmware has 0, and so has a virtual device of another partition
(R428, R429). -/
def State.quota (s : State) (q : Nat) (o : Option Nat) : Nat :=
  match o with
  | some v => if partOfVnum v = q then s.rate v 1 % 2048 else 0
  | none => 0

/-- NOBRW of an owner for the ways (R448). -/
def State.noBrw (s : State) (o : Option Nat) : Bool :=
  match o with
  | some v => bit (s.rate v 1) 16
  | none => false

/-- Lines of a set that an owner holds. -/
def heldLines (o : Option Nat) (ls : List SliceLine) : Nat := (ls.filter fun l => decide (l.owner = o)).length

/-- The least recently used line that satisfies a test; a set stands most recently used first. -/
def oldest (p : SliceLine → Bool) (ls : List SliceLine) : Option SliceLine := ls.reverse.find? p

/-- What a fill finds in its set: room, a victim, or nothing that may leave (R429, R448). -/
inductive SetRoom where
  | free
  | victim (l : SliceLine)
  | none

/-- The room for a fill by an owner in a set of partition `q`'s slices (R429, R448). -/
def State.roomFor (s : State) (q : Nat) (o : Option Nat) (ls : List SliceLine) : SetRoom :=
  let g := s.quota q o
  let borrowed := fun l : SliceLine => decide (s.quota q l.owner < heldLines l.owner ls)
  let of := fun x : Option SliceLine => match x with
    | some l => SetRoom.victim l
    | none => SetRoom.none
  if s.noBrw o && decide (g = 0) then .none
  else if s.noBrw o && decide (g ≤ heldLines o ls) then of (oldest (fun l => decide (l.owner = o)) ls)
  else if ls.length < 16 then .free
  else if heldLines o ls < g then
    of ((oldest (fun l => borrowed l && !l.dirty) ls) <|> oldest borrowed ls)
  else of (oldest (fun l => decide (l.owner = o) || borrowed l) ls)

/-- Bring a line to the front of a set of partition `q`'s slices, allocating it where it is absent and a way may be had. -/
def State.touchSet (s : State) (q key : Nat) (o : Option Nat) (line : Nat) (replica : Bool) : State :=
  let ls := SMap.getD key [] s.slices
  let new : SliceLine := ⟨line, o, replica, 0, false, 0, 0, [], [], if replica then 0 else s.poisonBits line, 0⟩
  match s.sliceLine? key line replica with
  | some l => { s with slices := SMap.put key (l :: ls.erase l) s.slices }
  | none =>
    match s.roomFor q o ls with
    | .none => s
    | .free => { s with slices := SMap.put key (new :: ls) s.slices }
    | .victim v => ({ s with slices := SMap.put key (new :: ls.erase v) s.slices } : State).leave q v

/-- A packet on a link has been lost (R392): whether the access in progress meets it, and the state that has. -/
def State.takeLost (s : State) (link : Nat) : State × Bool :=
  if s.lost.contains link then ({ s with lost := s.lost.erase link }, true) else (s, false)

/-- A line holds `n` bytes from offset `off`, and its sidecar where a read needs it: they are valid or masked (R428). -/
def SliceLine.has (l : SliceLine) (off n : Nat) (side : Bool) : Bool :=
  l.full || (decide (bits l.wm (off + n - 1) off = 2 ^ n - 1) && (!side || decide (l.sm = 2 ^ 17 - 1)))

/-- A transaction of the second tier has failed: the sectors of the line that were to come are poisoned; those that the slice holds
masked did not (R428, R457). -/
def State.failFetch (s : State) (key line : Nat) : State :=
  let wm := ((s.sliceLine? key line false).map SliceLine.wm).getD 0
  (List.range 4).foldl (fun s i => if bits wm (64 * i + 63) (64 * i) = 2 ^ 64 - 1 then s else s.setSectorBad (4 * line + i) true) s

/-- Bring in what a read of `n` bytes, and of the sidecar, needs of the home's line: one that lacks some of it is fetched; a transaction
of the second tier that has failed leaves it poisoned (R428, R457). -/
def State.fetchLine (s : State) (r : Req) (q pa n : Nat) (side : Bool) : State :=
  let line := pa / 256
  let key := s.setKey q pa
  let s := s.touchSet q key r.owner line false
  if (s.sliceLine? key line false).any fun l => l.has (pa % 256) n side then s
  else
    let s := s.bringIn r.holder pa
    let s := match tierOf pa with
      | none => s
      | some k =>
        match s.takeLost (tierLink k) with
        | (s, false) => s
        | (s, true) => s.failFetch key line
    s.modSlice line fun l => { l with full := true }

/-- Write the shadow cells of a line back into it before another access (R245). -/
def State.flushCells (s : State) (line : Nat) : State :=
  if s.cells.isEmpty then s
  else (s.cellsOf line).foldl (fun s c => s.lay c.pa (c.image ++ List.replicate 16 0)) s

/-! ## Accesses at the home (R317, R425, R430, R431, R454) -/

/-- A read of `n` bytes of a line, with its sidecar where `side` says so, reaches its home, or a replica of it in the reader's sector
(R430); `direct` goes to the home itself. A line of the host is in no slice (R454). Where the home has no way for the line there is no
sharer vector, so that no replica is made. -/
def State.reachRead (s : State) (r : Req) (pa n : Nat) (direct side : Bool) : State :=
  let line := pa / 256
  let s := s.flushCells line
  if isHost pa then
    (((s.send r (linkSector hostLink) 1).chargeLink hostLink 0 r.holder 1).chargeLink hostLink 1 r.holder (beats n)).reply r
      (linkSector hostLink) (beats n)
  else
    let q := s.homePart pa
    let home := fun (s : State) => ((s.send r (q / 2) 1).fetchLine r q pa n side).reply r (q / 2) (beats n)
    if direct || r.port.isNone || decide (r.sector = q / 2) then home s
    else
      let rk := s.setKey r.part pa
      if (s.sliceLine? rk line true).isSome then (s.send r r.sector 1).touchSet r.part rk r.owner line true
      else
        let s := home s
        if (s.sliceLine? (s.setKey q pa) line false).isNone then s
        else (s.modSlice line fun l => { l with sharers := l.sharers ||| 2 ^ r.sector }).touchSet r.part rk r.owner line true

/-- A write of `n` bytes of a line reaches its home, where every replica of the line is invalidated first (R431). -/
def State.reachWrite (s : State) (r : Req) (pa n : Nat) : State :=
  let line := pa / 256
  let s := s.flushCells line
  if isHost pa then
    (s.send r (linkSector hostLink) (beats n)).chargeLink hostLink 0 r.holder (beats n)
  else
    let q := s.homePart pa
    let s := s.send r (q / 2) (beats n)
    (s.dropReplicas pa).touchSet q (s.setKey q pa) r.owner line false

/-- A write of `n` bytes has been performed at its home: where no way was to be had the controller writes it to memory itself, merged
and encoded anew (R435, R448). -/
def State.writeThrough (s : State) (r : Req) (pa n : Nat) : State :=
  let line := pa / 256
  if isHost pa || (s.sliceLine? (s.setKey (s.homePart pa) pa) line false).isSome then s
  else
    let s := if n = 256 then s else s.mergeIn r.holder pa
    (s.encodeStored line).writeOut r.holder pa

/-- The link to the host has lost a store, which is dropped and counted (R392, R454). -/
def State.dropStore (s : State) (r : Req) (pa : Nat) : State := { s with found := s.found ++ [(r.part, 9, pa)] }

/-- Read `n` bytes of one line at its home: the bytes, and whether a unit of them is poisoned; an access whose packet the host link
has lost gets poison (R234, R454). -/
def State.homeRead (s : State) (r : Req) (pa n : Nat) (direct : Bool) : State × List Byte × Bool :=
  let s := s.reachRead r pa n direct false
  let l := if isHost pa then s.takeLost hostLink else (s, false)
  (l.1, l.1.readPa pa n, l.1.extentBad pa n || l.2)

/-- Write bytes of one line at its home; a store whose packet the host link has lost is dropped (R454). -/
def State.homeWrite (s : State) (r : Req) (pa : Nat) (bs : List Byte) (p : Bool) : State :=
  let s := s.reachWrite r pa bs.length
  let l := if isHost pa then s.takeLost hostLink else (s, false)
  if l.2 then l.1.dropStore r pa else (l.1.writePa pa bs p).writeThrough r pa bs.length

/-- A read and write of `n` bytes of one line in one access at its home: what the line needs is brought in, and the old bytes go back;
whether the host link has lost the packet (R234, R317, R454). The write itself is State.putAtomic. -/
def State.homeAtomic (s : State) (r : Req) (pa n : Nat) : State × Bool :=
  let s := s.reachWrite r pa n
  if isHost pa then ((s.chargeLink hostLink 1 r.holder (beats n)).reply r (linkSector hostLink) (beats n)).takeLost hostLink
  else ((s.fetchLine r (s.homePart pa) pa n false).reply r (s.homePart pa / 2) (beats n), false)

/-- What an atomic writes at its home; the write of one whose packet the host link has lost is dropped (R234, R317, R435, R454). -/
def State.putAtomic (s : State) (r : Req) (lost : Bool) (pa : Nat) (bs : List Byte) (p : Bool) : State :=
  if lost then s.dropStore r pa else (s.writePa pa bs p).writeThrough r pa bs.length

/-- The structure in which a poisoned sector of memory is found (R394): the slice that holds it, where the error is the slice's own;
else HBM, the second tier, the host link. -/
def State.structAt (s : State) (pa : Nat) : Nat :=
  if (s.sliceLine? (s.homeKey pa) (pa / 256) false).any fun l => bit l.err (pa / 64 % 4) then 6 else structOf pa

/-- An access for which no agent of the part stands has met poison at its home: it is counted under its structure (R392, R394). -/
def State.foundBad (s : State) (p pa : Nat) (bad : Bool) : State :=
  if bad then { s with found := s.found ++ [(p, s.structAt pa, pa)] } else s

/-- An uncorrectable error strikes a 64-byte sector of the slice that holds it, or of memory: it is poisoned, in memory too (R234,
R392). -/
def State.strikeSector (s : State) (pa : Nat) : State :=
  ((s.setSectorBad (pa / 64) true).modSlice (pa / 256) fun l =>
    { l with oldBad := l.oldBad ||| 2 ^ (pa / 64 % 4), err := l.err ||| 2 ^ (pa / 64 % 4) }).encodeStored (pa / 256)

/-- The same for the sidecar of a line. -/
def State.strikeSide (s : State) (line : Nat) : State :=
  ((s.setSideBad line true).modSlice line fun l => { l with oldBad := l.oldBad ||| 16, err := l.err ||| 16 }).encodeStored line

/-- A whole line as its home holds it. -/
def State.lineNow (s : State) (line : Nat) : PathLine :=
  ⟨line, s.readPa line 256, s.readSide (line / 256),
    maskOf ((List.range 4).filter fun i => s.sectorBad (line + 64 * i)), s.sideBad.contains (line / 256)⟩

/-- Read a whole line, with its sidecar and tag, at its home. -/
def State.homeLine (s : State) (r : Req) (pa : Nat) (direct : Bool) : State × PathLine :=
  let line := pa / 256 * 256
  let s := s.reachRead r line 256 direct true
  let l := if isHost pa then s.takeLost hostLink else (s, false)
  let x := l.1.lineNow line
  (l.1, if l.2 then { x with bad := 15 } else x)

/-- A line as an engine writes it: its bytes, the scale bytes and the tag that it writes, the poison of its sectors, and the mark
that it leaves on the sidecar, where it leaves one. -/
structure LineOut where
  bytes  : List Byte
  scales : List (Nat × Byte)
  bad    : Nat
  scBad  : Option Bool

/-- Write a whole line at its home. -/
def State.putHomeLine (s : State) (r : Req) (pa : Nat) (o : LineOut) : State :=
  let line := pa / 256 * 256
  let s := s.reachWrite r line 256
  let l := if isHost pa then s.takeLost hostLink else (s, false)
  if l.2 then l.1.dropStore r line
  else
    let s := (List.range 4).foldl (fun s i => s.writePa (line + 64 * i) ((o.bytes.drop (64 * i)).take 64) (bit o.bad i)) l.1
    let s := o.scales.foldl (fun s jb => s.writeSide (line / 256) jb.1 [jb.2]) s
    (match o.scBad with
     | some b => s.setSideBad (line / 256) b
     | none => s).writeThrough r line 256

/-! ## Shadow cells (R245) -/

/-- Cells that a slice's shadow area holds. -/
def shadowSize : Nat := 2048

/-- The image of a cell as memory holds it, its reserved bytes zero. -/
def cellBytes (image : List Byte) : List Byte := image ++ List.replicate 16 0

/-- Set the entry of a cell at the front of its slice's shadow area; when the area is full the least recently used entry is written
back as its image, with the reserved bytes zero. -/
def State.keepCell (s : State) (pa : Nat) (image : List Byte) : State :=
  let key := s.homeKey pa / 1024
  let cs := ⟨pa, image⟩ :: (SMap.getD key [] s.cells).filter fun c => decide (c.pa ≠ pa)
  let s := { s with cells := SMap.put key (cs.take shadowSize) s.cells }
  (cs.drop shadowSize).foldl (fun s c =>
    (s.touchSet (s.homePart c.pa) (s.homeKey c.pa) none (c.pa / 256) false).lay c.pa (cellBytes c.image)) s

/-- An `ATOMX` leaves an image in its cell: in the shadow area of its slice (R245), or, in memory of the host, which the device keeps
nowhere, in the host's memory (R454). -/
def State.putCell (s : State) (r : Req) (pa : Nat) (image : List Byte) : State :=
  if isHost pa then (s.reachWrite r pa 64).lay pa (cellBytes image) else s.keepCell pa image

/-- The image of a cell for an `ATOMX` at its home: the shadow's, or brought in from memory. -/
def State.getCell (s : State) (r : Req) (pa : Nat) : State × List Byte :=
  match (SMap.getD (s.homeKey pa / 1024) [] s.cells).find? fun c => decide (c.pa = pa) with
  | some c => ((s.send r (s.homePart pa / 2) 1).reply r (s.homePart pa / 2) 1, c.image)
  | none =>
    let s := s.reachRead r pa 64 true false
    (s, s.readPa pa 48)

/-- An access to a cell that may change it: the cell's image, and no replica of its line stays (R245, R431). -/
def State.takeCell (s : State) (r : Req) (pa : Nat) : State × List Byte :=
  let s := s.dropReplicas pa
  s.getCell r pa

end Sys2Proof.Machine
end

