-- ==== Sys2Proof/Machine/Ops.lean ====
section
/-! DEFINITION. The named operations over the state: taking an exception (fault records, parking, halting), translation, storage
errors, the L1 and the path caches, scratch, and the arithmetic log. -/

namespace Sys2Proof.Machine

/-! ## Exceptions: agents, fault records, halting and parking (R366-R374, R378-R384) -/

/-- Who met a fault (R370). -/
structure Agent where
  kind : Nat
  asid : Nat
  grid : Nat
  wg   : Nat
  core : Nat
  slot : Nat
  gidx : Nat
  eng  : Nat
  hnd  : Nat
  pc   : Nat
  widx : Nat
  run  : Nat

/-- An agent that is none of the others (R370). -/
def Agent.none : Agent := ⟨7, 0x7F, 0, 0, 0x1FF, 0, 0, 0, 0, 0, 0, 0⟩

/-- The eight words of a fault record (R370). -/
def recordWords (ag : Agent) (f : FaultInfo) (seq pcm : Nat) (rpl rpt : Bool) (rcnt : Nat) (last : Bool) : List Nat :=
  [ f.cause * 2 ^ 56 + rpl.toNat * 2 ^ 55 + rpt.toNat * 2 ^ 54 + rcnt % 8 * 2 ^ 51 + last.toNat * 2 ^ 50 + seq % 2 ^ 48,
    ag.kind * 2 ^ 61 + f.va % 2 ^ 57,
    ag.asid * 2 ^ 56 + f.gen * 2 ^ 48 + f.lvl * 2 ^ 44 + f.acc * 2 ^ 40 + f.ppn % 2 ^ 40,
    pcm * 2 ^ 32 + ag.grid,
    ag.wg * 2 ^ 32 + ag.core * 2 ^ 23 + ag.slot * 2 ^ 17 + ag.gidx * 2 ^ 11 + ag.eng * 2 ^ 8 + ag.hnd % 256,
    ag.pc % 2 ^ 57,
    ag.widx * 2 ^ 59 + ag.run % 2 ^ 57,
    f.detail % 2 ^ 64 ]

/-- The bytes of a list of 64-bit words. -/
def wordBytes (ws : List Nat) : List Byte := (ws.map (toBytes 8)).flatten

/-- Records that a fault record queue holds, and the places kept for records that do not wait (R369). -/
def queueSize : Nat := 4096
def queueReserve : Nat := 64

/-- Put a record at the producer's place of a partition's fault record queue (R369). -/
def State.putRecord (s : State) (p : Nat) (ws : List Nat) : State :=
  let P := s.part p
  let s := s.homeWrite (Req.firmware p) (stackBase p + P.fqBase + 64 * (P.fqProd % queueSize)) (wordBytes ws) false
  s.modPart p fun P => { P with fqProd := P.fqProd + 1 }

/-- Write one record and take the next SEQ (R369): a record that finds no room at all waits for it, in order; none is dropped. -/
def State.writeRecord (s : State) (p : Nat) (ws : List Nat) : State :=
  let P := s.part p
  let s := if P.backlog.isEmpty ∧ P.fqProd < P.fqCons + queueSize then s.putRecord p ws
    else s.modPart p fun P => { P with backlog := P.backlog ++ [ws] }
  s.modPart p fun P => { P with seq := P.seq + 1 }

/-- Records that have waited for room are written while there is room (R369); structural on how many wait. -/
def State.drainBacklog (s : State) (p : Nat) : Nat → State
  | 0 => s
  | n + 1 =>
    match (s.part p).backlog with
    | [] => s
    | ws :: t =>
      if (s.part p).fqProd < (s.part p).fqCons + queueSize then
        (((s.putRecord p ws).modPart p fun P => { P with backlog := t })).drainBacklog p n
      else s

/-- The engines of a partition that must write a stop record: every engine but Runners, and the Runners that hold a
chain of the partition (R383). -/
def State.stoppers (s : State) (p : Nat) : List Nat :=
  (List.range 90).filter fun i =>
    if 81 ≤ i ∧ i ≤ 88 then
      (s.engine (324 + (i - 81))).chains.any fun c => decide (c.owner.part = p)
    else true

/-- Raise a non-replayable halting fault (R378, R379): its record is written; the first one raises the halt line. -/
def State.halt (s : State) (p : Nat) (ag : Agent) (f : FaultInfo) (pcm : Nat) : State :=
  let seq := (s.part p).seq
  let first := !s.stopped p
  let s := s.writeRecord p (recordWords ag f seq pcm false false 0 true)
  if first then
    (s.modPart p fun P => { P with halting := true, hseq := seq, hclk := s.now, toStop := s.stoppers p }).emit .msix
  else s

/-- A fault found without an address translation (R370: LVL 0). -/
def plainFault (cause va acc detail : Nat) : FaultInfo := ⟨cause, va, 0, 0, acc, 0, detail⟩

/-- Whether a fault halts (R371). -/
def FaultInfo.halts (f : FaultInfo) : Bool := decide (0x10 ≤ f.cause) && decide (f.cause ≤ 0x1A)

/-- A new park on a list of faults with their lanes, keeping the records of an earlier park of the same word (R373). -/
def Park.mk' (lanes : Nat) (fs : List (FaultInfo × Nat)) (old : Option Park) : Park :=
  ⟨lanes, fs, false, (old.map Park.recs).getD [], false⟩

/-- Queue a parked agent's group of records (R369). -/
def State.queueGroup (s : State) (p : Nat) (a : Parked) : State :=
  s.modPart p fun P => { P with groups := P.groups ++ [a] }

/-! ## Translation (R346-R358) -/

/-- What an access needs of a leaf (R353). -/
inductive Acc where
  | read | write | rmw | fetch
  deriving DecidableEq, Repr

def Acc.code : Acc → Nat
  | .read => 0
  | .write => 1
  | .rmw => 2
  | .fetch => 3

/-- A translated access: physical address, write right, semaphore attribute. -/
structure Xlat where
  pa  : Nat
  w   : Bool
  sem : Bool

def devLo : Nat := 0x01FFFFF000000000
def devHi : Nat := 0x01FFFFFFFFFFFFFF

/-- The scratch window (R228). -/
def inWindow (va : Nat) : Bool := decide (devLo ≤ va) && decide (va < devLo + 0x100000)

/-- The checks made from the address before any walk (R353): bits 63:57, the device region, the scratch window. -/
def addrFault (va acc : Nat) : Option FaultInfo :=
  if 2 ^ 57 ≤ va then some (plainFault 0x10 (va % 2 ^ 57) acc 6)
  else if inWindow va then some (plainFault 0x10 va acc 5)
  else if devLo ≤ va ∧ va ≤ devHi then some (plainFault 0x10 va acc 3)
  else none

/-- Bytes of a page that a leaf at a level maps (R350). -/
def pageSize (lvl : Nat) : Nat := if lvl = 3 then 2 ^ 30 else if lvl = 2 then 2 ^ 21 else 4096

/-- The page address of an entry: bits 51:12 in place (R351). -/
def entryPa (e : Nat) : Nat := bits e 51 12 * 4096

/-- A second-tier page (R351, R352). -/
def tierPage (pa : Nat) : Bool := (tierOf pa).isSome

/-- Whether a valid entry is bad at a level (R348, R352). -/
def badEntry (e lvl : Nat) : Bool :=
  let leaf := bit e 7
  decide (bits e 63 63 ≠ 0) || decide (bits e 59 52 ≠ 0) || decide (bits e 11 9 ≠ 0) || decide (bits e 4 1 ≠ 0)
  || (leaf && decide (4 ≤ lvl)) || (!leaf && decide (lvl = 1))
  || (!leaf && (bit e 62 || bit e 61 || bit e 60 || bit e 8 || bit e 6 || bit e 5))
  || (bit e 60 && decide (lvl ≠ 1) && leaf)
  || (leaf && bit e 61 && !tierPage (entryPa e))
  || (leaf && decide (entryPa e % pageSize lvl ≠ 0))
  || (leaf && !mapped (entryPa e))

/-- The size code of a tier-miss (R371). -/
def tierCode (e lvl : Nat) : Nat := if lvl = 3 then 3 else if lvl = 2 then 2 else if bit e 60 then 1 else 0

/-- Check an access against a valid leaf in the order of R353. -/
def State.checkLeaf (s : State) (p gen va lvl e : Nat) (acc : Acc) (sem : Bool) : Except FaultInfo Xlat :=
  let f := fun c d => (⟨c, va, gen, lvl, acc.code, bits e 51 12, d⟩ : FaultInfo)
  let page := entryPa e
  if bit e 61 then .error (f 0x02 (tierCode e lvl))
  else if !s.inRange p page (pageSize lvl) then .error (f 0x10 2)
  else
    let ro := s.readOnlyPage p page (pageSize lvl)
    let need := match acc with
      | .read => bit e 5
      | .write => bit e 6 && !ro
      | .rmw => bit e 5 && bit e 6 && !ro
      | .fetch => bit e 8
    if !need then .error (f 0x10 1)
    else if sem && !bit e 62 then .error (f 0x10 4)
    else .ok ⟨page + va % pageSize lvl, bit e 6 && !ro, bit e 62⟩

/-- What a walk ends with: an entry that is a valid leaf, or a fault. -/
inductive Walk where
  | leaf (lvl e : Nat)
  | fault (f : FaultInfo)

/-- The 64-bit words of a table from an address in one line, as the walker reads them at their home (R356, R449); what it meets there is
counted (R392). -/
def State.tableRead (s : State) (p addr n : Nat) : State × List Nat :=
  let r := s.homeRead (Req.firmware p) addr (8 * n) false
  (r.1.foundBad p addr r.2.2,
    (List.range n).map fun i => ofBytes ((r.2.1.drop (8 * i)).take 8))

/-- The entry of a table at an address that a walker uses: the walk cache's, or, where that one no longer stands in memory, a
free choice of the two, because the cache may have replaced it (R355). -/
def State.tableEntry (s : State) (k asid addr : Nat) : State × Nat × Bool :=
  let r := s.tableRead (partOfVnum asid) addr 1
  let now := r.2.headD 0
  match (s.cluster k).walk.find? fun w => decide (w.1 = asid) && decide (w.2.1 = addr) with
  | none => (r.1, now, false)
  | some w =>
    if w.2.2 = now then (s, now, true)
    else
      let drop := fun (t : State) => t.modCluster k fun K => { K with walk := K.walk.filter fun w => !(decide (w.1 = asid) && decide (w.2.1 = addr)) }
      if Config.replaced s.fresh then (drop { r.1 with fresh := r.1.fresh + 1 }, now, false)
      else ({ s with fresh := s.fresh + 1 }, w.2.2, true)

/-- Sixteen level-1 entries form a 64 KB page (R354): C64 in all, the same attributes, pages in a row from an aligned base. -/
def wholeGroup (es : List Nat) : Bool :=
  es.zipIdx.all fun ek => bit ek.1 60 && decide (bits ek.1 63 52 = bits (es.getD 0 0) 63 52) && decide (bits ek.1 11 0 = bits (es.getD 0 0) 11 0)
    && decide (bits ek.1 51 12 = bits (es.getD 0 0) 51 12 / 16 * 16 + ek.2)

/-- The entry that translates an access at level 1 (R354): its own, but in a group that C64 marks and that does not form a page,
any one of the sixteen, taken as a page of its own or as the group's. -/
def State.leafEntry (s : State) (p addr e : Nat) : State × Nat :=
  if !bit e 60 then (s, e)
  else
    let r := s.tableRead p (addr / 128 * 128) 16
    let s := r.1
    let es := r.2
    if wholeGroup es then (s, e)
    else
      let own := addr % 128 / 8
      let n := Config.groupEntry s.fresh % 32
      let f := es.getD ((own + n) % 16) e
      ({ s with fresh := s.fresh + 1 }, if n < 16 then f else f - bits f 15 12 * 4096 + own * 4096)

/-- A walker of a partition reads tables inside the partition's own HBM stack; an entry that points elsewhere is bad (R349). -/
def tableIn (p table : Nat) : Bool := decide (stackBase p ≤ table) && decide (table + 4096 ≤ stackBase p + stackSize)

/-- Walk the tables from a table address at a level (R350, R352, R354 to R356); structural on the levels left. -/
def State.walk (s : State) (k p asid gen va acc : Nat) : Nat → Nat → State × Walk
  | 0, _ => (s, .fault ⟨0x01, va, gen, 0, acc, 0, 0⟩)
  | n + 1, table =>
    let lvl := n + 1
    if !tableIn p table then (s, .fault ⟨0x11, va, gen, lvl, acc, table / 4096, table⟩)
    else
      let addr := table + 8 * bits va (12 + 9 * lvl - 1) (12 + 9 * n)
      let (s, e, hit) := s.tableEntry k asid addr
      let (s, e) := if n = 0 then s.leafEntry p addr e else (s, e)
      if !bit e 0 then (s, .fault ⟨0x01, va, gen, lvl, acc, 0, 0⟩)
      else if badEntry e lvl then (s, .fault ⟨0x11, va, gen, lvl, acc, bits e 51 12, e⟩)
      else if bit e 7 then (s, .leaf lvl e)
      else if !tableIn p (entryPa e) then (s, .fault ⟨0x11, va, gen, lvl, acc, bits e 51 12, e⟩)
      else
        let s := if hit then s
          else s.modCluster k fun K => { K with walk := ((asid, addr, e) :: K.walk).take 256 }
        s.walk k p asid gen va acc n (entryPa e)

/-- The context word that a walk uses: after a write and before the next PTSYNC, the new one or one it replaced (R347). -/
def State.contextWord (s : State) (asid : Nat) : State × Bool × Nat :=
  let c := s.ctx asid
  if c.prior.isEmpty then (s, c.en, c.root)
  else
    let w := ((c.en, c.root) :: c.prior).getD (Config.contextWord s.fresh % (c.prior.length + 1)) (c.en, c.root)
    ({ s with fresh := s.fresh + 1 }, w.1, w.2)

/-- A walk from the context of an address space (R347, R350). -/
def State.walkFrom (s : State) (k asid va acc : Nat) : State × Walk :=
  let gen := (s.ctx asid).gen
  let (s, en, root) := s.contextWord asid
  if !en then (s, .fault ⟨0x01, va, gen, 5, acc, 0, 0⟩)
  else s.walk k (partOfVnum asid) asid gen va acc 5 root

/-- An entry of the TLB, and what it says, for an address: the page's own, or that of another page of its 64 KB group, which the
TLB may hold as one entry (R354). -/
def Cluster.tlbFind (K : Cluster) (asid gen va : Nat) : Option (TlbEntry × TlbEntry) :=
  match K.tlb.find? fun t => decide (t.asid = asid) && decide (t.gen = gen) && decide (t.va / pageSize t.lvl = va / pageSize t.lvl) with
  | some t => some (t, t)
  | none =>
    (K.tlb.find? fun t => decide (t.asid = asid) && decide (t.gen = gen) && decide (t.lvl = 1) && bit t.entry 60
      && decide (t.va / 65536 = va / 65536)).map fun t =>
        (t, { t with va := va, entry := t.entry - bits t.entry 15 12 * 4096 + bits va 15 12 * 4096 })

/-- The TLB's entry for an address, if it holds one and has not replaced it: where a walk would now find something else, that
is a free choice (R356). Beside it: whether a 64 KB group is held as one entry (R354). -/
def State.tlbHit (s : State) (k asid va acc : Nat) : State × Option (TlbEntry × Bool) :=
  match (s.cluster k).tlbFind asid (s.ctx asid).gen va with
  | none => (s, none)
  | some (held, t) =>
    let agrees := match (s.walkFrom k asid va acc).2 with
      | .leaf lvl e => decide (lvl = t.lvl) && decide (e = t.entry)
      | .fault _ => false
    let t' := (t, decide (held ≠ t))
    if agrees then (s, some t')
    else
      let u := { s with fresh := s.fresh + 1 }
      if Config.replaced s.fresh then (u.modCluster k fun K => { K with tlb := K.tlb.erase held }, none) else (u, some t')

/-- The leaf that an access in progress was translated through before it was changed (R365). -/
def State.heldLeaf? (s : State) (asid va : Nat) : Option TlbEntry :=
  s.held.find? fun t => decide (t.asid = asid) && decide (t.va / pageSize t.lvl = va / pageSize t.lvl)

/-- The generation under which an access goes on: that of its translation (R230, R361, R365). -/
def State.genOf (s : State) (asid va : Nat) : Nat := ((s.heldLeaf? asid va).map TlbEntry.gen).getD (s.ctx asid).gen

/-- The leaf that translates an address now, where there is one (R354 to R356). -/
def State.leafNow (s : State) (k asid va : Nat) : Option TlbEntry :=
  match s.tlbHit k asid va 0 with
  | (_, some (t, _)) => some { t with va := va }
  | (s, none) =>
    match (s.walkFrom k asid va 0).2 with
    | .leaf lvl e => if bit e 61 then none else some ⟨asid, (s.ctx asid).gen, va, lvl, e⟩
    | .fault _ => none

/-- Translate an access of an address space at a cluster's TLB (R353, R355, R356); the record of a fault of a group held as one
entry names its first page (R370). -/
def State.translate (s : State) (k asid : Nat) (acc : Acc) (sem : Bool) (va : Nat) : State × Except FaultInfo Xlat :=
  match addrFault va acc.code with
  | some f => (s, .error f)
  | none =>
    let p := partOfVnum asid
    let gen := (s.ctx asid).gen
    match s.heldLeaf? asid va with
    | some t => (s, s.checkLeaf p t.gen va t.lvl t.entry acc sem)
    | none =>
    match s.tlbHit k asid va acc.code with
    | (s, some (t, group)) =>
      (s, match s.checkLeaf p gen va t.lvl t.entry acc sem with
        | .ok x => .ok x
        | .error f => .error (if group then { f with ppn := f.ppn / 16 * 16 } else f))
    | (s, none) =>
      match s.walkFrom k asid va acc.code with
      | (s, .fault f) => (s, .error f)
      | (s, .leaf lvl e) =>
        let s := if bit e 61 then s
          else s.modCluster k fun K => { K with tlb := (⟨asid, gen, va, lvl, e⟩ :: K.tlb).take 4096 }
        (s, s.checkLeaf p gen va lvl e acc sem)

/-! ## Storage errors (R392-R394) -/

/-- Add to a 64-bit counter of the counter page, saturating (R394), at its home (R428, R431). -/
def State.countMany (s : State) (p off n : Nat) : State :=
  (s.reachWrite (Req.firmware p) (stackBase p + (s.part p).ctrPage + off) 8).bump p off n

/-- One more event is counted. -/
def State.count (s : State) (p off : Nat) : State := s.countMany p off 1

/-- A corrected error of a structure is counted; it changes no result (R392, R394). -/
def State.corrected (s : State) (p struct : Nat) : State := s.count p (16 * struct)

/-- An uncorrectable error found in memory by an agent: counted, and halting in strict mode (R392). -/
def State.uncorrectable (s : State) (p struct pa : Nat) (ag : Agent) : State :=
  let s := s.count p (0x008 + 16 * struct)
  if (s.part p).strict then s.halt p ag (plainFault 0x19 0 0 pa) 0 else s

/-- The same for a structure without physical addresses: DETAIL has bit 63 set, the structure code and the register or slot index
(R392). -/
def State.uncorrectableIn (s : State) (p struct index : Nat) (ag : Agent) (pcm : Nat) : State :=
  let s := s.count p (0x008 + 16 * struct)
  if (s.part p).strict then s.halt p ag (plainFault 0x19 0 0 (2 ^ 63 + struct * 2 ^ 48 + index % 2 ^ 16)) pcm else s

/-! ## The L1 (R224, R227, R230-R232, R358) -/

/-- The ways of a core in L1 mode (R224). -/
def Core.l1Ways (c : Core) : List Nat := (List.range 12).filter fun w => decide (SMap.getD w Way.l1 c.ways = .l1)

/-- The line of an address in a core's L1 (R230). A line in a way that is being closed still serves hits (R227). -/
def Core.line? (c : Core) (asid gen va : Nat) : Option L1Line :=
  c.lines.find? fun l => decide (l.va = va / 256 * 256) && decide (l.asid = asid) && decide (l.gen = gen)

def Core.putLine (c : Core) (l : L1Line) : Core :=
  { c with lines := l :: c.lines.filter fun x => !(decide (x.va = l.va) && decide (x.asid = l.asid) && decide (x.gen = l.gen)) }

/-- Whether a line holds marked bytes. -/
def L1Line.dirty (l : L1Line) : Bool := decide (l.dm ≠ 0) || decide (l.cm ≠ 0)

/-- The line after it has been cleaned (R232). -/
def L1Line.cleaned (l : L1Line) : L1Line := { l with dm := 0, cm := 0, clr := 0, scClr := false, owners := [] }

/-- The runs of marked bytes of a line, each an offset and a length, from an offset upward; structural on the bytes left. -/
def L1Line.runsFrom (l : L1Line) : Nat → Nat → List (Nat × Nat)
  | 0, _ => []
  | n + 1, o =>
    if bit l.dm o then
      match l.runsFrom n (o + 1) with
      | (o', k) :: t => if o' = o + 1 then (o, k + 1) :: t else (o, 1) :: (o', k) :: t
      | [] => [(o, 1)]
    else l.runsFrom n (o + 1)

def L1Line.marked (l : L1Line) : List (Nat × Nat) := l.runsFrom 256 0

/-- The sectors of a line in which a byte is marked. -/
def L1Line.markedSectors (l : L1Line) : List Nat := (List.range 4).filter fun i => decide (bits l.dm (64 * i + 63) (64 * i) ≠ 0)

/-- A write-back that met an uncorrectable error in the L1's data array: counted; it halts in strict mode, and else each gang whose
bytes the line holds owes a report (R385, R392). -/
def State.writeBackError (s : State) (core : Nat) (l : L1Line) : State :=
  let p := partOfCluster (clusterOf core)
  if l.markedSectors.all fun i => !bit l.err i then s
  else
    let s := s.uncorrectable p 3 l.pa Agent.none
    if (s.part p).strict then s
    else l.owners.foldl (fun s g => s.modGang g fun G => { G with owed := { G.owed with wbp := true } }) s

/-- Write back the marked bytes of a line to its physical address, as one write (R230). A sector's poison follows its bytes, and is
cleared only where one store has written the whole sector (R234). -/
def State.writeBack (s : State) (core : Nat) (l : L1Line) : State :=
  if !l.dirty then s
  else
    let r := Req.cluster (some l.asid) (clusterOf core)
    let n := (l.marked.map Prod.snd).foldl (· + ·) 0 + popCount 17 l.cm
    let s := s.reachWrite r l.pa n
    let x := if isHost l.pa then s.takeLost hostLink else (s, false)
    if x.2 then x.1.dropStore r l.pa
    else
      let s := l.marked.foldl (fun s on => (s.dropCells (l.pa + on.1) on.2).lay (l.pa + on.1) (Memory.read l.bytes on.1 on.2)) x.1
      let s := l.markedSectors.foldl (fun s i =>
        if bit l.bad i || bit l.err i then s.setSectorBad (l.pa / 64 + i) true
        else if bit l.clr i then s.setSectorBad (l.pa / 64 + i) false
        else s) s
      let s := ((List.range 17).filter (bit l.cm)).foldl (fun s j => s.writeSide (l.pa / 256) j [Memory.byte l.scales j]) s
      let s := if bits l.cm 15 0 = 0 then s else if l.scBad then s.setSideBad (l.pa / 256) true
        else if l.scClr then s.setSideBad (l.pa / 256) false else s
      (s.writeThrough r l.pa (if n = 273 then 256 else n % 256)).writeBackError core l

/-- Clean every line of a core's L1 that a test selects (R232). -/
def State.cleanLines (s : State) (core : Nat) (sel : L1Line → Bool) : State :=
  let s := ((s.core core).lines.filter sel).foldl (fun s l => s.writeBack core l) s
  s.modCore core fun c => { c with lines := c.lines.map fun l => if sel l then l.cleaned else l }

/-- Drop every line of a core's L1 that a test selects: clean, then invalidate (R232). -/
def State.dropLines (s : State) (core : Nat) (sel : L1Line → Bool) : State :=
  let s := ((s.core core).lines.filter sel).foldl (fun s l => s.writeBack core l) s
  s.modCore core fun c => { c with lines := c.lines.filter fun l => !sel l }

/-- The line that leaves a set when a line is allocated and no way is free (R231): one marked EF, else the least recently used one
not marked EL, else the least recently used one. `ls` is in order of use, most recent first. -/
def victim (ls : List L1Line) : Option L1Line :=
  match ls.reverse.find? L1Line.ef with
  | some l => some l
  | none =>
    match ls.reverse.find? fun l => !l.el with
    | some l => some l
    | none => ls.reverse.head?

/-- Make room for a line in its set, in a way in L1 mode (R227, R230, R231): the way it gets. -/
def State.makeRoom (s : State) (core va : Nat) : State × Nat :=
  let c := s.core core
  let ways := c.l1Ways
  let set := c.lines.filter fun l => decide (l.va / 256 % 256 = va / 256 % 256) && ways.contains l.way
  match ways.find? fun w => set.all fun l => decide (l.way ≠ w) with
  | some w => (s, w)
  | none =>
    match victim set with
    | some v => (s.dropLines core fun l => decide (l.va = v.va) && decide (l.asid = v.asid) && decide (l.gen = v.gen), v.way)
    | none => (s, 0)

/-- Drop every copy of a physical line that the cluster's L1s hold under another name (R358). -/
def State.dropAliases (s : State) (core asid gen va pa : Nat) : State :=
  (List.range 4).foldl (fun s i =>
    s.dropLines (4 * clusterOf core + i) fun l =>
      decide (l.pa / 256 = pa / 256) && !(decide (l.asid = asid) && decide (l.gen = gen) && decide (l.va = va / 256 * 256))) s

/-- Fetch into a line the sectors of a mask that are neither valid nor wholly dirty, merging around the dirty bytes (R230). -/
def State.fillLine (s : State) (core : Nat) (l : L1Line) (need : Nat) : State × L1Line :=
  (List.range 4).foldl (fun (r : State × L1Line) i =>
    let (s, l) := r
    if bit need i && !bit l.sv i then
      let (s, bs, bad) := s.homeRead (Req.cluster (some l.asid) (clusterOf core)) (l.pa + 64 * i) 64 false
      let bytes := (List.range 64).foldl (fun m j =>
        if bit l.dm (64 * i + j) then m else Memory.setByte m (64 * i + j) (bs.getD j 0)) l.bytes
      (s, { l with bytes := bytes, sv := l.sv ||| 2 ^ i, bad := if bad then l.bad ||| 2 ^ i else l.bad })
    else (s, l)) (s, l)

/-- The sectors of a line that hold an extent and are not all dirty in it. -/
def needSectors (l : L1Line) (off n : Nat) : Nat :=
  maskOf ((List.range 4).filter fun i =>
    decide (off / 64 ≤ i) && decide (i ≤ (off + n - 1) / 64)
    && (List.range 64).any fun j => decide (off ≤ 64 * i + j) && decide (64 * i + j < off + n) && !bit l.dm (64 * i + j))

/-- What a load returns: bytes, whether a unit it took them from is poisoned, the physical address read, and the structure code of the
cache whose own array gave the error (3 the L1, 5 a path cache; 0: none, the poison came with the bytes). -/
structure Data where
  bytes : List Byte
  bad   : Bool
  pa    : Nat
  unit  : Nat := 0

/-- Whether an extent of a mask of sectors holds a poisoned one. -/
def badExtent (bad off n : Nat) : Bool :=
  (List.range 4).any fun i => bit bad i && decide (off / 64 ≤ i) && decide (i ≤ (off + n - 1) / 64)

/-- What a load of an extent of an L1 line returns (R230, R234, R392). -/
def L1Line.data (l : L1Line) (off n : Nat) : Data :=
  ⟨Memory.read l.bytes off n, badExtent l.bad off n || badExtent l.err off n, l.pa + off, if badExtent l.err off n then 3 else 0⟩

/-- A new line of an L1: nothing valid, nothing marked (R230, R231). -/
def newLine (way va asid gen pa : Nat) (wp : Bool) (hint : Nat) : L1Line :=
  ⟨way, va / 256 * 256, asid, gen, pa / 256 * 256, wp, 0, [], 0, false, [], 0, 0, false, 0, false, 0, decide (hint = 1), decide (hint = 2), []⟩

/-- Read bytes of one line at its home slice (far loads, misses that allocate nothing), after every copy of the cluster under another
name is dropped and the core's own is cleaned (R317, R358). -/
def State.homeLoad (s : State) (core asid va pa n : Nat) : State × Data :=
  let s := s.dropAliases core asid (s.genOf asid va) va pa
  let s := s.cleanLines core fun l => decide (l.pa / 256 = pa / 256)
  let r := s.homeRead (Req.cluster (some asid) (clusterOf core)) pa n false
  (r.1, ⟨r.2.1, r.2.2, pa, 0⟩)

/-- A load of `n` bytes inside one line through the load-store path (R230, R231, R317). -/
def State.load (s : State) (core asid : Nat) (far : Bool) (hint va n : Nat) : State × Except FaultInfo Data :=
  let gen := s.genOf asid va
  let off := va % 256
  let hit := if far then none else (s.core core).line? asid gen va
  match hit with
  | some l =>
    let (s, l) := s.fillLine core l (needSectors l off n)
    (s.modCore core fun c => c.putLine l, .ok (l.data off n))
  | none =>
    match s.translate (clusterOf core) asid .read false va with
    | (s, .error f) => (s, .error f)
    | (s, .ok x) =>
      if far || x.sem || decide (hint = 3) then
        let (s, d) := s.homeLoad core asid va x.pa n
        (s, .ok d)
      else
        let s := s.dropAliases core asid gen va x.pa
        let (s, w) := s.makeRoom core va
        let l := newLine w va asid gen x.pa x.w hint
        let (s, l) := s.fillLine core l (needSectors l off n)
        (s.modCore core fun c => c.putLine l, .ok (l.data off n))

/-- Put store bytes into a line and mark them; bytes that are also sent are not marked (R230, R231, R234). A store of a whole sector
gives its bytes anew, so that an error of the data array there is gone (R392). -/
def L1Line.merge (l : L1Line) (off : Nat) (bs : List Byte) (p sent : Bool) (g : Nat) : L1Line :=
  let n := bs.length
  let dm := if sent then l.dm else l.dm ||| (2 ^ n - 1) * 2 ^ off
  let met := (List.range 4).filter fun i => decide (off / 64 ≤ i) && decide (i ≤ (off + n - 1) / 64)
  let whole := maskOf (met.filter fun i => decide (off ≤ 64 * i) && decide (64 * i + 64 ≤ off + n))
  let less := fun (m : Nat) => m - (m &&& whole)
  { l with
    bytes := Memory.write l.bytes off bs, dm := dm
    bad := if p then l.bad ||| maskOf met else less l.bad
    clr := if p then l.clr - (l.clr &&& maskOf met) else if sent then l.clr else l.clr ||| whole
    err := less l.err
    owners := if sent then l.owners else insNat g l.owners }

/-- A store of bytes inside one line through the load-store path by gang `g` (R230, R231, R317): a near store that hits a line with
WP merges untranslated (R357); any other is translated, and merges into a line that the L1 already holds. A far store, one of
hint 11 and one to a semaphore page are sent to the home slice, after the line has been cleaned, so that no older byte follows the sent
one there (R322). -/
def State.store (s : State) (core asid g : Nat) (far : Bool) (hint va : Nat) (bs : List Byte) (pz : Bool) :
    State × Option FaultInfo :=
  let gen := s.genOf asid va
  let off := va % 256
  let r := Req.cluster (some asid) (clusterOf core)
  let hit := (s.core core).line? asid gen va
  let direct := far || decide (hint = 3)
  let merge := fun (s : State) (l : L1Line) => s.modCore core fun c => c.putLine (l.merge off bs pz false g)
  let send := fun (s : State) (pa : Nat) =>
    let s := s.cleanLines core fun l => decide (l.pa / 256 = pa / 256)
    let s := s.modCore core fun c => { c with lines := c.lines.map fun l =>
      if l.va = va / 256 * 256 ∧ l.asid = asid ∧ l.gen = gen then l.merge off bs pz true g else l }
    s.homeWrite r pa bs pz
  match if far then none else hit.filter L1Line.wp with
  | some l => (if direct then send s (l.pa + off) else merge s l, none)
  | none =>
    match s.translate (clusterOf core) asid .write false va with
    | (s, .error f) => (s, some f)
    | (s, .ok x) =>
      let s := s.dropAliases core asid gen va x.pa
      if x.sem then
        let s := s.dropLines core fun l => decide (l.pa / 256 = x.pa / 256)
        (s.homeWrite r x.pa bs pz, none)
      else
        match (s.core core).line? asid gen va with
        | some l => (if direct then send s x.pa else merge s l, none)
        | none =>
          if direct then (s.homeWrite r x.pa bs pz, none)
          else
            let (s, w) := s.makeRoom core va
            (merge s (newLine w va asid gen x.pa x.w hint), none)

/-- Translate an access that is performed at its home slice whatever its scope, after every copy of the line that the cluster holds
under another name and the core's own copy have been dropped (R232, R243, R296, R358). -/
def State.atHome (s : State) (core asid : Nat) (acc : Acc) (sem : Bool) (va : Nat) : State × Except FaultInfo Nat :=
  match s.translate (clusterOf core) asid acc sem va with
  | (s, .error f) => (s, .error f)
  | (s, .ok x) =>
    let s := s.dropAliases core asid (s.genOf asid va) va x.pa
    (s.dropLines core fun l => decide (l.pa / 256 = x.pa / 256), .ok x.pa)

/-- The sidecar of the line at a physical address: the L1 line's, fetched with it, where the line was loaded through the L1 (R230 CV,
R241); else the home's. -/
def State.loadSide (s : State) (core asid : Nat) (far : Bool) (va pa : Nat) : State × List Byte × Bool :=
  let home := (s.readSide (pa / 256), s.sideBad.contains (pa / 256))
  match if far then none else (s.core core).line? asid (s.genOf asid va) va with
  | some l =>
    if l.cv then (s, Memory.read l.scales 0 17, l.scBad)
    else
      let sc := (List.range 17).foldl (fun m j => if bit l.cm j then m else Memory.setByte m j (home.1.getD j 0)) l.scales
      let l := { l with cv := true, scales := sc, scBad := l.scBad || home.2 }
      (s.modCore core fun c => c.putLine l, Memory.read l.scales 0 17, l.scBad)
  | none => (s, home.1, home.2)

/-- Write scale bytes, and the format tag as byte 16, of a line through the load-store path after its data (R230, R231,
R241): into the L1's line, with CM marks where they are not also sent, and to the home where they are sent or the L1 holds no
line. -/
def State.storeSide (s : State) (core asid : Nat) (far : Bool) (hint va : Nat) (bs : List (Nat × Byte)) : State :=
  let whole := decide (17 ≤ bs.length)
  let sent := far || decide (hint = 3)
  let home := fun (s : State) (pa : Nat) =>
    let s := s.reachWrite (Req.cluster (some asid) (clusterOf core)) pa bs.length
    let s := bs.foldl (fun s jb => s.writeSide (pa / 256) jb.1 [jb.2]) s
    (if whole then s.setSideBad (pa / 256) false else s).writeThrough (Req.cluster (some asid) (clusterOf core)) pa bs.length
  match (s.core core).line? asid (s.genOf asid va) va with
  | some l =>
    let sc := bs.foldl (fun m jb => Memory.setByte m jb.1 jb.2) l.scales
    let l := { l with scales := sc, cm := if sent then l.cm else l.cm ||| maskOf (bs.map Prod.fst), scBad := l.scBad && !whole,
                      scClr := l.scClr || (whole && !sent) }
    let s := s.modCore core fun c => c.putLine l
    if sent then home s l.pa else s
  | none =>
    match s.translate (clusterOf core) asid .write false va with
    | (s, .error _) => s
    | (s, .ok x) => home s x.pa

/-! ## Path caches (R233, R250) -/

/-- The constant cache of a core, the tile read cache and the stream cache of a cluster. -/
inductive Path where
  | const (core : Nat)
  | tile (cluster : Nat)
  | stream (cluster : Nat)

def State.pathLines (s : State) : Path → List PathLine
  | .const c => (s.core c).const
  | .tile k => (s.cluster k).tile
  | .stream k => (s.cluster k).stream

def State.setPath (s : State) (x : Path) (ls : List PathLine) : State :=
  match x with
  | .const c => s.modCore c fun C => { C with const := ls }
  | .tile k => s.modCluster k fun K => { K with tile := ls }
  | .stream k => s.modCluster k fun K => { K with stream := ls }

/-- Lines that a path cache holds: 64 KB, 256 KB, 32 KB of 256-byte lines (R233, R250). -/
def Path.capacity : Path → Nat
  | .const _ => 256
  | .tile _ => 1024
  | .stream _ => 128

/-- Read the line of a physical address through a path cache: the bytes it was filled with (R233), or, where they are no longer
those of memory, by a free choice a new fill, because the cache may have replaced the line. A semaphore line is never
allocated (R296). -/
def State.pathLine (s : State) (x : Path) (r : Req) (pa : Nat) (sem : Bool) : State × PathLine :=
  let line := pa / 256 * 256
  let fill := fun (s : State) =>
    let (s, l) := s.homeLine r line false
    if sem then (s, l)
    else (s.setPath x ((l :: (s.pathLines x).filter fun y => decide (y.pa ≠ line)).take x.capacity), l)
  match (s.pathLines x).find? fun l => decide (l.pa = line) with
  | some l =>
    let hit := fun (s : State) => (s.setPath x (l :: (s.pathLines x).erase l), l)
    if l = (s.flushCells (line / 256)).lineNow line then hit s
    else
      let t := { s with fresh := s.fresh + 1 }
      if Config.replaced s.fresh then fill t else hit t
  | none => fill s

/-- The structure that has poisoned a line read through a path cache: the cache, where the error is its own (R394). -/
def State.lineStruct (s : State) (l : PathLine) : Nat := if l.bad / 16 % 16 ≠ 0 then 5 else s.structAt l.pa

/-- Read `n` bytes inside one line through a path cache by a virtual device at a cluster (R233, R356). -/
def State.pathRead (s : State) (x : Path) (k asid va n : Nat) : State × Except FaultInfo Data :=
  match s.translate k asid .read false va with
  | (s, .error f) => (s, .error f)
  | (s, .ok t) =>
    let (s, l) := s.pathLine x (Req.cluster (some asid) k) t.pa t.sem
    let off := t.pa % 256
    (s, .ok ⟨(l.bytes.drop off).take n, badExtent l.bad off n, t.pa, if badExtent (l.bad / 16) off n then 5 else 0⟩)

/-- Read `n` bytes from `va` upward through a path cache, line by line; the address is that of the poisoned line, where one is. Of the faults met, one that halts goes before one that parks
(R366). Structural on the number of lines left. -/
def State.pathReadMany (s : State) (x : Path) (k asid : Nat) : Nat → Nat → Nat → State × Except FaultInfo Data
  | 0, _, _ => (s, .ok ⟨[], false, 0, 0⟩)
  | fuel + 1, va, n =>
    if n = 0 then (s, .ok ⟨[], false, 0, 0⟩)
    else
      let here := min n (256 - va % 256)
      match s.pathRead x k asid va here with
      | (s, .error f) =>
        (match f.halts, (s.pathReadMany x k asid fuel (va + here) (n - here)).2 with
         | false, .error g => (s, .error (if g.halts then g else f))
         | _, _ => (s, .error f))
      | (s, .ok d) =>
        match s.pathReadMany x k asid fuel (va + here) (n - here) with
        | (s, .error f) => (s, .error f)
        | (s, .ok e) => (s, .ok ⟨d.bytes ++ e.bytes, d.bad || e.bad, if d.bad || !e.bad then d.pa else e.pa, if d.bad || !e.bad then d.unit else e.unit⟩)

/-! ## Scratch (R225, R226, R228, R234) -/

/-- The scratch size that a workgroup's gangs reach: S, or 2S on a twin (R225). -/
def State.scratchSize (s : State) (W : Wg) : Nat :=
  match s.grid? W.grid with
  | some G => if W.child.isSome then 0 else G.scr * 65536 * (if W.twin then 2 else 1)
  | none => 0

/-- Whether an extent of scratch holds a poisoned word. -/
def Wg.scrPoison (W : Wg) (off n : Nat) : Bool :=
  (List.range ((off + n - 1) / 4 + 1 - off / 4)).any fun i => W.scrBad.contains (off / 4 + i)

/-- Write bytes of scratch with their poison (R234). -/
def Wg.scrWrite (W : Wg) (off : Nat) (bs : List Byte) (p : Bool) : Wg :=
  let n := bs.length
  let bad := if n = 0 then W.scrBad
    else (List.range ((off + n - 1) / 4 + 1 - off / 4)).foldl (fun b i =>
      let w := off / 4 + i
      if p then insNat w b else if off ≤ 4 * w ∧ 4 * w + 4 ≤ off + n then b.erase w else b) W.scrBad
  { W with scratch := Memory.write W.scratch off bs, scrBad := bad }

def Wg.scrRead (W : Wg) (off n : Nat) : Data := ⟨Memory.read W.scratch off n, W.scrPoison off n, 0, 0⟩

/-! ## Gang agents -/

/-- The identifiers of a gang's workgroup and grid (R10). -/
def State.gangIds (s : State) (G : Gang) : Nat × Nat :=
  ((s.grid? G.grid).elim 0 Grid.id, (s.wg? G.place.wg).elim 0 Wg.num)

/-- A gang as the agent of a scalar word, or of a fetch (R370). -/
def State.scalarAgent (s : State) (G : Gang) (kind pc : Nat) : Agent :=
  let ids := s.gangIds G
  ⟨kind, G.vnum, ids.1, ids.2, G.place.core, G.place.slot, G.place.gidx, 0, 0, pc, 0, 0⟩

/-- A gang as the agent of a lane word (R370). -/
def State.laneAgent (s : State) (G : Gang) (run widx : Nat) : Agent :=
  let ids := s.gangIds G
  ⟨0, G.vnum, ids.1, ids.2, G.place.core, G.place.slot, G.place.gidx, 0, 0, run + 12 * widx, widx, run⟩

/-- A halting fault of the scalar word of gang `g`. -/
def State.haltScalar (s : State) (G : Gang) (f : FaultInfo) : State :=
  s.halt (partOfVnum G.vnum) (s.scalarAgent G 1 G.pc) f 1

/-- The illegal-instruction fault of a scalar word (R72, R371). -/
def State.illegalScalar (s : State) (G : Gang) (word : Nat) : State := s.haltScalar G (plainFault 0x13 0 0 word)

/-- The illegal-instruction fault of a lane word: DETAIL holds bits 95:32 of it (R371). -/
def State.illegalLane (s : State) (G : Gang) (run widx word : Nat) : State :=
  s.halt (partOfVnum G.vnum) (s.laneAgent G run widx) (plainFault 0x13 0 0 (word / 2 ^ 32)) 0

/-- Park a gang at its scalar word (R366, R367): no effect has been taken; the group of one record is queued. -/
def State.parkScalar (s : State) (g : Nat) (G : Gang) (f : FaultInfo) : State :=
  (s.putGang g { G with wait := .scalarPark, park := some (Park.mk' 1 [(f, 1)] G.park) }).queueGroup
    (partOfVnum G.vnum) (.scalar g)

/-- Take the fault of a scalar word's access: halt, or park (R366, R378). -/
def State.scalarFault (s : State) (g : Nat) (G : Gang) (f : FaultInfo) : State :=
  if f.halts then s.haltScalar G f else s.parkScalar g G f

/-! ## Parked agents: finding them, writing their groups, replaying (R369, R372, R373) -/

/-- The park of a parked agent. -/
def State.parkOf (s : State) : Parked → Option Park
  | .word g op => ((s.gang? g).bind fun G => G.pend.find? fun x => decide (x.id = op)).bind Pend.park
  | .scalar g => (s.gang? g).bind Gang.park
  | .run g n => ((s.gang? g).bind fun G => G.runs.find? fun r => decide (r.serial = n)).bind Run.park
  | .chain e c => ((s.engine e).chains.find? fun x => decide (x.id = c)).bind Chain.park
  | .away w c => ((s.wg? w).bind fun W => W.away.find? fun x => decide (x.chain.id = c)).bind fun x => x.chain.park
  | .record v c => (SMap.getD c LaunchChain.init (s.vdev v).chains).park
  | .inbound n => (SMap.find? n s.inbound).map Inbound.park
  | .grid n => (s.grid? n).bind Grid.park

/-- Set the park of a parked agent. -/
def State.setPark (s : State) (a : Parked) (k : Option Park) : State :=
  match a with
  | .word g op => s.modGang g fun G => { G with pend := G.pend.map fun x => if x.id = op then { x with park := k } else x }
  | .scalar g => s.modGang g fun G => { G with park := k }
  | .run g n => s.modGang g fun G => { G with runs := G.runs.map fun r => if r.serial = n then { r with park := k } else r }
  | .chain e c => s.modEngine e fun E => { E with chains := E.chains.map fun x => if x.id = c then { x with park := k } else x }
  | .away w c => s.modWg w fun W => { W with away := W.away.map fun x =>
      if x.chain.id = c then { x with chain := { x.chain with park := k } } else x }
  | .record v c => s.modVdev v fun V =>
      { V with chains := SMap.upd c LaunchChain.init (fun l => { l with park := k }) V.chains }
  | .inbound n => { s with inbound := SMap.modify n (fun i => { i with park := k.getD i.park }) s.inbound }
  | .grid n => s.modGrid n fun D => { D with park := k }

/-- The agent fields of a chain's records (R370); a chain that is ending has only its record's completion left, which the
dispatcher performs (R332). -/
def State.chainAgent (s : State) (e : Nat) (c : Chain) : Agent :=
  let og := c.owner.gang.bind s.gang?
  let ids := (og.map s.gangIds).getD (0, 0)
  let kind := if e < 216 then 3 else if e < 324 then 4 else 5
  let eng := if e < 216 then e % 2 else if e < 324 then 0 else (e - 324) % 4
  if c.stage = .ending then { Agent.none with kind := 6, asid := c.owner.vnum.getD 0x7F, pc := c.owner.record.getD 0 } else
  ⟨kind, c.owner.vnum.getD 0x7F, ids.1, ids.2, c.owner.core.getD 0x1FF, (og.map fun G => G.place.slot).getD 0,
    (og.map fun G => G.place.gidx).getD 0, eng, c.owner.handle, c.block, 0, 0⟩

/-- The current record of a launch chain; chain 8 is the launch queue (R335, R336). -/
def State.launchRecord (s : State) (v c : Nat) : Nat :=
  if c = 8 then (s.vdev v).queue.headD 0 else (SMap.getD c LaunchChain.init (s.vdev v).chains).cur

/-- The agent of a parked thing (R370). -/
def State.parkedAgent (s : State) (a : Parked) : Agent :=
  match a with
  | .word g op =>
    match s.gang? g with
    | some G =>
      match G.pend.find? fun x => decide (x.id = op) with
      | some x => s.laneAgent G x.runAddr x.widx
      | none => .none
    | none => .none
  | .scalar g =>
    match s.gang? g with
    | some G =>
      match G.park with
      | some k => s.scalarAgent G (if k.faults.any fun f => decide (f.1.acc = 3) then 2 else 1) G.pc
      | none => .none
    | none => .none
  | .run g n =>
    match s.gang? g with
    | some G =>
      let r := G.runs.find? fun r => decide (r.serial = n)
      s.scalarAgent G 2 ((((r.bind Run.park).bind fun k => k.faults.head?).map fun f => f.1.va).getD ((r.map Run.addr).getD 0))
    | none => .none
  | .chain e c =>
    match (s.engine e).chains.find? fun x => decide (x.id = c) with
    | some x => s.chainAgent e x
    | none => .none
  | .away w c =>
    match (s.wg? w).bind fun W => W.away.find? fun x => decide (x.chain.id = c) with
    | some x => s.chainAgent (if x.eng < 2 then x.eng else if x.eng = 2 then 216 else 324 + (x.eng - 4)) x.chain
    | none => .none
  | .grid n =>
    match s.grid? n with
    | some D => { Agent.none with kind := 6, asid := D.vnum, grid := D.id, pc := D.record.getD 0 }
    | none => .none
  | .record v c => { Agent.none with kind := 6, asid := v, pc := s.launchRecord v c }
  | .inbound n =>
    match SMap.find? n s.inbound with
    | some i => { Agent.none with asid := bits i.req.addr 54 48 }
    | none => .none

/-- The faults of a group merged by 4 KB page, pages ascending: one record each, naming the lowest lane's fault (R369). -/
def pageGroups (fs : List (FaultInfo × Nat)) : List (FaultInfo × Nat) :=
  let pages := fs.foldl (fun ps f => insNat (f.1.va / 4096) ps) []
  pages.filterMap fun pg =>
    let here := fs.filter fun f => decide (f.1.va / 4096 = pg)
    (here.head?).map fun f => (f.1, here.foldl (fun m x => m ||| x.2) 0)

/-- Write the records of one group and keep their SEQ and repeat counts with the park (R369, R373). A page whose RCNT
would reach 8 is written as the halting cause 0x18. -/
def State.writeGroup (s : State) (p : Nat) (ag : Agent) (old : List ParkRec) :
    List (FaultInfo × Nat) → List ParkRec → State × List ParkRec
  | [], acc => (s, acc)
  | (f, lanes) :: t, acc =>
    let page := f.va / 4096
    let pcm := if ag.kind = 0 then lanes else if ag.kind = 1 then 1 else 0
    let seq := (s.part p).seq
    match old.find? fun r => decide (r.page = page) with
    | some r =>
      if 7 ≤ r.rcnt then
        let g := { f with cause := 0x18, detail := r.seq }
        let first := !s.stopped p
        let s := s.writeRecord p (recordWords ag g seq pcm false true 7 t.isEmpty)
        let s := if first then
            (s.modPart p fun P => { P with halting := true, hseq := seq, hclk := s.now, toStop := s.stoppers p }).emit .msix
          else s
        s.writeGroup p ag old t (acc ++ [⟨page, seq, r.rcnt⟩])
      else
        (s.writeRecord p (recordWords ag f seq pcm true true (r.rcnt + 1) t.isEmpty)).writeGroup p ag old t
          (acc ++ [⟨page, seq, r.rcnt + 1⟩])
    | none =>
      (s.writeRecord p (recordWords ag f seq pcm true false 0 t.isEmpty)).writeGroup p ag old t (acc ++ [⟨page, seq, 0⟩])

/-- The parked agent whose written group holds a SEQ (R372). -/
def State.parkedBy (s : State) (p seq : Nat) : Option Parked :=
  let has := fun (k : Option Park) => (k.map fun k => k.written && k.recs.any fun r => decide (r.seq = seq)).getD false
  let words := s.gangs.flatMap fun kv =>
    if partOfVnum kv.2.vnum ≠ p then [] else
      (if has kv.2.park then [Parked.scalar kv.1] else [])
      ++ (kv.2.pend.filter fun x => has x.park).map (fun x => Parked.word kv.1 x.id)
      ++ (kv.2.runs.filter fun r => has r.park).map (fun r => Parked.run kv.1 r.serial)
  let chains := s.engines.flatMap fun kv =>
    (kv.2.chains.filter fun c => decide (c.owner.part = p) && has c.park).map fun c => Parked.chain kv.1 c.id
  let saved := s.wgs.flatMap fun kv =>
    (kv.2.away.filter fun x => decide (x.chain.owner.part = p) && has x.chain.park).map fun x => Parked.away kv.1 x.chain.id
  let recs := s.vdevs.flatMap fun kv =>
    if partOfVnum kv.1 ≠ p then [] else
      (kv.2.chains.filter fun c => has c.2.park).map (fun c => Parked.record kv.1 c.1)
  let inb := s.inbound.flatMap fun kv => if kv.2.part = p ∧ has (some kv.2.park) then [Parked.inbound kv.1] else []
  let grids := s.grids.flatMap fun kv => if partOfVnum kv.2.vnum = p ∧ has kv.2.park then [Parked.grid kv.1] else []
  (words ++ chains ++ saved ++ recs ++ inb ++ grids).head?

/-! ## The arithmetic log (R387, R388) -/

/-- Write a record of four words, LSEQ not yet in w0, into a virtual device's arithmetic log. `g` is the gang named. -/
def State.log (s : State) (v : Nat) (g : Option Nat) (w0 w1 w2 w3 : Nat) : State :=
  let V := s.vdev v
  let drop := fun (s : State) =>
    let s := s.modVdev v fun V => { V with logDrop := V.logDrop + 1 }
    match g with
    | some g => s.modGang g fun G => { G with owed := { G.owed with lgd := true } }
    | none => s
  let put := fun (s : State) (a b c d : Nat) =>
    let V := s.vdev v
    if V.logProd - V.logCons < 2 ^ V.logSize then
      match s.translate (9 * partOfVnum v) v .write false (V.logBase + 32 * (V.logProd % 2 ^ V.logSize)) with
      | (s, .error _) => (s, false)
      | (s, .ok x) =>
        let s := s.homeWrite (Req.firmware (partOfVnum v)) x.pa (wordBytes [a + V.logSeq % 2 ^ 48, b, c, d]) false
        (s.modVdev v fun V => { V with logProd := V.logProd + 1, logSeq := V.logSeq + 1 }, true)
    else (s, false)
  if V.logBase = 0 then s
  else if V.logDrop = 0 then
    match put s w0 w1 w2 w3 with
    | (s, true) => s
    | (s, false) => drop s
  else
    match put s (0x0A * 2 ^ 56 + 0x06 * 2 ^ 48) (V.logDrop % 2 ^ 32 * 2 ^ 32) 0 (0x1FF * 2 ^ 23) with
    | (s, false) => drop s
    | (s, true) =>
      match put (s.modVdev v fun V => { V with logDrop := 0 }) w0 w1 w2 w3 with
      | (s, true) => s
      | (s, false) => drop s

/-- The scalar PC that a record of a gang names: some word from the LRUN that queued the run up to the gang's own (R387); across a
taken branch backward, one of the two. -/
def logPc (fresh lrun pc : Nat) : Nat :=
  let n := Config.logLag fresh
  if lrun ≤ pc then pc - 4 * (n % ((pc - lrun) / 4 + 1)) else if n % 2 = 0 then pc else lrun

/-- A log record of a gang (R145, R387): CAUSE, SRC, lanes and the word's index; `lrun` is where its run was queued. -/
def State.logGang (s : State) (g : Nat) (cause src lanes widx lrun : Nat) : State :=
  match s.gang? g with
  | none => s
  | some G =>
    let ids := s.gangIds G
    ({ s with fresh := s.fresh + 1 } : State).log G.vnum (some g) (cause * 2 ^ 56 + src * 2 ^ 48) (lanes * 2 ^ 32 + ids.1)
      (logPc s.fresh lrun G.pc)
      (ids.2 * 2 ^ 32 + G.place.core * 2 ^ 23 + G.place.slot * 2 ^ 17 + G.place.gidx * 2 ^ 11 + widx * 2 ^ 6)

/-- A log record of an engine's chain (R289, R387, R412, R464). -/
def State.logChain (s : State) (e : Nat) (c : Chain) (cause src : Nat) : State :=
  match c.owner.vnum with
  | none => s
  | some v =>
    let a := s.chainAgent e c
    s.log v c.owner.gang (cause * 2 ^ 56 + src * 2 ^ 48) a.grid (c.block % 2 ^ 57)
      (a.wg * 2 ^ 32 + a.core * 2 ^ 23 + a.slot * 2 ^ 17 + a.gidx * 2 ^ 11 + a.eng * 2 ^ 3)

end Sys2Proof.Machine
end

