-- ==== Sys2Proof/Machine/Operands.lean ====
section
/-! DEFINITION. The operands of both streams: scalar registers and pairs, masks, lane registers in their three files,
helper shadows, scale registers, and the register numbers a word reads, writes and frees. -/

namespace Sys2Proof.Machine

/-! ## Scalar operands (R46, R169) -/

/-- s0-s127. -/
def Gang.sreg (G : Gang) (n : Nat) : Word := SMap.getD n 0 G.s

def Gang.setS (G : Gang) (n : Nat) (v : Word) : Gang := { G with s := SMap.put n v G.s }

/-- The pair n, n + 1, with n holding bits 31:0 (R46). -/
def Gang.spair (G : Gang) (n : Nat) : DWord := G.sreg (n + 1) ++ G.sreg n

def Gang.setPair (G : Gang) (n : Nat) (v : DWord) : Gang :=
  (G.setS n (v.extractLsb' 0 32)).setS (n + 1) (v.extractLsb' 32 32)

/-- m0-m7 (R184). -/
def Gang.mreg (G : Gang) (k : Nat) : Word := SMap.getD k 0 G.m

def Gang.setM (G : Gang) (k : Nat) (v : Word) : Gang := { G with m := SMap.put k v G.m }

/-- An address is 57 bits wide (R31, R47). -/
def addrBits : Nat := 2 ^ 57

/-- The next scalar word. -/
def Gang.next (G : Gang) : Gang := { G with pc := (G.pc + 4) % addrBits }

/-- The target of an SB word (R47). -/
def Gang.target (G : Gang) (off : BitVec 15) : Nat := (((G.pc : Int) + 4 * off.toInt) % (addrBits : Int)).toNat

/-- Replace bits of a mask at listed positions (R34: other positions keep theirs). -/
def mergeBits (m : Word) (bs : List (Nat × Bool)) : Word :=
  BitVec.ofNat 32 (bs.foldl (fun n lb => setField n lb.1 lb.1 lb.2.toNat) m.toNat)

def Gang.mergeM (G : Gang) (k : Nat) (bs : List (Nat × Bool)) : Gang :=
  if bs.isEmpty then G else G.setM k (mergeBits (G.mreg k) bs)

/-! ## Lane positions and the window (R33, R123, R190) -/

/-- Whether a position holds a lane that can be active (R190). -/
def Gang.holds (G : Gang) (l : Nat) : Bool :=
  match SMap.find? l G.lane.pos with
  | none => true
  | some none => false
  | some (some p) => !p.aside

/-- The active lanes under a mask register (R57, R184). -/
def Gang.active (G : Gang) (k : Nat) : List Nat := (List.range 32).filter fun l => (G.mreg k).getLsbD l && G.holds l

/-- The helper lanes that go with a list of active lanes (R33). -/
def Gang.helpers (G : Gang) (act : List Nat) : List Nat :=
  (List.range 32).filter fun l => G.holds l && !act.contains l && act.any fun a => decide (a / 4 = l / 4)

/-- Birth GIDX of the lane at a position (R92). -/
def Gang.birth (G : Gang) (l : Nat) : Nat :=
  match SMap.find? l G.lane.pos with
  | some (some p) => p.birth
  | _ => G.place.gidx

/-- Allocated main registers per lane, 256 at most (R117). -/
def State.regsOf (s : State) (G : Gang) : Nat := (s.grid? G.grid).elim 256 fun D => min 256 D.regs

/-- Granules of the window (R123). -/
def windowGranules (n : Nat) : Nat := n / 8 / 2

/-- The main-register indices that may be named: N, or the window's (R56, R123). -/
def Gang.limit (G : Gang) (n : Nat) : Nat := if G.sp.win then 8 * windowGranules n else n

/-- The physical main register of an index (R123). -/
def Gang.phys (G : Gang) (n i : Nat) : Nat :=
  if G.sp.win then 8 * ((G.sp.wb + i / 8) % (n / 8)) + i % 8 else i

/-! ## Lane registers (R112, R116) -/

def RegFile.code : RegFile → Nat
  | .v => 0
  | .q => 1
  | .t => 2
  | .special => 3

/-- Key of a register number within a gang: file · 256 + physical index. -/
def Gang.rkey (G : Gang) (n : Nat) (f : RegFile) (i : Nat) : Nat :=
  match f with
  | .v => G.phys n i
  | _ => RegFile.code f * 256 + i

/-- A special operand in a lane (R56). -/
def specialVal (idx l : Nat) : Word :=
  match idx with
  | 0 => 0
  | 1 => BitVec.ofNat 32 l
  | 2 => BitVec.ofNat 32 (l / 4)
  | _ => BitVec.allOnes 32

/-- A register that holds no value reads as a free value with P = 0 (R5, R68, R116, R120). -/
def undefCell (fresh key : Nat) : Cell := ⟨Config.undef fresh key, false, true⟩

/-- Whether a main register of a lane is freed (R119). -/
def LaneFile.freed (L : LaneFile) (key : Nat) : Bool :=
  match SMap.find? key L.regs with
  | some c => !c.live
  | none => true

/-- The value of a lane's register; a main register that is freed reads as a free value. -/
def LaneFile.read (L : LaneFile) (fresh l rkey : Nat) : Cell :=
  let key := l * 1024 + rkey
  match SMap.find? key L.regs with
  | some c => if c.live then c else undefCell fresh key
  | none => undefCell fresh key

/-- The value a helper lane reads: its shadow where the run has written one, else its register (R34, R201). -/
def LaneFile.readHelper (L : LaneFile) (fresh l rkey : Nat) : Cell :=
  (SMap.find? (l * 1024 + rkey) L.shadow).getD (L.read fresh l rkey)

/-- Write a register of an active lane; a main register becomes live (R119), and an error of its halves is gone (R392). -/
def LaneFile.write (L : LaneFile) (l rkey : Nat) (c : Cell) : LaneFile :=
  let key := l * 1024 + rkey
  { L with regs := SMap.put key { c with live := true } L.regs, err := L.err.filter fun e => decide (e / 2 ≠ key) }

/-- Write the helper shadow of a lane (R34). -/
def LaneFile.writeShadow (L : LaneFile) (l rkey : Nat) (c : Cell) : LaneFile :=
  { L with shadow := SMap.put (l * 1024 + rkey) { c with live := true } L.shadow }

/-- Clear LIVE; the contents stay for a replay (R119, R121). -/
def LaneFile.free (L : LaneFile) (l rkey : Nat) : LaneFile :=
  let key := l * 1024 + rkey
  { L with regs := SMap.modify key (fun c => { c with live := false }) L.regs }

/-- A scale byte (R93). -/
def LaneFile.scaleByte (L : LaneFile) (x j : Nat) : Nat := (SMap.getD (x * 16 + j) 0 L.scale).toNat

def LaneFile.setScale (L : LaneFile) (x j : Nat) (b : Byte) : LaneFile :=
  { L with scale := SMap.put (x * 16 + j) b L.scale }

/-! ## What a lane word uses -/

/-- The operands of a lane word: sources and destinations with the number of registers each covers, the masks it reads
besides msel, the masks it writes, and whether it is a memory, tile, engine or Marver word (R367), and whether the freed-register test applies to it (R120,
R257). -/
structure Use where
  srcs  : List (Src × Nat) := []
  dsts  : List (Dst × Nat) := []
  mrd   : List Nat := []
  mwr   : List Nat := []
  gated : Bool := false
  trap  : Bool := true

/-- The main registers of a list of source operands. -/
def Use.mainReads (u : Use) (G : Gang) (n : Nat) : List Nat :=
  u.srcs.flatMap fun sn => match sn.1.file with
    | .v => (List.range sn.2).map fun k => G.phys n (sn.1.idx.toNat + k)
    | _ => []

/-- The registers (keys) that the destinations cover. -/
def Use.writes (u : Use) (G : Gang) (n : Nat) : List Nat :=
  u.dsts.flatMap fun dn => match dn.1.file with
    | .special => []
    | f => (List.range dn.2).map fun k => G.rkey n f (dn.1.idx.toNat + k)

/-- The registers (keys) that the sources cover (R121). -/
def Use.pins (u : Use) (G : Gang) (n : Nat) : List Nat :=
  u.srcs.flatMap fun sn => match sn.1.file with
    | .special => []
    | .t => []
    | f => (List.range sn.2).map fun k => G.rkey n f (sn.1.idx.toNat + k)

/-- Every main register named lies in the allocation or the window, every other index in its file (R56, R123, R161). -/
def Use.allocated (u : Use) (G : Gang) (n : Nat) : Bool :=
  let ok := fun (f : RegFile) (i k : Nat) => match f with
    | .v => decide (i + k ≤ G.limit n)
    | .special => true
    | _ => decide (i + k ≤ 8)
  u.srcs.all (fun x => ok x.1.file x.1.idx.toNat x.2) && u.dsts.all fun x => ok x.1.file x.1.idx.toNat x.2

/-- The registers a word's last-use marks free, as physical indices (R119). -/
def Use.frees (u : Use) (G : Gang) (n : Nat) : List Nat :=
  u.srcs.flatMap fun sn => if sn.1.last then (List.range sn.2).map fun k => G.phys n (sn.1.idx.toNat + k) else []

/-! ## A lane word at issue -/

/-- A lane word as it issues: its gang as the sources are read, its active and helper lanes, and where it stands. -/
structure Issue where
  g     : Nat
  gang  : Gang
  n     : Nat
  act   : List Nat
  help  : List Nat
  fresh : Nat
  run   : Run
  wg    : Nat

/-- The generator word of element `j` of a lane's destination (R105). -/
def Issue.rb (x : Issue) (l j : Nat) : Nat :=
  let stream := (x.run.s30.toNat ^^^ (x.run.off * 32 + x.run.next)) % 2 ^ 32
  genWord (stream * 2 ^ 32 + x.wg) (x.gang.birth l * 2 ^ 16 + l * 2 ^ 8 + j) x.gang.sp.seed.toNat

/-- A register as a position gives it (R34, R201): a helper lane's shadow or register, zero at an empty position, else the
register. -/
def Issue.reg (x : Issue) (l rkey : Nat) : Cell :=
  if x.help.contains l then x.gang.lane.readHelper x.fresh l rkey
  else if x.gang.holds l then x.gang.lane.read x.fresh l rkey
  else ⟨0, false, true⟩

/-- Register `k` of a source operand in a lane (R55, R56). -/
def Issue.cell (x : Issue) (l : Nat) (a : Src) (k : Nat) : Cell :=
  match a.file with
  | .special => if x.gang.holds l then ⟨specialVal a.idx.toNat l, false, true⟩ else ⟨0, false, true⟩
  | f => x.reg l (x.gang.rkey x.n f (a.idx.toNat + k))

/-- A source of one or two registers as a number, and its poison (R56, R116). -/
def Issue.word (x : Issue) (l : Nat) (a : Src) (wide : Bool) : Nat × Bool :=
  let lo := x.cell l a 0
  if wide then
    let hi := x.cell l a 1
    (lo.val.toNat + hi.val.toNat * 2 ^ 32, lo.p || hi.p)
  else (lo.val.toNat, lo.p)

/-- Write `cells` to a destination in one lane: an active lane's registers, a helper lane's shadow (R34). -/
def Issue.put (x : Issue) (d : Dst) (L : LaneFile) (l : Nat) (cells : List Cell) : LaneFile :=
  (cells.zipIdx).foldl (fun L ck =>
    let r := x.gang.rkey x.n d.file (d.idx.toNat + ck.2)
    if x.act.contains l then L.write l r ck.1 else L.writeShadow l r ck.1) L

/-- The cells of a number in one or two registers. -/
def cells (wide : Bool) (v : Nat) (p : Bool) : List Cell :=
  if wide then [⟨BitVec.ofNat 32 v, p, true⟩, ⟨BitVec.ofNat 32 (v / 2 ^ 32), p, true⟩]
  else [⟨BitVec.ofNat 32 v, p, true⟩]

/-- A gang's format-table entry (R86). -/
def Gang.fmt (G : Gang) (k : Nat) : Fmt := Fmt.ofEntry (SMap.getD k 0 G.sp.fmt).toNat

end Sys2Proof.Machine
end

