-- ==== Sys2Proof/Machine/Flags.lean ====
section
/-! DEFINITION. The flag computations: the condition flag, comparisons, mask combination, and the causes of arithmetic
log records. -/

namespace Sys2Proof.Machine

/-- The conditions of SCMP: signed 0-5, unsigned 6-9 (R51, R182). -/
def scmpCond (cond : Nat) (a b : Word) : Bool :=
  match cond with
  | 0 => a == b
  | 1 => a != b
  | 2 => a.slt b
  | 3 => a.sle b
  | 4 => b.slt a
  | 5 => b.sle a
  | 6 => a.ult b
  | 7 => a.ule b
  | 8 => b.ult a
  | _ => b.ule a

/-- The conditions of ISET on exact values; the poison tests read P of A alone (R134). -/
def isetCond (cond : Nat) (a b : Int) (ua ub : Nat) (pa p : Bool) : Bool :=
  match cond with
  | 6 => pa
  | 7 => !pa
  | 0 => !p && decide (a = b)
  | 1 => !p && decide (a ≠ b)
  | 2 => !p && decide (a < b)
  | 3 => !p && decide (a ≤ b)
  | 4 => !p && decide (b < a)
  | 5 => !p && decide (b ≤ a)
  | 8 => !p && decide (ua &&& ub ≠ 0)
  | _ => !p && decide (ua &&& ub = 0)

/-- The conditions of FSET (R150). -/
def fsetCond (cond : Nat) (a b : Num) (p : Bool) : Bool :=
  let nan := a.isNan || b.isNan
  !p && (match cond with
    | 0 => !nan && a.eqv b
    | 1 => nan || !a.eqv b
    | 2 => !nan && a.lt b
    | 3 => !nan && !b.lt a
    | 4 => !nan && b.lt a
    | 5 => !nan && !a.lt b
    | 6 => !nan
    | _ => nan)

/-- How ISET and FSET combine a condition with the mask bit: replace, and, or (R134). -/
def combineBit (c : Nat) (old new : Bool) : Bool :=
  match c with
  | 1 => old && new
  | 2 => old || new
  | _ => new

/-- The causes a lane raised (R144, R145). -/
structure Cond where
  inv : Bool := false
  dz  : Bool := false
  ov  : Bool := false

def Cond.or (a b : Cond) : Cond := ⟨a.inv || b.inv, a.dz || b.dz, a.ov || b.ov⟩

/-- The records of a word: one for each cause raised, with the lanes that raised it (R145, R387). -/
def condRecords (cs : List (Nat × Cond)) : List (Nat × Nat) :=
  let m := fun (f : Cond → Bool) => maskOf ((cs.filter fun c => f c.2).map Prod.fst)
  [(0x01, m Cond.inv), (0x02, m Cond.dz), (0x03, m Cond.ov)].filter fun r => decide (r.2 ≠ 0)

/-- Write the records of a word of gang `g`, whose run the LRUN at `lrun` queued (R145, R387). -/
def State.logConds (s : State) (g widx src lrun : Nat) (rs : List (Nat × Nat)) : State :=
  rs.foldl (fun s r => s.logGang g r.1 src r.2 widx lrun) s

end Sys2Proof.Machine
end

