-- ==== Sys2Proof/Machine/Issue.lean ====
section
/-! DEFINITION. Issue: what a scalar word and a lane word wait for, the faults found at issue, and the frame in which each
word's own effect is taken. -/

namespace Sys2Proof.Machine

/-! ## Opcodes and roles (R25, R64) -/

/-- The opcode of a lane word (R64); 0 for `LNOP` and for what is no lane word. -/
def laneOp : Instr → Nat
  | .endrun _ => 0xF0
  | .iadd _ => 0x10
  | .isub _ => 0x11
  | .iaddc _ => 0x12
  | .imul _ => 0x13
  | .imulh _ => 0x14
  | .imad _ => 0x15
  | .iabs _ => 0x16
  | .ineg _ => 0x17
  | .imin _ => 0x18
  | .imax _ => 0x19
  | .iclamp _ => 0x1A
  | .and _ => 0x1B
  | .or _ => 0x1C
  | .xor _ => 0x1D
  | .not _ => 0x1E
  | .shl _ => 0x1F
  | .shr _ => 0x20
  | .sra _ => 0x21
  | .rot _ => 0x22
  | .bfx _ => 0x23
  | .bfi _ => 0x24
  | .popc _ => 0x25
  | .clz _ => 0x26
  | .brev _ => 0x27
  | .iset _ => 0x28
  | .sel _ => 0x29
  | .movl _ => 0x2A
  | .lim _ => 0x2B
  | .lea _ => 0x2C
  | .lea64 _ => 0x2D
  | .cvti _ => 0x2E
  | .idot4 _ => 0x2F
  | .fadd _ => 0x30
  | .fsub _ => 0x31
  | .fmul _ => 0x32
  | .ffma _ => 0x33
  | .fmin _ => 0x34
  | .fmax _ => 0x35
  | .fset _ => 0x36
  | .fclass _ => 0x37
  | .frnd _ => 0x38
  | .fcvt _ => 0x39
  | .ftoi _ => 0x3A
  | .itof _ => 0x3B
  | .frcp _ => 0x3C
  | .frsq _ => 0x3D
  | .fsqrt _ => 0x3E
  | .fexp2 _ => 0x3F
  | .flog2 _ => 0x40
  | .fsin _ => 0x41
  | .fcos _ => 0x42
  | .ftanh _ => 0x43
  | .fdivs _ => 0x44
  | .hadd2 _ => 0x45
  | .hmul2 _ => 0x46
  | .hfma2 _ => 0x47
  | .fdot2 _ => 0x48
  | .bmax _ => 0x50
  | .bscl _ => 0x51
  | .bqnt _ => 0x52
  | .bdqt _ => 0x53
  | .badd _ => 0x54
  | .bmul _ => 0x55
  | .bfma _ => 0x56
  | .brnm _ => 0x57
  | .bcvt _ => 0x58
  | .bsdot _ => 0x59
  | .xred _ => 0x5A
  | .xldp _ => 0x60
  | .xpat _ => 0x61
  | .xshf _ => 0x62
  | .xbcst _ => 0x63
  | .xgath _ => 0x64
  | .qswz _ => 0x65
  | .qbcst _ => 0x66
  | .vbal _ => 0x67
  | .vany _ => 0x68
  | .vall _ => 0x69
  | .xscan _ => 0x6A
  | .topk _ => 0x6B
  | .xsort _ => 0x6C
  | .sdec _ => 0x6D
  | .xxch _ => 0x6E
  | .ldg _ => 0x70
  | .stg _ => 0x71
  | .ldb _ => 0x72
  | .stb _ => 0x73
  | .lds _ => 0x74
  | .sts _ => 0x75
  | .ldl _ => 0x76
  | .ldc _ => 0x77
  | .cstore _ => 0x78
  | .atom _ => 0x79
  | .atomxAdd _ => 0x7A
  | .atomxRd _ => 0x7A
  | .atomxRdclr _ => 0x7A
  | .atomxClr _ => 0x7A
  | .redg _ => 0x7B
  | .pref _ => 0x7C
  | .mconv _ => 0x80
  | .mconvDis _ => 0x80
  | .mma _ => 0x81
  | .mmas _ => 0x82
  | .gmma _ => 0x83
  | .tzero _ => 0x84
  | .tld _ => 0x85
  | .tst _ => 0x86
  | .trd _ => 0x87
  | .twr _ => 0x88
  | .lmma _ => 0x98
  | .qpost _ => 0x90
  | .qtake _ => 0x91
  | .plq _ => 0x92
  | .plfuse _ => 0x93
  | .plnext _ => 0x94
  | .plclose _ => 0x95
  | _ => 0

/-- Whether a role may issue a lane opcode: 0 no roles, 1 feeder, 2 matrix, 3 vector (R25). -/
def roleAllows (role op : Nat) : Bool :=
  if op = 0x00 ∨ op = 0xF0 then true
  else
    match role with
    | 0 => !(decide (0x80 ≤ op) && decide (op ≤ 0x83))
    | 1 => decide (op = 0x2C) || decide (op = 0x2D) || (decide (0x70 ≤ op) && decide (op ≤ 0x7F))
        || (decide (0x90 ≤ op) && decide (op ≤ 0x97))
    | 2 => decide (0x80 ≤ op) && decide (op ≤ 0x8F)
    | _ => decide (op ≤ 0x7F) || (decide (0x98 ≤ op) && decide (op ≤ 0x9F))

/-- The masks a lane word names as destinations: its run's mask-write set (R172). -/
def maskWrites : Instr → List Nat
  | .iaddc f => if f.aux.toNat % 8 = 0 then [] else [f.aux.toNat % 8]
  | .iset f => [f.aux.toNat % 8]
  | .fset f => [f.aux.toNat % 8]
  | .vbal f => if f.imm.toNat = 0 then [] else [f.imm.toNat]
  | .vany f => if f.imm.toNat = 0 then [] else [f.imm.toNat]
  | .vall f => if f.imm.toNat = 0 then [] else [f.imm.toNat]
  | .qtake f => takeMasks f
  | .plnext f => takeMasks f
  | .gmma f => gmmaMasks f
  | _ => []
where
  takeMasks (f : L3) : List Nat :=
    if f.fn.toNat / 8 = 0 then [f.fn.toNat % 8] else [f.fn.toNat % 8, f.fn.toNat / 8]
  gmmaMasks (f : LT) : List Nat := if f.xD.toNat % 8 = 0 then [] else [f.xD.toNat % 8]

/-- A register pair (R46). -/
def pairOf (n : Nat) : List Nat := [n, n + 1]

/-- The scalar registers a lane word reads when it issues: its run's scalar-read set (R172). -/
def scalarReads : Instr → List Nat
  | .ldg f | .stg f | .ldb f | .stb f | .ldl f | .ldc f | .cstore f | .atom f | .redg f | .pref f
  | .atomxAdd f | .atomxRd f | .atomxRdclr f | .atomxClr f => if f.amode = 0 then [] else pairOf f.aux.toNat
  | .gmma f | .tld f | .tst f => pairOf f.sS.toNat
  | .mmas f => if f.fn = 2 then pairOf f.sS.toNat else []
  | _ => []

/-- The scale registers that a lane word reads or writes (R161, R241, R257, R267). -/
def scaleRegs (G : Gang) : Instr → List Nat
  | .bscl f | .bqnt f => [f.xD.toNat]
  | .bdqt f => [f.xA.toNat]
  | .badd f | .bmul f | .bfma f => [f.xA.toNat, f.xB.toNat, f.xD.toNat]
  | .brnm f | .bcvt f => [f.xA.toNat, f.xD.toNat]
  | .bsdot f => [f.xA.toNat, f.xB.toNat]
  | .ldb f | .stb f => [f.xB.toNat]
  | .mma f | .mmas f | .gmma f => if (G.fmt f.fmt.toNat).b then upFrom f.xA.toNat 8 else []
  | .trd f => if bit f.fn.toNat 3 then upFrom f.xD.toNat (WF.tileRegs f / 2) else []
  | .twr f => if bit f.fn.toNat 3 then upFrom f.xA.toNat (WF.tileRegs f / 2) else []
  | _ => []
where
  upFrom (a n : Nat) : List Nat := (List.range n).map (· + a)

/-- Words that deliver values from one lane to another, or read operands or blocks whole (R162, R202, R257, R393). -/
def crossLane (i : Instr) : Bool :=
  let op := laneOp i
  decide (op = 0x5A) || (decide (0x60 ≤ op) && decide (op ≤ 0x6E)) || (decide (0x50 ≤ op) && decide (op ≤ 0x59)) || (decide (0x80 ≤ op) && decide (op ≤ 0x88)) || decide (op = 0x98)

/-- The halves of register `k` of source operand `n` that a lane word uses: bit 0 bits 15:0, bit 1 bits 31:16 (R132, R133, R138, R153, R393). -/
def halvesUsed (G : Gang) (i : Instr) (n k : Nat) : Nat :=
  match i with
  | .cvti f =>
    let ws := WF.tyWidth (WF.cvtS f)
    let wd := WF.tyWidth (WF.ty f)
    let cnt := WF.tyCount (WF.ty f)
    let a := f.aux.toNat % 8
    if n = 1 then (if WF.tyCount (WF.cvtS f) * wd = 16 then 2 - a % 2 else 3)
    else if ws < wd then halves (a * cnt * ws) ((a + 1) * cnt * ws) k else 3
  | .fcvt f =>
    let F := G.fmt f.fmt.toNat
    let D := G.fmt (f.aux.toNat % 16)
    let a := bits f.aux.toNat 6 4
    if n = 1 then (if F.perLane * D.slot = 16 then 2 - a % 2 else 3)
    else if D.perLane < F.perLane then halves (a * D.perLane * F.slot) ((a + 1) * D.perLane * F.slot) k else 3
  | .stg f | .sts f | .cstore f => if n = 1 && decide (f.width.toNat < 4) then 1 else 3
  | .bfx _ => if n = 1 then 1 else 3
  | .bfi _ => if n = 2 then 1 else 3
  | .shl f | .shr f | .sra f | .rot f => if n = 1 && decide (16 < WF.tyWidth (WF.ty f)) then 1 else 3
  | _ => 3
where
  /-- The halves of the k-th register that bits `lo` to `hi - 1` of an operand touch. -/
  halves (lo hi k : Nat) : Nat :=
    (if decide (lo < 32 * k + 16) && decide (32 * k < hi) then 1 else 0)
    + (if decide (lo < 32 * k + 32) && decide (32 * k + 16 < hi) then 2 else 0)

/-! ## Runs (R172-R175) -/

/-- Every lane word of the run has issued. -/
def Run.issued (r : Run) : Bool := decide (r.len ≤ r.next)

/-- A run whose fetch is parked: its sets are not recorded yet (R174). -/
def Run.unknown (r : Run) : Bool := r.words.isEmpty

/-- A scalar read of mK waits (R173). -/
def Gang.maskReadWaits (G : Gang) (k : Nat) : Bool := G.runs.any fun r => r.unknown || r.maskWr.contains k

/-- A scalar write of mK waits (R173). -/
def Gang.maskWriteWaits (G : Gang) (k : Nat) : Bool := G.runs.any fun r => !r.issued || r.maskWr.contains k

/-- A scalar write of sN waits (R173). -/
def Gang.sregWriteWaits (G : Gang) (n : Nat) : Bool := G.runs.any fun r => !r.issued && (r.unknown || r.scalRd.contains n)

/-- Every run queued has issued its last word (R91, R196, R311). -/
def Gang.runsIssued (G : Gang) : Bool := G.runs.all Run.issued

/-- Whether a lane word of the gang is parked (R367). -/
def Gang.parkedWord (G : Gang) : Bool := G.pend.any fun x => x.park.isSome

/-- An outstanding-operation counter (R309). -/
def Gang.count (G : Gang) (c : Cnt) : Nat := (G.pend.filter fun x => decide (x.cls = some c)).length

/-- The fields of a memory word (R60). -/
def memoryFields : Instr → Option LM
  | .ldg f | .stg f | .ldb f | .stb f | .lds f | .sts f | .ldl f | .ldc f | .cstore f | .atom f | .redg f | .pref f
  | .atomxAdd f | .atomxRd f | .atomxRdclr f | .atomxClr f => some f
  | _ => none

/-- A memory word that acquires and is not complete, or an access before a reconvergence point that is not: later memory, tile and
engine words wait (R185, R318). -/
def Gang.acquiring (G : Gang) : Bool :=
  G.pend.any fun x => !x.done && ((memoryFields x.word).any (fun f => f.order.toNat % 2 == 1)
    || (x.rc && (decide (x.kind = .load) || decide (x.kind = .store))))

/-- Later memory, tile, engine and Marver words, and scalar memory, semaphore, CBGO, LAUNCH and SPAWN words wait while a
word is parked (R367) or an acquire has not taken effect (R318). -/
def Gang.gated (G : Gang) : Bool := G.parkedWord || G.acquiring

/-- A word that reads memory by accesses of its own, or takes entries that a release may stand before (R320 cases 1 and 6). -/
def Pend.reads (x : Pend) : Bool :=
  match x.word with
  | .xldp _ | .xpat _ | .sdec _ | .tld _ | .qtake _ | .plnext _ => true
  | _ => decide (x.kind = .load)

/-- An acquire waits for the gang's earlier reads: none of them may be performed after an access that follows the acquire (R320 case 1). -/
def Gang.acquireWaits (G : Gang) : Bool := G.pend.any fun x => x.reads && !x.done

/-- A release waits for the loads and stores that are not performed (R318). -/
def Gang.releaseWaits (G : Gang) : Bool :=
  G.pend.any fun x => (decide (x.kind = .load) || decide (x.kind = .store)) && !x.done

/-- A scope whose point of performance is the home slice (R316). -/
def State.far (s : State) (G : Gang) (scope : Nat) : Bool :=
  decide (2 ≤ scope) || (decide (scope = 1) && (s.wg? G.place.wg).any Wg.twin)

/-- The cache part of a release: a far one cleans the core's L1 (R318). -/
def State.release (s : State) (G : Gang) (scope : Nat) : State :=
  if s.far G scope then s.cleanLines G.place.core (fun l => decide (l.dm ≠ 0) || decide (l.cm ≠ 0)) else s

/-- The cache part of an acquire: a far one drops the core's L1 (R318). -/
def State.acquire (s : State) (G : Gang) (scope : Nat) : State :=
  if s.far G scope then s.dropLines G.place.core fun _ => true else s

/-- A counter at its ceiling (R310). -/
def Gang.full (G : Gang) (c : Cnt) : Bool := decide (63 ≤ G.count c)

/-! ## Quarters (R178) -/

/-- A quarter in a clk: when the clk is new, the pointers have moved past the last gang chosen at each level, and nothing is chosen. -/
def Quarter.at' (q : Quarter) (now : Nat) : Quarter :=
  if q.clk = now then q
  else { q with clk := now, taken := [],
                ptrs := q.taken.foldl (fun m t => if t.2.1 < 16 then SMap.put t.2.1 ((t.1 + 1) % 16) m else m) q.ptrs }

/-- A gang's priority level (R178). -/
def State.level (s : State) (G : Gang) : Nat := ((s.grid? G.grid).elim 0 Grid.prio) % 4

/-! ## The scalar stream -/

/-- What a scalar word waits for: masks and scalar registers it reads and writes (R173), and the gate of R367. -/
structure ScalarUse where
  mrd   : List Nat := []
  mwr   : List Nat := []
  swr   : List Nat := []
  gated : Bool := false

/-- The waits of R173, R318 and R367. -/
def ScalarUse.waits (u : ScalarUse) (G : Gang) : Bool :=
  u.mrd.any G.maskReadWaits || u.mwr.any G.maskWriteWaits || u.swr.any G.sregWriteWaits || (u.gated && G.gated)

/-- The workgroup of a gang runs (R27, R389). -/
def State.wgStage (s : State) (G : Gang) : Option Stage := (s.wg? G.place.wg).map Wg.stage

/-- The ring header at which a gang waits in RTAKE or RPOST (R302). -/
def Wait.ring? : Wait → Option Nat
  | .ring off => Option.some off
  | _ => Option.none

def Wait.onRing (w : Wait) : Bool := w.ring?.isSome

/-- The gang's scalar stream can issue: awake, not waiting, its workgroup running, its partition not halted
(R177, R189, R379). -/
def State.scalarReady (s : State) (G : Gang) : Bool :=
  decide (G.life = .awake) && (decide (G.wait = .none) || G.wait.onRing)
  && decide (s.wgStage G = some .running) && !s.stopped (partOfVnum G.vnum)

/-- A word of the gang has issued: the core's idle counter restarts (R36), the gang's last issue is now (R38), and a
park of an earlier try of the word is over (R372). -/
def State.issuedNow (s : State) (g : Nat) (G : Gang) : State :=
  (s.modGang g fun G => { G with issued := s.now, park := none, promoS := false, sinceS := s.now }).modCore G.place.core fun c => { c with issued := s.now }

/-- What a word's own effect answers: it waits; it is illegal, which changes nothing before the fault (R72); it takes a fault or
parks whole, with the state that leaves; or it has issued. -/
inductive Issued where
  | wait
  | illegal
  | stop (s : State)
  | done (s : State)

/-- The frame of every scalar word: nothing happens while the stream cannot issue or a wait holds; an illegal word takes
the illegal-instruction fault (R72); else the word's own effect is taken. -/
def scalarWord (i : Instr) (u : ScalarUse) (f : Nat → Gang → State → Issued) (s : State) :
    Host.Outcome State Fault Refusal :=
  match s.gang? s.cur with
  | none => .next s
  | some G =>
    if !s.scalarReady G then .next s
    else if !i.wf then .next (s.illegalScalar G ((encode i).headD 0).toNat)
    else if u.waits G then .next s
    else
      match f s.cur G s with
      | .wait => .next s
      | .illegal => .next (s.illegalScalar G ((encode i).headD 0).toNat)
      | .stop t => .next t
      | .done t => .next (t.issuedNow s.cur G)

/-- A scalar word whose effect is on its gang alone, and which then goes on at the next word. -/
def gangWord (i : Instr) (u : ScalarUse) (h : Gang → Gang) (s : State) : Host.Outcome State Fault Refusal :=
  scalarWord i u (fun g G s => .done (s.putGang g (h G).next)) s

/-! ## The lane stream -/

/-- The lane stream can issue the next word of a run (R67, R177, R379, R389). -/
def State.laneReady (s : State) (G : Gang) (r : Run) : Bool :=
  decide (G.life = .awake) && !r.unknown && r.ended.isNone && r.park.isNone && !s.stopped (partOfVnum G.vnum)
  && (decide (s.wgStage G = some .running) || (decide (s.wgStage G = some .saving) && decide (0 < r.next)))

/-- Whether a mask has a write outstanding (R115). -/
def Gang.maskPending (G : Gang) (k : Nat) : Bool := G.pend.any fun x => x.masks.any fun m => decide (m.1 = k)

/-- A main register whose result is outstanding (R69, R71, R115). -/
def Gang.regPending (G : Gang) (i : Nat) : Bool := G.pend.any fun x => x.dests.contains i

/-- A register that is pinned (R121). -/
def Gang.pinned (G : Gang) (key : Nat) : Bool := G.pend.any fun x => x.pins.contains key

/-- A scale register that a line load or a TRD has still to write (R113, R241, R267). -/
def Gang.scalePending (G : Gang) (k : Nat) : Bool :=
  G.pend.any fun x => !x.done && (match x.word with
    | .ldb _ | .trd _ => (scaleRegs G x.word).contains k
    | _ => false)

/-- The waits of R69, R113, R115 and R367 at issue. -/
def Use.waits (u : Use) (i : Instr) (G : Gang) (n : Nat) (msel : Option Nat) : Bool :=
  (u.mainReads G n).any G.regPending || (scaleRegs G i).any G.scalePending
  || (u.writes G n).any (fun r => (decide (r < 256) && G.regPending r) || G.pinned r)
  || (msel.toList ++ u.mrd ++ u.mwr).any G.maskPending
  || (u.gated && G.gated)

/-- The lanes in which a word reads a freed main register, with the first such register in the order of its operands, by its
physical index: where several are freed, the record has room for one, and R120 does not say which, nor under which index in window
mode (DESIGN CHOICE, log entry 64). -/
def Use.freedLanes (u : Use) (x : Issue) : Option (Nat × Nat) :=
  let bad := fun (l r : Nat) => x.gang.lane.freed (l * 1024 + r)
  let regs := (u.mainReads x.gang x.n).filter fun r => x.act.any fun l => bad l r
  match regs with
  | [] => none
  | r :: _ => some (r, maskOf (x.act.filter fun l => bad l r))

/-! ### Errors of the lane registers (R392, R393) -/

/-- An error that a word's reads meet: register, lane, half, and its FATE (R394). -/
structure Met where
  rkey : Nat
  lane : Nat
  half : Nat
  fate : Nat

/-- The registers of a source operand. -/
def srcRegs (G : Gang) (n : Nat) (sn : Src × Nat) : List Nat :=
  match sn.1.file with
  | .special => []
  | f => (List.range sn.2).map fun k => G.rkey n f (sn.1.idx.toNat + k)

/-- The errors that a word's source reads meet (R393): an active lane's in a half that the word uses is attributed (FATE 00), one in
a freed register is FATE 10, any other is exempt (FATE 01). -/
def Use.met (u : Use) (i : Instr) (x : Issue) : List Met :=
  if x.gang.lane.err.isEmpty then []
  else
    (u.srcs.zipIdx).flatMap fun sn => ((srcRegs x.gang x.n sn.1).zipIdx).flatMap fun rk =>
      (List.range 32).flatMap fun l => ([0, 1].filter fun h => x.gang.lane.err.contains (2 * (l * 1024 + rk.1) + h)).map fun h =>
        ⟨rk.1, l, h, if decide (rk.1 < 256) && x.gang.lane.freed (l * 1024 + rk.1) then 2
          else if x.act.contains l && bit (halvesUsed x.gang i sn.2 rk.2) h then 0 else 1⟩

/-- The sources as a word with errors among them reads them: an attributed error gives P, and for a word that delivers values across
lanes so does an exempt lane's (R393). -/
def Issue.sensed (x : Issue) (i : Instr) (ms : List Met) : Issue :=
  let set := fun (L : LaneFile) (m : Met) =>
    if m.fate = 0 ∨ (m.fate = 1 ∧ crossLane i) then { L with regs := SMap.modify (m.lane * 1024 + m.rkey) (fun c => { c with p := true }) L.regs }
    else L
  if ms.isEmpty then x else { x with gang := { x.gang with lane := ms.foldl set x.gang.lane } }

/-- Count an error of a register under a structure and write its entry into the counter page (R393, R394). -/
def State.registerEntry (s : State) (struct : Nat) (G : Gang) (m : Met) : State :=
  let p := partOfVnum G.vnum
  let s := s.count p (0x008 + 16 * struct)
  let page := stackBase p + (s.part p).ctrPage
  let i := s.read64 (page + 0x1F8)
  let w0 := G.place.core * 2 ^ 55 + G.place.slot * 2 ^ 49 + m.rkey * 2 ^ 39 + m.lane * 2 ^ 34 + m.half * 2 ^ 33 + m.fate * 2 ^ 31
  let clk := (s.now - (s.core G.place.core).clkBase) % 2 ^ 64
  let s := s.homeWrite (Req.firmware p) (page + 0x200 + 16 * (i % 64)) (wordBytes [w0, clk]) false
  s.homeWrite (Req.firmware p) (page + 0x1F8) (toBytes 8 ((i + 1) % 2 ^ 64)) false

/-- Count an error of a lane register (R393). -/
def State.registerError (s : State) (G : Gang) (m : Met) : State := s.registerEntry 0 G m

/-- Count the errors that a word met (R393). -/
def State.registerErrors (s : State) (G : Gang) (ms : List Met) : State := ms.foldl (fun s m => s.registerError G m) s

/-- The errors in the lane registers that a test of their keys selects, as a save or a spill reads them (FATE 11, or 10 in a freed
register): counted and logged, and nothing else (R122, R393). -/
def State.savingErrors (s : State) (G : Gang) (sel : Nat → Bool) : State :=
  s.registerErrors G ((G.lane.err.filter fun e => sel (e / 2)).map fun e =>
    ⟨e / 2 % 1024, e / 2048, e % 2, if decide (e / 2 % 1024 < 256) && G.lane.freed (e / 2) then 2 else 3⟩)

/-- The halt of strict mode for an attributed error (R392, R393): the register of the first, and the lanes in which it was met. -/
def State.strictRegister (s : State) (G : Gang) (r : Run) (ms : List Met) : Option State :=
  if !(s.part (partOfVnum G.vnum)).strict then none
  else
    match ms.filter fun m => decide (m.fate = 0) with
    | [] => none
    | m :: t =>
      let lanes := maskOf (((m :: t).filter fun y => decide (y.rkey = m.rkey)).foldl (fun ls y => insNat y.lane ls) [])
      some ((s.registerErrors G ms).halt (partOfVnum G.vnum) (s.laneAgent G r.addr r.next) (plainFault 0x19 0 0 (2 ^ 63 + m.rkey)) lanes)

/-- Free the registers that carry a last-use mark, in the active lanes (R119). -/
def Use.freeAll (u : Use) (x : Issue) (L : LaneFile) : LaneFile :=
  (u.frees x.gang x.n).foldl (fun L r => x.act.foldl (fun L l => L.free l r) L) L

/-- The lane word at the head of a gang's runs, as it issues under a mask. -/
def mkIssue (s : State) (g : Nat) (G : Gang) (r : Run) (msel : Option Nat) : Issue :=
  let act := match msel with
    | some k => G.active k
    | none => []
  ⟨g, G, s.regsOf G, act, G.helpers act, s.fresh, r, (s.gangIds G).2⟩

/-- A lane word has issued: the run's next word is due, a free-value number is used up, the issue clocks are set. -/
def State.laneIssued (s : State) (g : Nat) (G : Gang) (serial : Nat) : State :=
  let s := s.modGang g fun G => { G with
    runs := G.runs.map fun r => if r.serial = serial then { r with next := r.next + 1 } else r, issued := s.now, promo := false,
    since := s.now }
  let s := s.modCore G.place.core fun c => { c with issued := s.now }
  { s with fresh := s.fresh + 1 }

/-- The frame of every lane word (R25, R26, R56, R67, R69, R72, R115, R119, R120, R177). The effect `f` sees the
sources as they were; its state has the freed registers already freed. -/
def laneWord (i : Instr) (msel : Option Nat) (u : Use) (f : Issue → State → Issued) (s : State) :
    Host.Outcome State Fault Refusal :=
  match s.gang? s.cur with
  | none => .next s
  | some G =>
    match G.runs with
    | [] => .next s
    | r :: _ =>
      let n := s.regsOf G
      if !s.laneReady G r then .next s
      else if !i.wf || decide (r.len ≤ r.next) || !roleAllows G.place.role (laneOp i) || !u.allocated G n then
        .next (s.illegalLane G r.addr r.next (wordsNat (encode i)))
      else if u.waits i G n msel then .next s
      else
        let x0 := mkIssue s s.cur G r msel
        let ms := u.met i x0
        let x := x0.sensed i ms
        match if G.sp.lutrap && u.trap then u.freedLanes x else none with
        | some (reg, lanes) =>
          .next (s.halt (partOfVnum G.vnum) (s.laneAgent G r.addr r.next) (plainFault 0x14 0 0 (lanes * 2 ^ 32 + reg)) lanes)
        | none =>
          match s.pay (4 * G.place.core + G.place.qtr) G.vnum 1 with
          | none => .next s
          | some p =>
            match f x (p.modGang s.cur fun G => { G with lane := u.freeAll x G.lane }) with
            | .wait => .next s
            | .illegal => .next (s.illegalLane G r.addr r.next (wordsNat (encode i)))
            | .stop t => .next (t.registerErrors G ms)
            | .done t =>
              match s.strictRegister G r ms with
              | some h => .next h
              | none => .next ((t.registerErrors G ms).laneIssued s.cur G r.serial)
where
  /-- The words of a lane word as one number. -/
  wordsNat : List (BitVec 32) → Nat
    | [] => 0
    | w :: t => w.toNat + 2 ^ 32 * wordsNat t

/-- A halting fault of the lane word being issued. -/
def Issue.halt (x : Issue) (f : FaultInfo) (lanes : Nat) (s : State) : State :=
  s.halt (partOfVnum x.gang.vnum) (s.laneAgent x.gang x.run.addr x.run.next) f lanes

/-- An outcome that depends on the issuing gang; nothing happens where there is none. -/
def State.withGang (s : State) (f : Gang → Host.Outcome State Fault Refusal) : Host.Outcome State Fault Refusal :=
  match s.gang? s.cur with
  | none => .next s
  | some G => f G

/-! ## Results -/

/-- What a vector-pipe word leaves in one lane: the registers of its destination, bits of masks, and the causes raised. -/
structure LaneOut where
  vals : List Cell := []
  bits : List (Nat × Bool) := []
  cond : Cond := {}

/-- Take the results of a word whose lanes stand alone: registers, masks (active lanes only, R34) and log records
(R145). -/
def Issue.finish (x : Issue) (d : Dst) (out : Nat → LaneOut) (s : State) : State :=
  let lanes := x.act ++ x.help
  let outs := lanes.map fun l => (l, out l)
  let act := outs.take x.act.length
  let s := s.modGang x.g fun G => { G with lane := outs.foldl (fun L lo => x.put d L lo.1 lo.2.vals) G.lane }
  let s := s.modGang x.g fun G => (List.range 8).foldl (fun G k =>
    G.mergeM k (act.filterMap fun lo => (lo.2.bits.find? fun b => decide (b.1 = k)).map fun b => (lo.1, b.2))) G
  s.logConds x.g x.run.next 0 x.run.lrun (condRecords (act.map fun lo => (lo.1, lo.2.cond)))

/-- A word of the vector pipes whose lanes stand alone. -/
def vectorWord (i : Instr) (msel : Nat) (u : Use) (d : Dst) (ok : Gang → Bool) (out : Issue → Nat → LaneOut) (s : State) :
    Host.Outcome State Fault Refusal :=
  laneWord i (some msel) u (fun x s => if ok x.gang then .done (x.finish d (out x) s) else .illegal) s

/-! ## Outstanding operations -/

/-- A new outstanding operation of the issuing word, with nothing to deliver yet. -/
def Issue.pend (x : Issue) (u : Use) (i : Instr) (k : PendKind) (c : Option Cnt) (id : Nat) : Pend :=
  { id := id, kind := k, cls := c, run := some x.run.serial, dests := (u.writes x.gang x.n).filter fun r => decide (r < 256),
    results := [], masks := [], pins := u.pins x.gang x.n, done := false, park := none, todo := 0, word := i, base := 0,
    lanes := maskOf x.act, widx := x.run.next, runAddr := x.run.addr, scales := [], ops := [], conds := [], xlats := [],
    lrun := x.run.lrun, rc := false }

/-- Append an outstanding operation to a gang. -/
def State.addPend (s : State) (g : Nat) (p : Pend) : State := s.modGang g fun G => { G with pend := G.pend ++ [p] }

/-- The results of a destination in one lane, as a pending operation delivers them. -/
def Issue.result (x : Issue) (d : Dst) (l : Nat) (cs : List Cell) : List (Nat × Cell) :=
  cs.zipIdx.map fun ck => (l * 1024 + x.gang.rkey x.n d.file (d.idx.toNat + ck.2), ck.1)

/-- Deliver an outstanding operation's results: registers of its active lanes, the helper shadow of the others while its
run lasts (R34, R159), masks, scale bytes, log records. -/
def State.deliver (s : State) (g : Nat) (p : Pend) : State :=
  let s := s.modGang g fun G =>
    let L := p.results.foldl (fun (L : LaneFile) kc =>
      let l := kc.1 / 1024
      if bit p.lanes l then L.write l (kc.1 % 1024) kc.2
      else if p.run.isSome then L.writeShadow l (kc.1 % 1024) kc.2 else L) G.lane
    let L := p.scales.foldl (fun (L : LaneFile) x => L.setScale x.1 x.2.1 x.2.2) L
    p.masks.foldl (fun (G : Gang) m =>
      G.mergeM m.1 ((setBits m.2.1).map fun l => (l, bit m.2.2 l))) { G with lane := L }
  s.logConds g p.widx 0 p.lrun p.conds

/-- An operation of a gang, if it is outstanding. -/
def State.pend? (s : State) (g id : Nat) : Option Pend :=
  (s.gang? g).bind fun G => G.pend.find? fun x => decide (x.id = id)

/-- Drop the completed operations of a class that have no older uncompleted one of their class (R310). -/
def settlePends (c : Cnt) : List Pend → List Pend
  | [] => []
  | x :: t =>
    if x.cls ≠ some c then x :: settlePends c t
    else if x.done then settlePends c t
    else x :: t

/-- An operation that has completed behind an older one of its class: it only counts (R310). -/
def Pend.finished (p : Pend) : Pend :=
  { p with done := true, dests := [], results := [], masks := [], pins := [], conds := [], scales := [], ops := [], park := none, todo := 0, xlats := [] }

/-- Complete an operation: deliver what it leaves; its counter falls once every older operation of its class has completed
(R310). -/
def State.complete (s : State) (g : Nat) (p : Pend) : State :=
  (s.deliver g p).modGang g fun G =>
    match p.cls with
    | none => { G with pend := G.pend.filter fun x => decide (x.id ≠ p.id) }
    | some c => { G with pend := settlePends c (G.pend.map fun x => if x.id = p.id then x.finished else x) }

/-- Remove an outstanding operation. -/
def State.dropPend (s : State) (g id : Nat) : State :=
  s.modGang g fun G => { G with pend := G.pend.filter fun x => decide (x.id ≠ id) }

end Sys2Proof.Machine
end

