-- ==== Sys2Proof/Machine/Integer.lean ====
section
/-! DEFINITION. The integer, logic, address and integer-conversion words of the lane stream (R128-R139). -/

namespace Sys2Proof.Machine

/-! ## Elements (R65, R128) -/

/-- Whether a type code is signed (R65). -/
def tySigned (t : Nat) : Bool := decide (t % 2 = 0)

/-- Element `e` of a source under a type code (R128). -/
def intElem (t e v : Nat) : Int :=
  let w := WF.tyWidth t
  let x := v / 2 ^ (w * e) % 2 ^ w
  if tySigned t then sext w x else (x : Int)

/-- The Range of a type code (R128). -/
def tyMin (t : Nat) : Int := if tySigned t then -((2 ^ (WF.tyWidth t - 1) : Nat) : Int) else 0
def tyMax (t : Nat) : Int := ((2 ^ (if tySigned t then WF.tyWidth t - 1 else WF.tyWidth t) : Nat) : Int) - 1

/-- Saturate an exact result to the Range (R129). -/
def intSat (t : Nat) (sat : Bool) (r : Int) : Int := if sat then max (tyMin t) (min (tyMax t) r) else r

/-- Put elements of `w` bits together. -/
def packElems (w : Nat) (rs : List Int) : Nat := (rs.zipIdx).foldl (fun n re => n + wrap w re.1 * 2 ^ (w * re.2)) 0

/-- An element-wise function of up to three sources (R129). -/
def mapElems (t : Nat) (sat : Bool) (f : Int → Int → Int → Int) (a b c : Nat) : Nat :=
  packElems (WF.tyWidth t) ((List.range (WF.tyCount t)).map fun e =>
    intSat t sat (f (intElem t e a) (intElem t e b) (intElem t e c)))

/-! ## The frame of a word whose results are numbers -/

/-- Sources of one or two registers in a lane, as numbers, with the OR of their poison (R116). -/
def Issue.args (x : Issue) (l : Nat) (srcs : List (Src × Bool)) : List Nat × Bool :=
  let vs := srcs.map fun sw => x.word l sw.1 sw.2
  (vs.map Prod.fst, vs.any Prod.snd)

/-- The operands of a word with sources of one or two registers and one destination. -/
def srcUse (srcs : List (Src × Bool)) (d : Dst) (wd : Bool) : Use :=
  { srcs := srcs.map fun sw => (sw.1, if sw.2 then 2 else 1), dsts := [(d, if wd then 2 else 1)] }

/-- A word that writes a function of its sources (R128, R116). -/
def numWord (i : Instr) (msel : Nat) (srcs : List (Src × Bool)) (d : Dst) (wd : Bool) (g : List Nat → Nat) (s : State) :
    Host.Outcome State Fault Refusal :=
  vectorWord i msel (srcUse srcs d wd) d (fun _ => true)
    (fun x l =>
      let r := x.args l srcs
      { vals := cells wd (g r.1) r.2 }) s

/-- Source `k` of a list of numbers. -/
def arg (vs : List Nat) (k : Nat) : Nat := vs.getD k 0

/-- An element-wise word of one, two or three sources of its type (R129). -/
def elemWord (i : Instr) (f : L3) (n : Nat) (g : Int → Int → Int → Int) (s : State) : Host.Outcome State Fault Refusal :=
  let w := WF.is64 f
  numWord i f.msel.toNat ([(f.a, w), (f.b, w), (f.c, w)].take n) f.dst w
    (fun vs => mapElems (WF.ty f) f.sat g (arg vs 0) (arg vs 1) (arg vs 2)) s

/-! ## Arithmetic (R130, R131) -/

def execIadd (f : L3) (s : State) : Host.Outcome State Fault Refusal := elemWord (.iadd f) f 2 (fun a b _ => a + b) s

def execIsub (f : L3) (s : State) : Host.Outcome State Fault Refusal := elemWord (.isub f) f 2 (fun a b _ => a - b) s

def execImul (f : L3) (s : State) : Host.Outcome State Fault Refusal := elemWord (.imul f) f 2 (fun a b _ => a * b) s

/-- IMULH: the high half of the product (R130). -/
def execImulh (f : L3) (s : State) : Host.Outcome State Fault Refusal :=
  elemWord (.imulh f) f 2 (fun a b _ => Int.fdiv (a * b) ((2 ^ WF.tyWidth (WF.ty f) : Nat) : Int)) s

/-- IMAD, and its widening form with 64-bit C and D (R130). -/
def execImad (f : L3) (s : State) : Host.Outcome State Fault Refusal :=
  if WF.fnHi f = 1 then
    let t := WF.ty f
    numWord (.imad f) f.msel.toNat [(f.a, false), (f.b, false), (f.c, true)] f.dst true
      (fun vs => wrap 64 (intSat (t + 2) f.sat
        (intElem t 0 (arg vs 0) * intElem t 0 (arg vs 1) + intElem (t + 2) 0 (arg vs 2)))) s
  else elemWord (.imad f) f 3 (fun a b c => a * b + c) s

def execIabs (f : L3) (s : State) : Host.Outcome State Fault Refusal :=
  elemWord (.iabs f) f 1 (fun a _ _ => (a.natAbs : Int)) s

def execIneg (f : L3) (s : State) : Host.Outcome State Fault Refusal := elemWord (.ineg f) f 1 (fun a _ _ => -a) s

def execImin (f : L3) (s : State) : Host.Outcome State Fault Refusal := elemWord (.imin f) f 2 (fun a b _ => min a b) s

def execImax (f : L3) (s : State) : Host.Outcome State Fault Refusal := elemWord (.imax f) f 2 (fun a b _ => max a b) s

def execIclamp (f : L3) (s : State) : Host.Outcome State Fault Refusal :=
  elemWord (.iclamp f) f 3 (fun a b c => min (max a b) c) s

/-- IADDC: a carry in from mask K, a carry out to mask J; 0 means none (R131). -/
def execIaddc (f : L3) (s : State) : Host.Outcome State Fault Refusal :=
  let j := f.aux.toNat % 8
  let k := bits f.aux.toNat 5 3
  let srcs := [(f.a, false), (f.b, false)]
  vectorWord (.iaddc f) f.msel.toNat
    { srcUse srcs f.dst false with mrd := if k = 0 then [] else [k], mwr := if j = 0 then [] else [j] } f.dst (fun _ => true)
    (fun x l =>
      let r := x.args l srcs
      let cin := if k = 0 then false else (x.gang.mreg k).getLsbD l
      let v := arg r.1 0 + arg r.1 1 + cin.toNat
      { vals := cells false v r.2, bits := if j = 0 then [] else [(j, decide (2 ^ 32 ≤ v))] }) s

/-! ## Logic and bits (R132, R133) -/

/-- A bitwise word of two sources, the second complemented with `.nb` (R132). -/
def logicWord (i : Instr) (f : L3) (g : Nat → Nat → Nat) (s : State) : Host.Outcome State Fault Refusal :=
  let w := WF.is64 f
  let n := if w then 64 else 32
  numWord i f.msel.toNat [(f.a, w), (f.b, w)] f.dst w
    (fun vs => g (arg vs 0) (if WF.fnHi f = 1 then 2 ^ n - 1 - arg vs 1 else arg vs 1)) s

def execAnd (f : L3) (s : State) : Host.Outcome State Fault Refusal := logicWord (.and f) f (· &&& ·) s

def execOr (f : L3) (s : State) : Host.Outcome State Fault Refusal := logicWord (.or f) f (· ||| ·) s

def execXor (f : L3) (s : State) : Host.Outcome State Fault Refusal := logicWord (.xor f) f (· ^^^ ·) s

def execNot (f : L3) (s : State) : Host.Outcome State Fault Refusal :=
  let w := WF.is64 f
  numWord (.not f) f.msel.toNat [(f.a, w)] f.dst w (fun vs => 2 ^ (if w then 64 else 32) - 1 - arg vs 0) s

/-- A shift or rotate of each element by its own count, one 32-bit register for 64-bit types (R132): `g` takes the width,
the element's bits and the count modulo the width. -/
def shiftWord (i : Instr) (f : L3) (g : Nat → Nat → Nat → Nat) (s : State) : Host.Outcome State Fault Refusal :=
  let wide := WF.is64 f
  let t := WF.ty f
  let w := WF.tyWidth t
  numWord i f.msel.toNat [(f.a, wide), (f.b, false)] f.dst wide
    (fun vs => (List.range (WF.tyCount t)).foldl (fun n e =>
      let a := arg vs 0 / 2 ^ (w * e) % 2 ^ w
      let c := arg vs 1 / 2 ^ (w * e) % 2 ^ w % w
      n + g w a c % 2 ^ w * 2 ^ (w * e)) 0) s

def execShl (f : L3) (s : State) : Host.Outcome State Fault Refusal := shiftWord (.shl f) f (fun _ a c => a * 2 ^ c) s

def execShr (f : L3) (s : State) : Host.Outcome State Fault Refusal := shiftWord (.shr f) f (fun _ a c => a / 2 ^ c) s

def execSra (f : L3) (s : State) : Host.Outcome State Fault Refusal :=
  shiftWord (.sra f) f (fun w a c => wrap w (Int.fdiv (sext w a) ((2 ^ c : Nat) : Int))) s

def execRot (f : L3) (s : State) : Host.Outcome State Fault Refusal :=
  shiftWord (.rot f) f (fun w a c => rotl w a (if WF.fnHi f = 1 then w - c else c)) s

/-- A word of one 32-bit or 64-bit source with a function of the width and the value. -/
def bitsWord (i : Instr) (f : L3) (wd : Bool) (g : Nat → Nat → Nat) (s : State) : Host.Outcome State Fault Refusal :=
  let w := WF.is64 f
  numWord i f.msel.toNat [(f.a, w)] f.dst wd (fun vs => g (if w then 64 else 32) (arg vs 0)) s

def execPopc (f : L3) (s : State) : Host.Outcome State Fault Refusal := bitsWord (.popc f) f false popCount s

def execClz (f : L3) (s : State) : Host.Outcome State Fault Refusal := bitsWord (.clz f) f false clz s

def execBrev (f : L3) (s : State) : Host.Outcome State Fault Refusal := bitsWord (.brev f) f (WF.is64 f) revBits s

/-- BFX: extract a field (R133). -/
def execBfx (f : L3) (s : State) : Host.Outcome State Fault Refusal :=
  let wide := WF.is64 f
  let w := if wide then 64 else 32
  numWord (.bfx f) f.msel.toNat [(f.a, wide), (f.b, false)] f.dst wide
    (fun vs =>
      let pos := arg vs 1 % 256
      let len := arg vs 1 / 256 % 256
      if len = 0 ∨ w ≤ pos then 0
      else
        let n := min len (w - pos)
        let v := arg vs 0 / 2 ^ pos % 2 ^ n
        if tySigned (WF.ty f) then wrap w (sext n v) else v) s

/-- BFI: insert a field (R133). -/
def execBfi (f : L3) (s : State) : Host.Outcome State Fault Refusal :=
  let wide := WF.is64 f
  let w := if wide then 64 else 32
  numWord (.bfi f) f.msel.toNat [(f.a, wide), (f.b, wide), (f.c, false)] f.dst wide
    (fun vs =>
      let pos := arg vs 2 % 256
      let len := arg vs 2 / 256 % 256
      if len = 0 ∨ w ≤ pos then arg vs 0
      else
        let n := min len (w - pos)
        setField (arg vs 0) (pos + n - 1) pos (arg vs 1)) s

/-! ## Compare, select and move (R134-R136) -/

/-- ISET: a comparison into a mask; the poison tests read A alone (R134). -/
def execIset (f : L3) (s : State) : Host.Outcome State Fault Refusal :=
  let wide := WF.is64 f
  let cond := WF.fnHi f
  let j := f.aux.toNat % 8
  let comb := bits f.aux.toNat 4 3
  let srcs := if cond = 6 ∨ cond = 7 then [(f.a, wide)] else [(f.a, wide), (f.b, wide)]
  vectorWord (.iset f) f.msel.toNat { srcUse srcs f.dst false with mwr := [j] } f.dst (fun _ => true)
    (fun x l =>
      let r := x.args l srcs
      let a := arg r.1 0
      let b := arg r.1 1
      let c := isetCond cond (intElem (WF.ty f) 0 a) (intElem (WF.ty f) 0 b) a b (x.word l f.a wide).2 r.2
      { bits := [(j, combineBit comb ((x.gang.mreg j).getLsbD l) c)] }) s

/-- SEL: one of two sources by a mask bit, with that source's poison (R135). -/
def execSel (f : L3) (s : State) : Host.Outcome State Fault Refusal :=
  let wide := WF.is64 f
  let k := f.aux.toNat % 8
  vectorWord (.sel f) f.msel.toNat { srcUse [(f.a, wide), (f.b, wide)] f.dst wide with mrd := [k] } f.dst (fun _ => true)
    (fun x l =>
      let r := x.word l (if (x.gang.mreg k).getLsbD l then f.a else f.b) wide
      { vals := cells wide r.1 r.2 }) s

/-- MOVL (R135). -/
def execMovl (f : L3) (s : State) : Host.Outcome State Fault Refusal :=
  let wide := WF.is64 f
  numWord (.movl f) f.msel.toNat [(f.a, wide)] f.dst wide (fun vs => arg vs 0) s

/-- LIM: a 32-bit immediate, sign-extended or zero-extended into a pair (R136). -/
def execLim (f : LI) (s : State) : Host.Outcome State Fault Refusal :=
  numWord (.lim f) f.msel.toNat [] f.dst (decide (f.fn ≠ 0))
    (fun _ => if f.fn = 1 then wrap 64 f.imm.toInt else f.imm.toNat) s

/-! ## Addresses (R137) -/

/-- LEA: base plus a scaled 32-bit index, 32 or 64 bits wide (R137). -/
def execLea (f : L3) (s : State) : Host.Outcome State Fault Refusal :=
  let a32 := bit f.fn.toNat 4
  let sx := bit f.fn.toNat 3
  numWord (.lea f) f.msel.toNat [(f.a, !a32), (f.b, false)] f.dst (!a32)
    (fun vs =>
      let idx : Int := if sx then sext 32 (arg vs 1) else (arg vs 1 : Int)
      wrap (if a32 then 32 else 64) ((arg vs 0 : Int) + idx * ((2 ^ (f.fn.toNat % 8) : Nat) : Int))) s

/-- LEA64: base plus a scaled 64-bit index (R137). -/
def execLea64 (f : L3) (s : State) : Host.Outcome State Fault Refusal :=
  numWord (.lea64 f) f.msel.toNat [(f.a, true), (f.b, true)] f.dst true
    (fun vs => (arg vs 0 + arg vs 1 * 2 ^ (f.fn.toNat % 8)) % 2 ^ 64) s

/-! ## Conversion and dot product (R138, R139) -/

/-- The value CVTI leaves in its destination, `old` being the destination's present value (R138). -/
def cvtiValue (st dt : Nat) (sat : Bool) (k a old : Nat) : Nat :=
  let ws := WF.tyWidth st
  let wd := WF.tyWidth dt
  let ns := WF.tyCount st
  let nd := WF.tyCount dt
  let val := fun e => wrap wd (intSat dt sat (intElem st e a))
  if wd < ws then
    let keep := if nd = ns then 0 else old
    (List.range ns).foldl (fun n e => setField n (wd * (k * ns + e) + wd - 1) (wd * (k * ns + e)) (val e)) keep
  else (List.range nd).foldl (fun n e => n + val (k * nd + e) * 2 ^ (wd * e)) 0

/-- CVTI; a narrowing that keeps other elements also reads its destination (R138). -/
def execCvti (f : L3) (s : State) : Host.Outcome State Fault Refusal :=
  let st := WF.cvtS f
  let dt := WF.ty f
  let ws := decide (WF.tyWidth st = 64)
  let keeps := decide (WF.tyWidth dt < WF.tyWidth st) && decide (WF.tyCount dt ≠ WF.tyCount st)
  let srcs := if keeps then [(f.a, ws), (⟨false, f.dst.file, f.dst.idx⟩, false)] else [(f.a, ws)]
  numWord (.cvti f) f.msel.toNat srcs f.dst (WF.is64 f)
    (fun vs => cvtiValue st dt f.sat f.aux.toNat (arg vs 0) (arg vs 1)) s

/-- IDOT4 (R139). -/
def execIdot4 (f : L3) (s : State) : Host.Outcome State Fault Refusal :=
  let ta := WF.ty f
  let tb := if bit f.fn.toNat 3 then 6 else 7
  numWord (.idot4 f) f.msel.toNat [(f.a, false), (f.b, false), (f.c, false)] f.dst false
    (fun vs => wrap 32 (intSat 0 f.sat ((List.range 4).foldl (fun r e =>
      r + intElem ta e (arg vs 0) * intElem tb e (arg vs 1)) (intElem 0 0 (arg vs 2))))) s

/-! ## LNOP and ENDRUN (R70, R71) -/

/-- LNOP: nothing (R70). -/
def execLnop (s : State) : Host.Outcome State Fault Refusal := laneWord .lnop none {} (fun _ s => .done s) s

end Sys2Proof.Machine
end

