-- ==== Sys2Proof/Machine/Float.lean ====
section
/-! DEFINITION. Floating-point arithmetic, comparison, classification and conversion, the packed half forms, and the
special functions (R140-R160). -/

namespace Sys2Proof.Machine

/-! ## Elements and modifiers (R140, R141, R143) -/

/-- The value of element `e` of a lane register under a class SC entry (R140, R141). -/
def Fmt.elem (F : Fmt) (v e : Nat) : Num := F.decode (v / 2 ^ (F.slot * e) % 2 ^ F.width)

/-- Put element codes of a class SC entry together. -/
def Fmt.pack (F : Fmt) (cs : List Nat) : Nat := (cs.zipIdx).foldl (fun n ce => n + ce.1 * 2 ^ (F.slot * ce.2)) 0

/-- Source modifiers of operand `k`: absolute value, then negation (R143). -/
def modify (fn k : Nat) (v : Num) : Num :=
  let a := if bit fn (2 * k + 1) then v.abs else v
  if bit fn (2 * k) then a.neg else a

/-- An element's code with the causes it raised. -/
structure Elem where
  code : Nat
  cond : Cond

/-- Round an exact result that may carry the invalid cause (R141, R144, R101). -/
def Fmt.round (F : Fmt) (mode : Nat) (sat : Bool) (rb : Nat) (v : Num × Bool) : Elem :=
  let c := F.conv mode sat rb v.1
  ⟨c.code, ⟨v.2 || c.inv, false, c.ov⟩⟩

/-- The causes of the elements of a lane; none in a lane that read poison (R145). -/
def laneCond (p : Bool) (es : List Elem) : Cond := if p then {} else es.foldl (fun c e => c.or e.cond) {}

/-! ## Arithmetic (R148) -/

/-- An element-wise word of `n` sources: `g` takes the rounding's sign of a cancelled sum and the sources (R148). -/
def floatWord (i : Instr) (f : L3) (n : Nat) (cls : Fmt → Bool) (g : Bool → Num → Num → Num → Num × Bool) (s : State) :
    Host.Outcome State Fault Refusal :=
  let srcs := [(f.a, false), (f.b, false), (f.c, false)].take n
  vectorWord i f.msel.toNat (srcUse srcs f.dst false) f.dst (fun G => cls (G.fmt f.fmt.toNat))
    (fun x l =>
      let F := x.gang.fmt f.fmt.toNat
      let r := x.args l srcs
      let v := fun k e => modify f.fn.toNat k (F.elem (arg r.1 k) e)
      let es := (List.range F.perLane).map fun e =>
        F.round f.rnd.toNat f.sat (x.rb l e) (g (decide (f.rnd = 2)) (v 0 e) (v 1 e) (v 2 e))
      { vals := cells false (F.pack (es.map Elem.code)) r.2, cond := laneCond r.2 es }) s

def addNum (rdn : Bool) (a b _ : Num) : Num × Bool := Num.sum [a, b] rdn
def subNum (rdn : Bool) (a b _ : Num) : Num × Bool := Num.sum [a, b.neg] rdn
def mulNum (_ : Bool) (a b _ : Num) : Num × Bool := a.mul b
def fmaNum (rdn : Bool) (a b c : Num) : Num × Bool := Num.dot [(a, b)] [c] rdn

def execFadd (f : L3) (s : State) : Host.Outcome State Fault Refusal := floatWord (.fadd f) f 2 Fmt.s32 addNum s

def execFsub (f : L3) (s : State) : Host.Outcome State Fault Refusal := floatWord (.fsub f) f 2 Fmt.s32 subNum s

def execFmul (f : L3) (s : State) : Host.Outcome State Fault Refusal := floatWord (.fmul f) f 2 Fmt.s32 mulNum s

def execFfma (f : L3) (s : State) : Host.Outcome State Fault Refusal := floatWord (.ffma f) f 3 Fmt.s32 fmaNum s

def execHadd2 (f : L3) (s : State) : Host.Outcome State Fault Refusal := floatWord (.hadd2 f) f 2 Fmt.s16 addNum s

def execHmul2 (f : L3) (s : State) : Host.Outcome State Fault Refusal := floatWord (.hmul2 f) f 2 Fmt.s16 mulNum s

def execHfma2 (f : L3) (s : State) : Host.Outcome State Fault Refusal := floatWord (.hfma2 f) f 3 Fmt.s16 fmaNum s

/-! ## Minimum and maximum (R149) -/

/-- The smaller of two values: −0 below +0, a NaN gives the other source (R149). -/
def Num.minOf (a b : Num) : Num :=
  if a.isNan then b else if b.isNan then a
  else if a.lt b then a else if b.lt a then b else if a.sign then a else b

/-- The larger of two values (R149). -/
def Num.maxOf (a b : Num) : Num :=
  if a.isNan then b else if b.isNan then a
  else if a.lt b then b else if b.lt a then a else if a.sign then b else a

/-- Drop the causes of an element-wise function that raises none. -/
def quiet (g : Num → Num → Num) (_ : Bool) (a b _ : Num) : Num × Bool := (g a b, false)

def execFmin (f : L3) (s : State) : Host.Outcome State Fault Refusal := floatWord (.fmin f) f 2 Fmt.s32 (quiet Num.minOf) s

def execFmax (f : L3) (s : State) : Host.Outcome State Fault Refusal := floatWord (.fmax f) f 2 Fmt.s32 (quiet Num.maxOf) s

/-! ## Compare and classify (R150, R151) -/

/-- FSET (R150). -/
def execFset (f : L3) (s : State) : Host.Outcome State Fault Refusal :=
  let j := f.aux.toNat % 8
  let comb := bits f.aux.toNat 4 3
  let srcs := [(f.a, false), (f.b, false)]
  vectorWord (.fset f) f.msel.toNat { srcUse srcs f.dst false with mwr := [j] } f.dst (fun G => (G.fmt f.fmt.toNat).s32)
    (fun x l =>
      let F := x.gang.fmt f.fmt.toNat
      let r := x.args l srcs
      let c := fsetCond f.fn.toNat (F.elem (arg r.1 0) 0) (F.elem (arg r.1 1) 0) r.2
      { bits := [(j, combineBit comb ((x.gang.mreg j).getLsbD l) c)] }) s

/-- Bits 8:0 of the class word of an element (R151). -/
def classBit (F : Fmt) (code : Nat) : Nat :=
  match F.decode code with
  | .nan => 8
  | .inf neg => if neg then 0 else 7
  | .fin neg m _ =>
    if m = 0 then (if neg then 3 else 4)
    else if code / 2 ^ F.man % 2 ^ F.exp = 0 then (if neg then 2 else 5)
    else (if neg then 1 else 6)

/-- FCLASS (R151, R146). -/
def execFclass (f : L3) (s : State) : Host.Outcome State Fault Refusal :=
  let srcs := [(f.a, false)]
  vectorWord (.fclass f) f.msel.toNat (srcUse srcs f.dst false) f.dst
    (fun G => (G.fmt f.fmt.toNat).s32 || (G.fmt f.fmt.toNat).s16)
    (fun x l =>
      let F := x.gang.fmt f.fmt.toNat
      let r := x.args l srcs
      let v := (List.range F.perLane).foldl (fun n e =>
        n + (2 ^ classBit F (arg r.1 0 / 2 ^ (F.slot * e) % 2 ^ F.width) + r.2.toNat * 2 ^ 9) * 2 ^ (16 * e)) 0
      { vals := cells false v false }) s

/-! ## Rounding and conversion (R152-R155) -/

/-- A value rounded to an integral one; a zero result keeps the sign (R152). -/
def Num.integral (mode rb : Nat) (v : Num) : Num :=
  match v with
  | .fin neg m e => .fin neg (roundInt mode neg rb m e (fun q => q % 2 == 0)) 0
  | v => v

/-- FRND (R152): no cause. -/
def execFrnd (f : L3) (s : State) : Host.Outcome State Fault Refusal :=
  let srcs := [(f.a, false)]
  vectorWord (.frnd f) f.msel.toNat (srcUse srcs f.dst false) f.dst
    (fun G => (G.fmt f.fmt.toNat).s32 || (G.fmt f.fmt.toNat).s16)
    (fun x l =>
      let F := x.gang.fmt f.fmt.toNat
      let r := x.args l srcs
      let cs := (List.range F.perLane).map fun e =>
        (F.conv f.rnd.toNat false (x.rb l e) ((F.elem (arg r.1 0) e).integral f.rnd.toNat (x.rb l e))).code
      { vals := cells false (F.pack cs) r.2 }) s

/-- The k range of FCVT (R153). -/
def fcvtOk (F D : Fmt) (k : Nat) : Bool :=
  let es := F.perLane
  let ed := D.perLane
  F.sc && D.sc
  && (if ed < es then decide (k < es / ed) else if es < ed then decide (k < ed / es) else decide (k = 0))

/-- The word that FCVT leaves in a destination that held `old` (R153). -/
def fcvtLane (F D : Fmt) (mode : Nat) (sat : Bool) (rb : Nat → Nat) (k v old : Nat) : Nat × List Elem :=
  let es := F.perLane
  let ed := D.perLane
  if ed ≤ es then
    let rs := (List.range ed).map fun e => D.round mode sat (rb e) (F.elem v (k * ed + e), false)
    (D.pack (rs.map Elem.code), rs)
  else
    let rs := (List.range es).map fun e => D.round mode sat (rb (k * es + e)) (F.elem v e, false)
    (rs.zipIdx.foldl (fun n re =>
      setField n (D.slot * (k * es + re.2) + D.slot - 1) (D.slot * (k * es + re.2)) re.1.code) old, rs)

/-- FCVT; where it keeps other elements it also reads its destination (R153). -/
def execFcvt (f : L3) (s : State) : Host.Outcome State Fault Refusal :=
  s.withGang fun G =>
    let F := G.fmt f.fmt.toNat
    let D := G.fmt (f.aux.toNat % 16)
    let k := bits f.aux.toNat 6 4
    let srcs := if F.perLane < D.perLane then [(f.a, false), (⟨false, f.dst.file, f.dst.idx⟩, false)] else [(f.a, false)]
    vectorWord (.fcvt f) f.msel.toNat (srcUse srcs f.dst false) f.dst (fun _ => fcvtOk F D k)
      (fun x l =>
        let r := x.args l srcs
        let o := fcvtLane F D f.rnd.toNat f.sat (x.rb l) k (arg r.1 0) (arg r.1 1)
        { vals := cells false o.1 r.2, cond := laneCond r.2 o.2 }) s

/-- A value converted to an integer type: NaN gives 0, out of Range the nearer end, both invalid (R154). -/
def toIntType (t mode rb : Nat) (v : Num) : Int × Bool :=
  match v with
  | .nan => (0, true)
  | .inf neg => (if neg then tyMin t else tyMax t, true)
  | .fin neg m e =>
    let n : Int := roundInt mode neg rb m e (fun q => q % 2 == 0)
    let r := if neg then -n else n
    if r < tyMin t then (tyMin t, true) else if tyMax t < r then (tyMax t, true) else (r, false)

/-- FTOI (R154). -/
def execFtoi (f : L3) (s : State) : Host.Outcome State Fault Refusal :=
  let wide := WF.is64 f
  let srcs := [(f.a, false)]
  vectorWord (.ftoi f) f.msel.toNat (srcUse srcs f.dst wide) f.dst (fun G => (G.fmt f.fmt.toNat).s32)
    (fun x l =>
      let F := x.gang.fmt f.fmt.toNat
      let r := x.args l srcs
      let o := toIntType (WF.ty f) f.rnd.toNat (x.rb l 0) (F.elem (arg r.1 0) 0)
      { vals := cells wide (wrap 64 o.1) r.2, cond := if r.2 then {} else { inv := o.2 } }) s

/-- ITOF (R155). -/
def execItof (f : L3) (s : State) : Host.Outcome State Fault Refusal :=
  let wide := WF.is64 f
  let srcs := [(f.a, wide)]
  vectorWord (.itof f) f.msel.toNat (srcUse srcs f.dst false) f.dst (fun G => (G.fmt f.fmt.toNat).s32)
    (fun x l =>
      let F := x.gang.fmt f.fmt.toNat
      let r := x.args l srcs
      let v := intElem (WF.ty f) 0 (arg r.1 0)
      { vals := cells false (F.conv f.rnd.toNat false (x.rb l 0) (.fin (decide (v < 0)) v.natAbs 0)).code r.2 }) s

/-! ## FDOT2 (R160) -/

def execFdot2 (f : L3) (s : State) : Host.Outcome State Fault Refusal :=
  let srcs := [(f.a, false), (f.b, false), (f.c, false)]
  vectorWord (.fdot2 f) f.msel.toNat (srcUse srcs f.dst false) f.dst
    (fun G => (G.fmt f.fmt.toNat).s16 && (G.fmt (f.aux.toNat % 16)).s32)
    (fun x l =>
      let F := x.gang.fmt f.fmt.toNat
      let E := x.gang.fmt (f.aux.toNat % 16)
      let r := x.args l srcs
      let v := fun k e => modify f.fn.toNat k (F.elem (arg r.1 k) e)
      let c := modify f.fn.toNat 2 (E.elem (arg r.1 2) 0)
      let o := E.round f.rnd.toNat f.sat (x.rb l 0)
        (Num.dot [(v 0 0, v 1 0), (v 0 1, v 1 1)] [c] (decide (f.rnd = 2)))
      { vals := cells false o.code r.2, cond := laneCond r.2 [o] }) s

/-! ## Special functions (R156-R159) -/

/-- A result before rounding: an exact value with the invalid and division-by-zero causes. -/
structure SfuOut where
  val : Num
  inv : Bool := false
  dz  : Bool := false

def sfuNan : SfuOut := { val := .nan, inv := true }

/-- A result known to a bound of `b` times 2^u: the free code where it keeps the bound; a reference beyond the largest
finite value stays itself, so that it overflows (R157). -/
def bounded (fn key b : Nat) (u : Int) (ref : Num) : Num :=
  if (round32 ref).ov then ref else pickSfu ref b u (Config.sfu fn key)

/-- The free-value key of a function that is odd or even: the sign of the input left out (R157). -/
def evenKey (key : Nat) : Nat := key / 8 * 8 + key % 4

/-- Remove the factors of two of a magnitude; structural on its bit length. -/
def oddPart : Nat → Nat → Int → Nat × Int
  | 0, m, e => (m, e)
  | k + 1, m, e => if m % 2 = 0 then oddPart k (m / 2) (e + 1) else (m, e)

/-- FRCP (R158). -/
def frcpVal (a _ : Num) (_ : Nat) : SfuOut :=
  match a with
  | .nan => { val := .nan }
  | .inf neg => { val := .fin neg 0 0 }
  | .fin neg m e => if m = 0 then { val := .inf neg, dz := true } else { val := divNum (.fin false 1 0) (.fin neg m e) }

/-- FRSQ (R157, R158). -/
def frsqVal (a _ : Num) (key : Nat) : SfuOut :=
  match a with
  | .nan => { val := .nan }
  | .inf neg => if neg then sfuNan else { val := .fin false 0 0 }
  | .fin neg m e =>
    if m = 0 then { val := .inf neg, dz := true }
    else if neg then sfuNan
    else
      let o := oddPart 32 m e
      if o.1 = 1 ∧ o.2 % 2 = 0 then { val := .fin false 1 (-(o.2 / 2)) }
      else
        let ref := divNum (.fin false 1 0) (sqrtNum (.fin false m e))
        { val := bounded 0x3D key 1 (ulp32 ref) ref }

/-- FSQRT (R158). -/
def fsqrtVal (a _ : Num) (_ : Nat) : SfuOut :=
  match a with
  | .nan => { val := .nan }
  | .inf neg => if neg then sfuNan else { val := .inf false }
  | .fin neg m e => if m = 0 then { val := .fin neg 0 0 } else if neg then sfuNan else { val := sqrtNum (.fin false m e) }

/-- FEXP2 (R157, R158). -/
def fexp2Val (a _ : Num) (key : Nat) : SfuOut :=
  match a with
  | .nan => { val := .nan }
  | .inf neg => { val := if neg then .fin false 0 0 else .inf false }
  | .fin neg m e =>
    if m = 0 then { val := .fin false 1 0 }
    else if Num.lt (.fin false 200 0) (.fin false m e) then
      { val := if neg then bounded 0x3F key 2 (-149) (.fin false 1 (-400)) else .fin false 1 400 }
    else
      let v : Int := if neg then -(fix192 m e : Nat) else (fix192 m e : Nat)
      if v % 2 ^ 192 = 0 ∧ -149 ≤ v / 2 ^ 192 then { val := .fin false 1 (v / 2 ^ 192) }
      else
        let ref := exp2Ref v
        { val := bounded 0x3F key 2 (ulp32 ref) ref }

/-- FLOG2 (R157, R158). -/
def flog2Val (a _ : Num) (key : Nat) : SfuOut :=
  match a with
  | .nan => { val := .nan }
  | .inf neg => if neg then sfuNan else { val := .inf false }
  | .fin neg m e =>
    if m = 0 then { val := .inf true, dz := true }
    else if neg then sfuNan
    else
      let o := oddPart 32 m e
      if o.1 = 1 then { val := .fin (decide (o.2 < 0)) o.2.natAbs 0 }
      else
        let v := log2Ref m e
        let ref : Num := .fin (decide (v < 0)) v.natAbs (-90)
        if v < -(2 ^ 90) ∨ 2 ^ 90 ≤ v then { val := bounded 0x40 key 2 (ulp32 ref) ref }
        else { val := bounded 0x40 key 1 (-22) ref }

/-- FSIN: odd, bit for bit (R157, R158). -/
def fsinVal (a _ : Num) (key : Nat) : SfuOut :=
  match a with
  | .nan => { val := .nan }
  | .inf _ => sfuNan
  | .fin neg m e =>
    if m = 0 then { val := .fin neg 0 0 }
    else
      let v := bounded 0x41 (evenKey key) 1 (-22) (sinRef m e)
      { val := if neg then v.neg else v }

/-- FCOS: even, bit for bit (R157, R158). -/
def fcosVal (a _ : Num) (key : Nat) : SfuOut :=
  match a with
  | .nan => { val := .nan }
  | .inf _ => sfuNan
  | .fin _ m e => if m = 0 then { val := .fin false 1 0 } else { val := bounded 0x42 (evenKey key) 1 (-22) (cosRef m e) }

/-- FTANH: odd, bit for bit; exactly ±1 from 9 on (R157, R158). -/
def ftanhVal (a _ : Num) (key : Nat) : SfuOut :=
  match a with
  | .nan => { val := .nan }
  | .inf neg => { val := .fin neg 1 0 }
  | .fin neg m e =>
    if m = 0 then { val := .fin neg 0 0 }
    else if Num.lt (.fin false m e) (.fin false 9 0) then
      let v := bounded 0x43 (evenKey key) 1 (-22) (tanhRef m e)
      { val := if neg then v.neg else v }
    else { val := .fin neg 1 0 }

/-- FDIVS (R158). -/
def fdivsVal (a b : Num) (_ : Nat) : SfuOut :=
  if a.isNan || b.isNan then { val := .nan }
  else
    let sg := a.sign != b.sign
    if a.isInf then (if b.isInf then sfuNan else { val := .inf sg })
    else if b.isInf then { val := .fin sg 0 0 }
    else if b.isZero then (if a.isZero then sfuNan else { val := .inf sg, dz := true })
    else if a.isZero then { val := .fin sg 0 0 }
    else { val := divNum a b }

/-- A special-function word: its results are outstanding until it completes (R159). -/
def sfuWord (i : Instr) (f : L3) (n : Nat) (g : Num → Num → Nat → SfuOut) (s : State) : Host.Outcome State Fault Refusal :=
  let srcs := [(f.a, false), (f.b, false)].take n
  let u := srcUse srcs f.dst false
  laneWord i (some f.msel.toNat) u
    (fun x s =>
      let F := x.gang.fmt f.fmt.toNat
      if !F.s32 then .illegal
      else
        let one := fun l =>
          let r := x.args l srcs
          let key := arg r.1 0 % 2 ^ 31 * 8 + arg r.1 0 / 2 ^ 31 * 4 + F.sub.toNat * 2 + F.sat.toNat
          let o := g (F.elem (arg r.1 0) 0) (F.elem (arg r.1 1) 0) key
          let c := F.conv f.rnd.toNat f.sat 0 o.val
          (l, cells false c.code r.2, if r.2 then ({} : Cond) else ⟨o.inv || c.inv, o.dz, c.ov⟩)
        let outs := (x.act ++ x.help).map one
        let (id, s) := s.newId
        let p := { x.pend u i .sfu none id with
          pins := [], results := outs.flatMap (fun o => x.result f.dst o.1 o.2.1),
          conds := condRecords ((outs.take x.act.length).map fun o => (o.1, o.2.2)) }
        .done (s.addPend x.g p)) s

def execFrcp (f : L3) (s : State) : Host.Outcome State Fault Refusal := sfuWord (.frcp f) f 1 frcpVal s

def execFrsq (f : L3) (s : State) : Host.Outcome State Fault Refusal := sfuWord (.frsq f) f 1 frsqVal s

def execFsqrt (f : L3) (s : State) : Host.Outcome State Fault Refusal := sfuWord (.fsqrt f) f 1 fsqrtVal s

def execFexp2 (f : L3) (s : State) : Host.Outcome State Fault Refusal := sfuWord (.fexp2 f) f 1 fexp2Val s

def execFlog2 (f : L3) (s : State) : Host.Outcome State Fault Refusal := sfuWord (.flog2 f) f 1 flog2Val s

def execFsin (f : L3) (s : State) : Host.Outcome State Fault Refusal := sfuWord (.fsin f) f 1 fsinVal s

def execFcos (f : L3) (s : State) : Host.Outcome State Fault Refusal := sfuWord (.fcos f) f 1 fcosVal s

def execFtanh (f : L3) (s : State) : Host.Outcome State Fault Refusal := sfuWord (.ftanh f) f 1 ftanhVal s

def execFdivs (f : L3) (s : State) : Host.Outcome State Fault Refusal := sfuWord (.fdivs f) f 2 fdivsVal s

end Sys2Proof.Machine
end

