-- ==== Sys2Proof/Machine/Blocks.lean ====
section
/-! DEFINITION. The block-scaled words and XRED (R161-R168), and ENDRUN (R71). -/

namespace Sys2Proof.Machine

/-! ## Blocks in registers (R94, R161) -/

/-- Elements of a block entry per lane. -/
def Fmt.blkLane (F : Fmt) : Nat := if F.width = 4 then 8 else 4

/-- Blocks per register. -/
def Fmt.blkCount (F : Fmt) : Nat := if F.width = 4 ∨ F.blockLen = 16 then 8 else 4

/-- Lanes per block. -/
def Fmt.blkSpan (F : Fmt) : Nat := 32 / F.blkCount

/-- Bits of an element's place in a lane register: a byte for 6-bit elements (R94). -/
def Fmt.blkSlot (F : Fmt) : Nat := 32 / F.blkLane

/-- The scale byte of block `j` of the operand in register `r` (R161). -/
def Fmt.sb (F : Fmt) (r j : Nat) : Nat := j + F.blkCount * (r % 2)

/-- The lanes of block `j`. -/
def Fmt.blkLanes (F : Fmt) (j : Nat) : List Nat := (List.range F.blkSpan).map fun i => F.blkSpan * j + i

/-- A block is whole: every position of it that holds a lane is active (R96, R162). -/
def Issue.whole (x : Issue) (F : Fmt) (j : Nat) : Bool :=
  (F.blkLanes j).all fun l => !x.gang.holds l || x.act.contains l

/-- A block operand (R162): codes, decoded values, and poison of lanes. -/
structure BlockOp where
  fmt   : Fmt
  src   : Src
  scale : Nat

/-- The code of element `e` of a block operand. -/
def BlockOp.code (b : BlockOp) (x : Issue) (e : Nat) : Nat :=
  let c := b.fmt.blkLane
  (x.cell (e / c) b.src 0).val.toNat / 2 ^ (b.fmt.blkSlot * (e % c)) % 2 ^ b.fmt.width

/-- The scale byte that covers element `e`, as it stands at issue. -/
def BlockOp.byte (b : BlockOp) (x : Issue) (e : Nat) : Nat :=
  x.gang.lane.scaleByte b.scale (b.fmt.sb b.src.idx.toNat (e / b.fmt.blkLane / b.fmt.blkSpan))

/-- dA(e) of R85. -/
def BlockOp.value (b : BlockOp) (x : Issue) (e : Nat) : Num := blockValue b.fmt (b.code x e) (b.byte x e)

/-- Element `e` of a group: binary32 with subnormals kept (R161). -/
def Issue.groupValue (x : Issue) (a : Src) (c e : Nat) : Num :=
  binary32.decode (x.cell (e / c) a (e % c)).val.toNat

/-- Whether any of `k` registers of a source is poisoned in any of a list of lanes. -/
def Issue.anyP (x : Issue) (ls : List Nat) (a : Src) (k : Nat) : Bool :=
  ls.any fun l => (List.range k).any fun i => (x.cell l a i).p

/-- A group starts at a multiple of its size (R161). -/
def groupOk (c idx : Nat) (file : RegFile) : Bool := decide (idx % c = 0) && decide (file ≠ .special)

/-! ## The writer of blocks (R162, R164) -/

/-- What a block word leaves in a block: its scale byte if it chooses one, and the results of its lanes. -/
structure BlockOut where
  scale : Option (Nat × Nat)
  lanes : List (Nat × LaneOut)

/-- How the elements of a destination come about (a block of BRNM that is not whole and whose xD byte is the source's keeps its codes too,
R103 going before R162: DESIGN CHOICE, log entry 66): exact values with the invalid cause, poison per block, and for a
renormalisation the source, whose codes are kept under an unchanged scale (R103). -/
structure Quant where
  f      : L3
  fmt    : Fmt
  choose : Bool
  value  : Nat → Num × Bool
  poison : Nat → Bool
  keep   : Option BlockOp

/-- One block of a destination (R164, R166). -/
def Quant.block (q : Quant) (x : Issue) (j : Nat) : BlockOut :=
  let F := q.fmt
  let c := F.blkLane
  let byte := F.sb q.f.dst.idx.toNat j
  let per := F.blkSpan * c
  let chosen := q.choose && x.whole F j
  let sc := if chosen then chooseScale F ((List.range per).map fun i => (q.value (per * j + i)).1)
    else x.gang.lane.scaleByte q.f.xD.toNat byte
  let p := q.poison j
  let one := fun (l k : Nat) =>
    let e := c * l + k
    let kept := q.keep.bind fun b => if b.byte x e = sc then some (b.code x e) else none
    match kept with
    | some code => (⟨code, {}⟩ : Elem)
    | none =>
      let r := q.value e
      F.round q.f.rnd.toNat q.f.sat (x.rb l k) (if sc = 0xFF then .nan else r.1.scale2 (127 - (sc : Int)), r.2)
  let lanes := ((x.act ++ x.help).filter fun l => decide (l / F.blkSpan = j)).map fun l =>
    let es := (List.range c).map (one l)
    let v := es.zipIdx.foldl (fun n ei => n + ei.1.code * 2 ^ (F.blkSlot * ei.2)) 0
    (l, ({ vals := cells false v p, cond := laneCond p es } : LaneOut))
  ⟨if chosen then some (byte, sc) else none, lanes⟩

/-- The blocks of a destination that hold an active lane's element. -/
def Issue.blocks (x : Issue) (F : Fmt) : List Nat :=
  (List.range F.blkCount).filter fun j => x.act.any fun l => decide (l / F.blkSpan = j)

/-- Write the blocks of a destination, then the chosen scale bytes (R162). -/
def Quant.apply (q : Quant) (x : Issue) (s : State) : State :=
  let outs := (x.blocks q.fmt).map (q.block x)
  let lanes := outs.flatMap BlockOut.lanes
  let s := x.finish q.f.dst (fun l => ((lanes.find? fun o => decide (o.1 = l)).map Prod.snd).getD {}) s
  let put := fun (L : LaneFile) (o : BlockOut) =>
    match o.scale with
    | some (b, v) => L.setScale q.f.xD.toNat b (BitVec.ofNat 8 v)
    | none => L
  s.modGang x.g fun G => { G with lane := outs.foldl put G.lane }

/-- The frame of a block word: its registers, the entries it accepts, and what it leaves (R142, R163). -/
def blockWord (i : Instr) (msel : Nat) (u : Use) (ok : Bool) (eff : Issue → State → State) (s : State) :
    Host.Outcome State Fault Refusal :=
  laneWord i (some msel) u (fun x s => if ok then .done (eff x s) else .illegal) s

/-- A block operand's use. -/
def oneUse (srcs : List Src) (d : Dst) : Use := { srcs := srcs.map fun a => (a, 1), dsts := [(d, 1)] }

/-! ## Quantisation (R164, R165) -/

/-- BMAX: the largest magnitude of each block of a group (R164). -/
def execBmax (f : L3) (s : State) : Host.Outcome State Fault Refusal :=
  s.withGang fun G =>
    let F := G.fmt f.fmt.toNat
    let c := F.blkLane
    blockWord (.bmax f) f.msel.toNat { srcs := [(f.a, c)], dsts := [(f.dst, 1)] } (F.b && groupOk c f.a.idx.toNat f.a.file)
      (fun x s =>
        let per := F.blkSpan * c
        let out := fun l =>
          let j := l / F.blkSpan
          let m := maxMagnitude ((List.range per).map fun i => x.groupValue f.a c (per * j + i))
          ({ vals := cells false (round32 m).code (x.anyP (F.blkLanes j) f.a c) } : LaneOut)
        x.finish f.dst out s) s

/-- BSCL and BQNT: quantise a group, choosing scales or under those given (R164). -/
def groupQuant (i : Instr) (f : L3) (choose : Bool) (s : State) : Host.Outcome State Fault Refusal :=
  s.withGang fun G =>
    let F := G.fmt f.fmt.toNat
    let c := F.blkLane
    blockWord i f.msel.toNat { srcs := [(f.a, c)], dsts := [(f.dst, 1)] } (F.b && groupOk c f.a.idx.toNat f.a.file)
      (fun x s => ({ f := f, fmt := F, choose := choose, value := fun e => (x.groupValue f.a c e, false),
                     poison := fun j => x.anyP (F.blkLanes j) f.a c, keep := none } : Quant).apply x s) s

def execBscl (f : L3) (s : State) : Host.Outcome State Fault Refusal := groupQuant (.bscl f) f true s

def execBqnt (f : L3) (s : State) : Host.Outcome State Fault Refusal := groupQuant (.bqnt f) f false s

/-- BDQT: a block register into a group (R165). -/
def execBdqt (f : L3) (s : State) : Host.Outcome State Fault Refusal :=
  s.withGang fun G =>
    let F := G.fmt f.fmt.toNat
    let E := G.fmt (f.aux.toNat % 16)
    let c := F.blkLane
    blockWord (.bdqt f) f.msel.toNat { srcs := [(f.a, 1)], dsts := [(f.dst, c)] }
      (F.b && E.s32 && groupOk c f.dst.idx.toNat f.dst.file)
      (fun x s =>
        let b : BlockOp := ⟨F, f.a, f.xA.toNat⟩
        let out := fun l =>
          let p := x.anyP (F.blkLanes (l / F.blkSpan)) f.a 1
          let es := (List.range c).map fun k => E.round f.rnd.toNat f.sat (x.rb l k) (b.value x (c * l + k), false)
          ({ vals := es.map fun e => ⟨BitVec.ofNat 32 e.code, p, true⟩, cond := laneCond p es } : LaneOut)
        x.finish f.dst out s) s

/-! ## Scale-choosing arithmetic (R166) -/

/-- A scale-choosing word: its block operands, and the exact value of an element. -/
def blockArith (i : Instr) (f : L3) (F : Fmt) (ops : List BlockOp) (ok : Bool)
    (v : Issue → Nat → Num × Bool) (keep : Option BlockOp) (s : State) : Host.Outcome State Fault Refusal :=
  blockWord i f.msel.toNat (oneUse (ops.map BlockOp.src) f.dst) (F.b && ok && (ops.all fun b => b.fmt.b))
    (fun x s => ({ f := f, fmt := F, choose := true, value := v x,
                   poison := fun j => ops.any fun b => x.anyP (F.blkLanes j) b.src 1, keep := keep } : Quant).apply x s) s

def execBadd (f : L3) (s : State) : Host.Outcome State Fault Refusal :=
  s.withGang fun G =>
    let F := G.fmt f.fmt.toNat
    let a : BlockOp := ⟨F, f.a, f.xA.toNat⟩
    let b : BlockOp := ⟨F, f.b, f.xB.toNat⟩
    blockArith (.badd f) f F [a, b] true (fun x e => Num.sum [a.value x e, b.value x e] (decide (f.rnd = 2))) none s

def execBmul (f : L3) (s : State) : Host.Outcome State Fault Refusal :=
  s.withGang fun G =>
    let F := G.fmt f.fmt.toNat
    let a : BlockOp := ⟨F, f.a, f.xA.toNat⟩
    let b : BlockOp := ⟨F, f.b, f.xB.toNat⟩
    blockArith (.bmul f) f F [a, b] true (fun x e => (a.value x e).mul (b.value x e)) none s

/-- BFMA: C is decoded under the bytes of xD as they stand at issue (R166). -/
def execBfma (f : L3) (s : State) : Host.Outcome State Fault Refusal :=
  s.withGang fun G =>
    let F := G.fmt f.fmt.toNat
    let a : BlockOp := ⟨F, f.a, f.xA.toNat⟩
    let b : BlockOp := ⟨F, f.b, f.xB.toNat⟩
    let c : BlockOp := ⟨F, f.c, f.xD.toNat⟩
    blockArith (.bfma f) f F [a, b, c] true
      (fun x e => Num.dot [(a.value x e, b.value x e)] [c.value x e] (decide (f.rnd = 2))) none s

/-- BRNM: renormalise; a block that keeps its scale keeps its codes (R103, R166). -/
def execBrnm (f : L3) (s : State) : Host.Outcome State Fault Refusal :=
  s.withGang fun G =>
    let F := G.fmt f.fmt.toNat
    let a : BlockOp := ⟨F, f.a, f.xA.toNat⟩
    blockArith (.brnm f) f F [a] true (fun x e => (a.value x e, false)) (some a) s

/-- BCVT: between block entries with equally many elements per lane (R166). -/
def execBcvt (f : L3) (s : State) : Host.Outcome State Fault Refusal :=
  s.withGang fun G =>
    let F := G.fmt f.fmt.toNat
    let a : BlockOp := ⟨G.fmt (f.aux.toNat % 16), f.a, f.xA.toNat⟩
    blockArith (.bcvt f) f F [a] (decide (a.fmt.blkLane = F.blkLane)) (fun x e => (a.value x e, false)) none s

/-! ## BSDOT (R167) -/

/-- BSDOT (R167). R163 and R167 do not say under which entry the accumulator C is read: the model decodes it under E, the entry of the
result (DESIGN CHOICE, log entry 67). -/
def execBsdot (f : L3) (s : State) : Host.Outcome State Fault Refusal :=
  s.withGang fun G =>
    let a : BlockOp := ⟨G.fmt f.fmt.toNat, f.a, f.xA.toNat⟩
    let b : BlockOp := ⟨G.fmt (f.aux.toNat % 16), f.b, f.xB.toNat⟩
    let E := G.fmt (bits f.aux.toNat 7 4)
    let span := 32 / a.fmt.blkLane
    blockWord (.bsdot f) f.msel.toNat (oneUse [f.a, f.b, f.c] f.dst)
      (a.fmt.b && b.fmt.b && E.s32 && decide (a.fmt.blkLane = b.fmt.blkLane))
      (fun x s =>
        let out := fun l =>
          let g := l / span
          let lanes := (List.range span).map fun i => span * g + i
          let sum := Num.dot ((List.range 32).map fun i => (a.value x (32 * g + i), b.value x (32 * g + i))) [] false
          let r := round32 sum.1
          let c := x.cell l f.c 0
          let p := c.p || x.anyP lanes f.a 1 || x.anyP lanes f.b 1
          let o := E.round 0 f.sat 0 (Num.sum [E.elem c.val.toNat 0, binary32.decode r.code] false)
          ({ vals := cells false o.code p, cond := laneCond p [o, ⟨0, ⟨sum.2, false, r.ov⟩⟩] } : LaneOut)
        x.finish f.dst out s) s

/-! ## XRED (R168) -/

def execXred (f : L3) (s : State) : Host.Outcome State Fault Refusal :=
  let srcs := [(f.a, false)]
  let z := 4 * 2 ^ (bits f.fn.toNat 2 1)
  vectorWord (.xred f) f.msel.toNat (srcUse srcs f.dst false) f.dst (fun G => (G.fmt f.fmt.toNat).s32)
    (fun x l =>
      let E := x.gang.fmt f.fmt.toNat
      let lanes := x.act.filter fun k => decide (k / z = l / z)
      let vs := lanes.map fun k => E.elem (x.cell k f.a 0).val.toNat 0
      let p := lanes.any fun k => (x.cell k f.a 0).p
      let o := if bit f.fn.toNat 0 then
          E.round f.rnd.toNat f.sat 0 (vs.foldl Exact.add Exact.zero).value
        else ⟨(E.conv 0 false 0 (maxMagnitude vs)).code, {}⟩
      { vals := cells false o.code p, cond := laneCond p [o] }) s

/-! ## ENDRUN (R67, R71) -/

/-- ENDRUN: the run's trailer names the registers that may complete after it; it takes no issue slot. -/
def execEndrun (f : LE) (s : State) : Host.Outcome State Fault Refusal :=
  s.withGang fun G =>
    match G.runs with
    | [] => .next s
    | r :: _ =>
      let n := s.regsOf G
      let named := [f.d0, f.d1, f.d2, f.d3].take f.count.toNat
      if !s.laneReady G r then .next s
      else if !(Instr.endrun f).wf || decide (r.next < r.len) || named.any (fun d => decide (G.limit n ≤ d.idx.toNat)) then
        .next (s.illegalLane G r.addr r.next (laneWord.wordsNat (encode (.endrun f))))
      else
        .next (s.modGang s.cur fun G => { G with runs := G.runs.map fun x =>
          if x.serial = r.serial then { x with ended := some (named.map fun d => G.phys n d.idx.toNat) } else x })

end Sys2Proof.Machine
end

