-- ==== Sys2Proof/Machine/Access.lean ====
section
/-! DEFINITION. The load-store path as the words use it: the scratch window, memory through the L1, poison met and
counted, long accesses line by line, and accesses performed at the home slice. -/

namespace Sys2Proof.Machine

/-- The first address of the scratch window (R228). -/
def windowBase : Nat := 0x01FFFFF000000000

/-- A protection fault of an access (R371): 5 scratch, 6 address bits 63:57, 3 device region. -/
def protection (va acc detail : Nat) : FaultInfo := plainFault 0x10 (va % addrBits) acc detail

/-- A misaligned access of a size (R235, R371). -/
def misaligned (va acc size : Nat) : FaultInfo := plainFault 0x12 (va % addrBits) acc size

/-- Count uncorrectable data that an agent of partition `p` met in memory; strict mode halts (R234, R392). -/
def State.metPoison (s : State) (p pa : Nat) (ag : Agent) : State := s.uncorrectable p (s.structAt pa) pa ag

/-- The same for a structure without physical addresses: scratch 2, tile store 4 (R392). -/
def State.metPoisonIn (s : State) (p struct index : Nat) (ag : Agent) : State := s.uncorrectableIn p struct index ag 0

/-- Count what a load through the L1 met: an error of the L1's own data array, or poison that came with the bytes (R392, R394). -/
def State.metData (s : State) (p : Nat) (d : Data) (ag : Agent) : State :=
  if d.unit ≠ 0 then s.uncorrectable p d.unit d.pa ag else if d.bad then s.metPoison p d.pa ag else s

/-- An extent of a gang's scratch exists (R225, R228). -/
def State.scratchOk (s : State) (G : Gang) (off n : Nat) : Bool :=
  match s.wg? G.place.wg with
  | some W => decide (off + n ≤ s.scratchSize W)
  | none => false

def State.scratchRead (s : State) (G : Gang) (off n : Nat) : Data :=
  match s.wg? G.place.wg with
  | some W => W.scrRead off n
  | none => ⟨List.replicate n 0, false, 0, 0⟩

def State.scratchWrite (s : State) (G : Gang) (off : Nat) (bs : List Byte) (p : Bool) : State :=
  s.modWg G.place.wg fun W => W.scrWrite off bs p

/-- The ring headers that gangs of a workgroup use: every one that an RTAKE or RPOST has named (R301, R302; log entry 46). -/
def State.ringsInUse (s : State) (w : Nat) : List Nat := ((s.wg? w).map Wg.rings).getD []

/-- A gang uses a ring (R301). -/
def State.useRing (s : State) (G : Gang) (off : Nat) : State := s.modWg G.place.wg fun W => { W with rings := insNat off W.rings }

/-- A program has stored into scratch: the state bytes of a ring header there that gangs use are free values from then on
(R301). -/
def State.spoilRings (s : State) (G : Gang) (off n : Nat) : State :=
  (s.ringsInUse G.place.wg).foldl (fun s r =>
    if off < r + 64 ∧ r < off + n then
      { s.scratchWrite G (r + 32) ((List.range 32).map (Config.undefByte s.fresh)) false with fresh := s.fresh + 1 }
    else s) s

/-! ## The spill area (R124) -/

/-- The gang's spill area (R124). -/
def State.spillArea (s : State) (G : Gang) : Nat :=
  match s.grid? G.grid, s.wg? G.place.wg with
  | some D, some W =>
    let a := match W.child with
      | some n => 64 * D.w + n
      | none => 64 * W.num + G.place.gidx
    (D.spbase + 1024 * D.spstr * a) % addrBits
  | _, _ => 0

def State.spillStride (s : State) (G : Gang) : Nat := (s.grid? G.grid).elim 0 Grid.spstr

/-- The granules of a gang's spill area that an extent touches (R124). -/
def State.granulesHit (s : State) (G : Gang) (va n : Nat) : List Nat :=
  let lo := s.spillArea G
  let hi := lo + 1024 * s.spillStride G
  if va < hi ∧ lo < va + n then
    let a := (max va lo - lo) / 1024
    (List.range ((min (va + n) hi - 1 - lo) / 1024 + 1 - a)).map (· + a)
  else []

/-- The address faults that are found at issue (R228, R235): bits 63:57, a misaligned address, the window beyond the
scratch, the device region. -/
def State.addressFault (s : State) (G : Gang) (acc va size align : Nat) (window : Bool) : Option FaultInfo :=
  if 2 ^ 57 ≤ va then some (protection va acc 6)
  else if va % align ≠ 0 then some (misaligned va acc align)
  else if inWindow va then
    (if window && s.scratchOk G (va - windowBase) size then none else some (protection va acc 5))
  else if devLo ≤ va ∧ va ≤ devHi then some (protection va acc 3)
  else none

/-- A load of `n` bytes inside one line or in the window by a gang, poison counted (R228, R230, R234). -/
def State.lsLoad (s : State) (G : Gang) (ag : Agent) (far : Bool) (hint va n : Nat) : State × Except FaultInfo Data :=
  let p := partOfVnum G.vnum
  if inWindow va then
    let d := s.scratchRead G (va - windowBase) n
    if !s.scratchOk G (va - windowBase) n then (s, .error (protection va 0 5))
    else (if d.bad then s.metPoisonIn p 2 (va - windowBase) ag else s, .ok d)
  else
    match s.load G.place.core G.vnum far hint va n with
    | (s, .error f) => (s, .error f)
    | (s, .ok d) => (s.metData p d ag, .ok d)

/-- A store of bytes inside one line or in the window by gang `g` (R228, R230, R234). -/
def State.lsPut (s : State) (g : Nat) (G : Gang) (far : Bool) (hint va : Nat) (bs : List Byte) (p : Bool) :
    State × Option FaultInfo :=
  if inWindow va then
    if s.scratchOk G (va - windowBase) bs.length then (s.scratchWrite G (va - windowBase) bs p, none)
    else (s, some (protection va 1 5))
  else s.store G.place.core G.vnum g far hint va bs p

/-- Store a list of chunks, each with its poison, from `va` upward, a chunk at most 64 bytes, split at line ends. -/
def State.storeChunks (s : State) (g : Nat) (G : Gang) : List (List Byte × Bool) → Nat → State × Option FaultInfo
  | [], _ => (s, none)
  | (bs, p) :: t, va =>
    let here := min bs.length (256 - va % 256)
    match s.lsPut g G false 0 (va % addrBits) (bs.take here) p with
    | (s, some f) => (s, some f)
    | (s, none) =>
      let rest := bs.drop here
      match if rest.isEmpty then (s, none) else s.lsPut g G false 0 ((va + here) % addrBits) rest p with
      | (s, some f) => (s, some f)
      | (s, none) => s.storeChunks g G t (va + bs.length)

/-- A program has stored into a spill area of its own, that of gang `h`: the granules covered hold free values from then on, and a fill
of one that was spilled gives free values (R124). -/
def State.spoilArea (s : State) (g : Nat) (G : Gang) (h : Nat) (H : Gang) (va n : Nat) : State :=
  (s.granulesHit H va n).foldl (fun s a =>
    let free := (List.range 16).map fun c => ((List.range 64).map fun j => Config.undefByte s.fresh (64 * c + j), false)
    let s := { (s.storeChunks g G free ((s.spillArea H + 1024 * a) % addrBits)).1 with fresh := s.fresh + 1 }
    s.modGang h fun H => { H with sp := { H.sp with spoiled := insNat a H.sp.spoiled } }) s

/-- A program has stored into memory through gang `g`: what that makes undefined in the spill areas of the gangs of its grid (R124). -/
def State.spoilSpills (s : State) (g : Nat) (G : Gang) (va n : Nat) : State :=
  (s.gangs.filter fun kv => decide (kv.2.grid = G.grid)).foldl (fun s kv => s.spoilArea g G kv.1 kv.2 va n) s

/-- A store by a word of a program (R228, R230, R234): beside its bytes, what R124 and R301 leave undefined. -/
def State.lsStore (s : State) (g : Nat) (G : Gang) (far : Bool) (hint va : Nat) (bs : List Byte) (p : Bool) :
    State × Option FaultInfo :=
  match s.lsPut g G far hint va bs p with
  | (s, some f) => (s, some f)
  | (s, none) =>
    (if inWindow va then s.spoilRings G (va - windowBase) bs.length else s.spoilSpills g G va bs.length, none)

/-- Load `n` chunks of 64 bytes from `va` upward, each with its poison. -/
def State.loadChunks (s : State) (G : Gang) (ag : Agent) : Nat → Nat → State × Except FaultInfo (List (List Byte × Bool))
  | 0, _ => (s, .ok [])
  | n + 1, va =>
    let here := min 64 (256 - va % 256)
    match s.lsLoad G ag false 0 (va % addrBits) here with
    | (s, .error f) => (s, .error f)
    | (s, .ok d) =>
      match if here = 64 then (s, .ok ⟨[], false, 0, 0⟩) else s.lsLoad G ag false 0 ((va + here) % addrBits) (64 - here) with
      | (s, .error f) => (s, .error f)
      | (s, .ok e) =>
        match s.loadChunks G ag n (va + 64) with
        | (s, .error f) => (s, .error f)
        | (s, .ok cs) => (s, .ok ((d.bytes ++ e.bytes, d.bad || e.bad) :: cs))

/-! ## Semaphore words, at their home slice (R296, R297) -/

/-- The request of a gang's accesses at a home. -/
def Gang.req (G : Gang) : Req := Req.cluster (some G.vnum) (clusterOf G.place.core)

/-- The semaphore word at a physical address, as a scalar word of a gang reads it at its home; poisoned data is used as it stands
and counted (R234, R345). -/
def State.semRead (s : State) (G : Gang) (pa : Nat) : State × Nat :=
  let r := s.homeRead G.req pa 8 true
  (if r.2.2 then r.1.metPoison (partOfVnum G.vnum) pa (s.scalarAgent G 1 G.pc) else r.1, ofBytes r.2.1)

/-- The old value of a semaphore that a scalar word of a gang reads and writes in one access at its home; whether the access has
been lost on the host link, which drops the write (R454). -/
def State.semOld (s : State) (G : Gang) (pa : Nat) : State × Nat × Bool :=
  let r := s.homeAtomic G.req pa 8
  let v := r.1.read64 pa
  (if r.1.extentBad pa 8 || r.2 then r.1.metPoison (partOfVnum G.vnum) pa (s.scalarAgent G 1 G.pc) else r.1, v, r.2)

end Sys2Proof.Machine
end

