-- ==== Sys2Proof/Machine/LaneMemory.lean ====
section
/-! DEFINITION. The lane memory words (R235-R246): addresses, the faults found at issue, the accesses of their lanes as
events perform them and as a replay does, and what completes them. -/

namespace Sys2Proof.Machine

/-! ## A word's captured sources (R121, R237) -/

/-- A source register of an outstanding word, as it was read at issue. -/
def Pend.cell (p : Pend) (l op k : Nat) : Cell := SMap.getD (l * 1024 + 256 * op + k) ⟨0, false, true⟩ p.ops

/-- A source of `n` registers as a number, and its poison. -/
def Pend.value (p : Pend) (l op k : Nat) (wide : Bool) : Nat × Bool :=
  let lo := p.cell l op k
  if wide then
    let hi := p.cell l op (k + 1)
    (lo.val.toNat + hi.val.toNat * 2 ^ 32, lo.p || hi.p)
  else (lo.val.toNat, lo.p)

/-- Capture the sources of a word in its active lanes. -/
def Issue.capture (x : Issue) (srcs : List (Src × Nat)) : SMap Cell :=
  x.act.foldl (fun m l => (srcs.zipIdx).foldl (fun m so => (List.range so.1.2).foldl (fun m k =>
    SMap.put (l * 1024 + 256 * so.2 + k) (x.cell l so.1.1 k) m) m) m) []

/-- Key of a word's format entry among its captured sources. -/
def fmtKey : Nat := 1023

/-- The result that goes to register `k` of an outstanding word's destination in a lane. -/
def Pend.result (p : Pend) (l k : Nat) (c : Cell) : Nat × Cell := (l * 1024 + p.dests.getD k 0, c)

def Pend.addResults (p : Pend) (l : Nat) (cs : List Cell) : Pend :=
  { p with results := p.results ++ cs.zipIdx.map fun ck => p.result l ck.2 ck.1 }

/-- Add a lane's causes to the records a word will write (R145). -/
def addCond (l : Nat) (c : Cond) (rs : List (Nat × Nat)) : List (Nat × Nat) :=
  (condRecords [(l, c)]).foldl (fun rs r =>
    if rs.any fun x => decide (x.1 = r.1) then rs.map fun x => if x.1 = r.1 then (x.1, x.2 ||| r.2) else x
    else rs ++ [r]) rs

/-! ## An attempt at a word's unfinished part -/

/-- What an attempt leaves: the state, the word with what it will deliver, its unfinished lanes and their faults. -/
structure Try where
  s      : State
  p      : Pend
  faults : List (FaultInfo × Nat)

/-- Carry out lanes one after another, ascending; a lane that faults leaves nothing (R237). -/
def Try.lanes (s : State) (p : Pend) (ls : List Nat) (one : State → Pend → Nat → State × Except FaultInfo Pend) : Try :=
  ls.foldl (fun t l =>
    match one t.s t.p l with
    | (s, .ok p) => { t with s := s, p := p }
    | (s, .error f) => { t with s := s, faults := t.faults ++ [(f, 2 ^ l)] }) ⟨s, p, []⟩

/-- The lanes of a list of faults. -/
def faultLanes (fs : List (FaultInfo × Nat)) : Nat := fs.foldl (fun m f => m ||| f.2) 0

/-- The fault that halts, if there is one, with the lanes that met one on its page (R366, R370). -/
def haltingFault (fs : List (FaultInfo × Nat)) : Option (FaultInfo × Nat) :=
  match fs.filter fun f => f.1.halts with
  | [] => none
  | f :: t => some (f.1, faultLanes ((f :: t).filter fun x => decide (x.1.va / 4096 = f.1.va / 4096)))

/-- Take an attempt made at issue: a halting fault halts and the word takes no effect; other faults park the word with
its unfinished lanes (R366); otherwise it is outstanding. -/
def Issue.take (x : Issue) (before : State) (t : Try) : Issued :=
  match haltingFault t.faults with
  | some (f, lanes) => .stop (x.halt f lanes before)
  | none =>
    if t.faults.isEmpty then .done (t.s.addPend x.g t.p)
    else .done ((t.s.addPend x.g { t.p with park := some (Park.mk' (faultLanes t.faults) t.faults none) }).queueGroup
      (partOfVnum x.gang.vnum) (.word x.g t.p.id))

/-! ## Addresses (R60, R235) -/

/-- The address of a lane (R60, R235). -/
def Pend.addr (p : Pend) (f : LM) (l : Nat) : Nat :=
  let off := f.off.toInt
  let a : Int := match f.amode.toNat with
    | 0 => (p.value l 0 0 true).1
    | 1 => (p.base : Int) + ((p.value l 0 0 false).1 : Int)
    | _ => (p.base : Int) + sext 32 (p.value l 0 0 false).1
  wrap 64 (a + off)

/-- The scratch offset of LDS and STS: exact, never wrapping (R238). -/
def Pend.offset (p : Pend) (f : LM) (l : Nat) : Int := ((p.value l 0 0 false).1 : Int) + f.off.toInt

/-- Bytes of one element (R60). -/
def lmBytes (f : LM) : Nat := [1, 1, 2, 2, 4, 8].getD f.width.toNat 4

/-- Elements of a word in one lane (R238). -/
def lmCount (f : LM) : Nat := 2 ^ f.fn.toNat

/-- The lowest active lane of a word. -/
def Pend.first (p : Pend) : Nat := lowestBit 32 p.lanes

/-- Where an active lane of CSTORE stores: the base, and its rank among the lanes of first issue (R242). -/
def Pend.compact (p : Pend) (f : LM) (l : Nat) : Nat :=
  (p.addr f p.first + popCount l p.lanes * lmBytes f) % 2 ^ 64

/-- The address an XLDP binds: pair A of the lowest active lane (R207). -/
def Pend.pairA (p : Pend) : Nat := (p.value p.first 0 0 true).1

/-- Slots moved by TZERO, TLD and TST: aux 9:4 plus 1. -/
def moveCount (f : LT) : Nat := bits f.aux.toNat 9 4 + 1

/-! ## Bytes that outstanding words reach (R4, R315, R320) -/

/-- The virtual extents that the given lanes of an outstanding word reach; scratch by its window. -/
def Pend.reach (x : Pend) (ls : List Nat) : List (Nat × Nat) :=
  let lanes := fun (f : LM) (n : Nat) => ls.map fun l => (x.addr f l, n)
  let first := fun (f : LM) (n : Nat) => if ls.isEmpty then [] else [(x.addr f x.first, n)]
  match x.word with
  | .ldg f | .ldc f | .stg f => lanes f (lmBytes f * lmCount f)
  | .lds f | .sts f => ls.map fun l => (windowBase + (x.offset f l).toNat, lmBytes f * lmCount f)
  | .cstore f => ls.map fun l => (x.compact f l, lmBytes f)
  | .ldl f => first f (256 * lmCount f)
  | .ldb f | .stb f => first f 256
  | .atom f | .redg f => lanes f (lmBytes f)
  | .atomxAdd f | .atomxClr f | .atomxRd f | .atomxRdclr f => lanes f 64
  | .xldp _ => if ls.isEmpty then [] else [(x.pairA, 256)]
  | .xpat _ => if ls.isEmpty then [] else [(x.base, 256)]
  | .sdec _ => if ls.isEmpty then [] else [((x.value x.first 2 0 true).1 / 4 * 4, 128)]
  | .tld f | .tst f => if ls.isEmpty then [] else [(x.base, 4096 * moveCount f)]
  | _ => []

/-- An outstanding word that writes memory: a store, an atomic, a tile move out. -/
def Pend.storing (x : Pend) : Bool :=
  match x.word with
  | .tst _ | .atom _ | .atomxRdclr _ => true
  | _ => decide (x.kind = .store)

/-- The lanes of an outstanding word whose accesses are still to come: parked, or not performed yet. -/
def Pend.unfinished (x : Pend) : List Nat := setBits (x.todo ||| x.park.elim 0 Park.lanes)

/-- Two lists of extents have a byte in common. -/
def commonByte (a b : List (Nat × Nat)) : Bool :=
  a.any fun x => b.any fun y => decide (x.1 < y.1 + y.2) && decide (y.1 < x.1 + x.2)

/-- The physical address of a virtual one in the page of a leaf (R350). -/
def TlbEntry.physical (t : TlbEntry) (va : Nat) : Nat := entryPa t.entry + va % pageSize t.lvl

/-- The physical extents of virtual ones, by the leaves of their pages, whatever rights they give; scratch apart from memory; a page
without a leaf gives none. -/
def extentsBy (leaf : Nat → Option TlbEntry) (es : List (Nat × Nat)) : List (Nat × Nat) :=
  es.flatMap fun e =>
    if inWindow e.1 then [(2 ^ 60 + e.1, e.2)]
    else (List.range (e.2 / 4096 + 2)).flatMap fun i =>
      let lo := if i = 0 then e.1 else (e.1 / 4096 + i) * 4096
      let hi := min (e.1 + e.2) ((lo / 4096 + 1) * 4096)
      if hi ≤ lo then []
      else match leaf lo with
        | some t => [(t.physical lo, hi - lo)]
        | none => []

/-- The same by the translations in force. -/
def State.physical (s : State) (k asid : Nat) (es : List (Nat × Nat)) : List (Nat × Nat) := extentsBy (s.leafNow k asid) es

/-- The leaf through which a word was translated as it issued (R365). -/
def Pend.oldLeaf (x : Pend) (va : Nat) : Option TlbEntry := x.xlats.find? fun t => decide (t.va / pageSize t.lvl = va / pageSize t.lvl)

/-- Accesses of a gang to given extents come after those of given outstanding words that are unfinished and have a byte in
common with them (R232, R320, R321). -/
def State.comesAfter (s : State) (G : Gang) (ps : List Pend) (es : List (Nat × Nat)) : Bool :=
  ps.any fun q =>
    let ls := q.unfinished
    let k := clusterOf G.place.core
    !ls.isEmpty && (commonByte es (q.reach ls)
      || commonByte (s.physical k G.vnum es) (s.physical k G.vnum (q.reach ls)))

/-- The faults of R228 and R235 of the lanes of a word, at the addresses and sizes given. -/
def lmFaults (s : State) (G : Gang) (acc : Nat) (window : Bool) (xs : List (Nat × Nat × Nat × Nat)) : List (FaultInfo × Nat) :=
  xs.filterMap fun x => (s.addressFault G acc x.2.1 x.2.2.1 x.2.2.2 window).map fun f => (f, 2 ^ x.1)

/-! ## The order of accesses (R4, R236, R237, R317, R321) -/

/-- Extents that share no byte pairwise. -/
def allApart : List (Nat × Nat) → Bool
  | [] => true
  | e :: t => !commonByte [e] t && allApart t

/-- Lanes of a word of a gang are carried out in any order: each has accesses of its own, and no two of them write one byte under
any name of it (R4, R237, R244, R358). -/
def State.anyOrder (s : State) (G : Gang) (p : Pend) : Bool :=
  match p.word with
  | .ldg _ | .ldc _ | .lds _ => true
  | .ldl _ | .ldb _ | .stb _ | .tld _ | .tst _ | .tzero _ | .trd _ | .twr _ => false
  | _ =>
    let es := p.reach (setBits p.todo)
    allApart es && allApart (s.physical (clusterOf G.place.core) G.vnum es)

/-- The lanes that are performed now: a free choice of those that are left, all of them where they have an order. -/
def State.lanesNow (s : State) (G : Gang) (p : Pend) : Nat :=
  if s.anyOrder G p then maskOf ((setBits p.todo).filter fun l => !bit (Config.heldLanes s.fresh) l) else p.todo

/-- The faults of a park with the lanes that are held on the same pages: a record names all of them, and the address of the lowest
(R366, R370). -/
def joinHeld (p : Pend) (fs : List (FaultInfo × Nat)) (held : Nat) : List (FaultInfo × Nat) :=
  let more := (setBits held).flatMap fun l => ((p.reach [l]).take 1).filterMap fun e =>
    (fs.find? fun f => decide (f.1.va / 4096 = e.1 / 4096)).map fun f => ({ f.1 with va := e.1 }, 2 ^ l)
  if more.isEmpty then fs else sortBy (fun a b => decide (lowestBit 32 a.2 ≤ lowestBit 32 b.2)) (fs ++ more)

/-- The leaves through which the accesses of a word are translated as it issues, page by page (R365). -/
def State.leaves (s : State) (k asid : Nat) (es : List (Nat × Nat)) : List TlbEntry :=
  (es.flatMap fun e => if inWindow e.1 then [] else
    (List.range ((e.1 + e.2 - 1) / 4096 + 1 - e.1 / 4096)).map fun i => (e.1 / 4096 + i) * 4096).foldl (fun ts va =>
      if ts.any fun t => decide (t.va / pageSize t.lvl = va / pageSize t.lvl) then ts
      else match s.leafNow k asid va with
        | some t => ts ++ [t]
        | none => ts) []

/-- The state in which an event performs accesses of an outstanding word: by a free choice they were translated as the word issued
(R365). -/
def State.begin (s : State) (p : Pend) : State :=
  { s with fresh := s.fresh + 1, held := if Config.early s.fresh then p.xlats else [] }

/-- Take a memory word whose accesses are performed by events of their own. At issue only the faults are found; where there is
none, the word is outstanding with every lane still to be performed. A fault that halts leaves the other lanes of a store as work
that the halt abandons (R379, R380); another parks the word with the lanes that met one and those that have not finished, which
is open (R366). -/
def Issue.defer (x : Issue) (before : State) (ag : Agent) (p : Pend) (run : Nat → Gang → Agent → Pend → List Nat → State → Try) : Issued :=
  let t := run x.g x.gang ag p x.act before
  let met := faultLanes t.faults
  let clear := maskOf (x.act.filter fun l => !bit met l)
  match haltingFault t.faults with
  | some (f, lanes) =>
    let s := x.halt f lanes before
    .stop (if p.storing && decide (clear ≠ 0) then s.addPend x.g { p with todo := clear } else s)
  | none =>
    if t.faults.isEmpty then .done (before.addPend x.g { p with todo := p.lanes })
    else
      let now := if before.comesAfter x.gang x.gang.pend (p.reach (setBits clear)) then 0
        else before.lanesNow x.gang { p with todo := clear }
      let u := run x.g x.gang ag p (setBits now) { before with fresh := before.fresh + 1 }
      let left := maskOf (x.act.filter fun l => !bit now l || bit (faultLanes u.faults) l)
      let held := maskOf ((setBits left).filter fun l => !bit met l)
      .done ((u.s.addPend x.g { u.p with park := some (Park.mk' left (joinHeld p t.faults held) none) }).queueGroup
        (partOfVnum x.gang.vnum) (.word x.g p.id))

/-! ## The frame (R235-R237, R310, R318) -/

/-- A memory word: its kind and counter, its sources and destinations, its scope once the window is known (R235), its
address faults, and an attempt at some of its lanes. -/
structure MemWord where
  f      : LM
  kind   : PendKind
  cls    : Cnt
  srcs   : List (Src × Nat)
  dsts   : List (Dst × Nat)
  fmt    : Nat := 0
  scales : List (Nat × Nat × Byte) := []
  ok     : Bool := true
  check  : State → Gang → Pend → List Nat → List (FaultInfo × Nat)
  run    : Nat → Gang → Agent → Pend → List Nat → State → Try

/-- The scope of a word: workgroup at most when all its accesses are in the window (R235). -/
def lmScope (f : LM) (p : Pend) (ls : List Nat) : Nat :=
  if decide (2 ≤ f.scope.toNat) && (p.reach ls).all fun e => inWindow e.1 then 1 else f.scope.toNat

/-- The frame of a memory word. -/
def memWord (i : Instr) (w : MemWord) (s : State) : Host.Outcome State Fault Refusal :=
  let f := w.f
  laneWord i (some f.msel.toNat) { srcs := w.srcs, dsts := w.dsts, gated := true }
    (fun x s =>
      let rel := bit f.order.toNat 1
      if !w.ok then .illegal
      else if x.act.isEmpty then .done s
      else if x.gang.full w.cls || (rel && x.gang.releaseWaits) || (bit f.order.toNat 0 && x.gang.acquireWaits) then .wait
      else
        let (id, s) := s.newId
        let u : Use := { srcs := w.srcs, dsts := w.dsts, gated := true }
        let base := if f.amode = 0 then 0 else (x.gang.spair f.aux.toNat).toNat
        let p := { x.pend u i w.kind (some w.cls) id with
          base := base, ops := SMap.put fmtKey ⟨BitVec.ofNat 32 w.fmt, false, true⟩ (x.capture w.srcs) }
        let zeros := x.help.flatMap fun l => (List.range p.dests.length).map fun k => p.result l k ⟨0, false, true⟩
        let p := { p with results := zeros, scales := w.scales, xlats := s.leaves (clusterOf x.gang.place.core) x.gang.vnum (p.reach x.act) }
        match haltingFault (w.check s x.gang p x.act) with
        | some (fault, lanes) => .stop (x.halt fault lanes s)
        | none =>
          let s := if rel then s.release x.gang (lmScope f p x.act) else s
          let ag := s.laneAgent x.gang x.run.addr x.run.next
          x.defer s ag p w.run) s

/-- The registers of an address operand (R60). -/
def addrRegs (f : LM) : Nat := if f.amode = 0 then 2 else 1

/-- The faults of accesses of one size at each lane's own address (R235). -/
def perLaneCheck (f : LM) (acc size : Nat) (window : Bool) (s : State) (G : Gang) (p : Pend) (ls : List Nat) :
    List (FaultInfo × Nat) :=
  lmFaults s G acc window (ls.map fun l => (l, p.addr f l, size, size))

/-- The faults of an access to `n` lines from the lowest active lane's address (R228, R240, R241). -/
def firstCheck (f : LM) (acc n : Nat) (s : State) (G : Gang) (p : Pend) (ls : List Nat) : List (FaultInfo × Nat) :=
  match ls with
  | [] => []
  | _ =>
    (lmFaults s G acc true ((List.range n).map fun i => (p.first, p.addr f p.first + 256 * i, 256, 256))).map fun x => (x.1, maskOf ls)

/-! ## Element loads (R238) -/

/-- The registers of `count` elements of a width code. -/
def loadCells (w count : Nat) (bs : List Byte) (bad : Bool) : List Cell :=
  let sz := [1, 1, 2, 2, 4, 8].getD w 4
  (List.range count).flatMap fun k =>
    let v := ofBytes ((bs.drop (k * sz)).take sz)
    match w with
    | 1 => cells false (wrap 32 (sext 8 v)) bad
    | 3 => cells false (wrap 32 (sext 16 v)) bad
    | 5 => cells true v bad
    | _ => cells false v bad

/-- The lanes of LDG. -/
def runLdg (f : LM) (_ : Nat) (G : Gang) (ag : Agent) (p : Pend) (ls : List Nat) (s : State) : Try :=
  Try.lanes s p ls fun s p l =>
    match s.lsLoad G ag (s.far G f.scope.toNat) f.hint.toNat (p.addr f l) (lmBytes f * lmCount f) with
    | (s, .error e) => (s, .error e)
    | (s, .ok d) => (s, .ok (p.addResults l (loadCells f.width.toNat (lmCount f) d.bytes d.bad)))

/-- LDG (R238). -/
def execLdg (f : LM) (s : State) : Host.Outcome State Fault Refusal :=
  memWord (.ldg f) { f := f, kind := .load, cls := .ld, srcs := [(f.a, addrRegs f)], dsts := [(f.dst, WF.span f)],
                     check := perLaneCheck f 0 (lmBytes f * lmCount f) true, run := runLdg f } s

/-- The lanes of LDC, through the constant path (R233, R238). -/
def runLdc (f : LM) (_ : Nat) (G : Gang) (ag : Agent) (p : Pend) (ls : List Nat) (s : State) : Try :=
  Try.lanes s p ls fun s p l =>
    match s.pathRead (.const G.place.core) (clusterOf G.place.core) G.vnum (p.addr f l) (lmBytes f * lmCount f) with
    | (s, .error e) => (s, .error e)
    | (s, .ok d) =>
      let s := s.metData (partOfVnum G.vnum) d ag
      (s, .ok (p.addResults l (loadCells f.width.toNat (lmCount f) d.bytes d.bad)))

/-- LDC (R238). -/
def execLdc (f : LM) (s : State) : Host.Outcome State Fault Refusal :=
  memWord (.ldc f) { f := f, kind := .load, cls := .ld, srcs := [(f.a, addrRegs f)], dsts := [(f.dst, WF.span f)],
                     check := perLaneCheck f 0 (lmBytes f * lmCount f) false, run := runLdc f } s

/-- The faults of a scratch access by offset: misaligned, then outside the scratch (R235, R238). -/
def offsetCheck (f : LM) (acc : Nat) (s : State) (G : Gang) (p : Pend) (ls : List Nat) : List (FaultInfo × Nat) :=
  let size := lmBytes f * lmCount f
  ls.filterMap fun l =>
    let o := p.offset f l
    let va := windowBase + o.toNat
    if o % (size : Int) ≠ 0 then some (misaligned va acc size, 2 ^ l)
    else if o < 0 || !s.scratchOk G o.toNat size then some (protection va acc 5, 2 ^ l)
    else none

/-- The lanes of LDS (R238). -/
def runLds (f : LM) (_ : Nat) (G : Gang) (ag : Agent) (p : Pend) (ls : List Nat) (s : State) : Try :=
  Try.lanes s p ls fun s p l =>
    let o := (p.offset f l).toNat
    let d := s.scratchRead G o (lmBytes f * lmCount f)
    let s := if d.bad then s.metPoisonIn (partOfVnum G.vnum) 2 o ag else s
    (s, .ok (p.addResults l (loadCells f.width.toNat (lmCount f) d.bytes d.bad)))

/-- LDS (R238). -/
def execLds (f : LM) (s : State) : Host.Outcome State Fault Refusal :=
  memWord (.lds f) { f := f, kind := .load, cls := .ld, srcs := [(f.a, 1)], dsts := [(f.dst, WF.span f)],
                     check := offsetCheck f 0, run := runLds f } s

/-! ## Element stores (R239, R242) -/

/-- The bytes a lane stores, register by register, each with its poison: a 64-bit element is two registers. -/
def Pend.stores (p : Pend) (f : LM) (l : Nat) : List (List Byte × Bool) :=
  (List.range (lmCount f * (if f.width.toNat = 5 then 2 else 1))).map fun k =>
    let c := p.cell l 1 k
    (toBytes (min 4 (lmBytes f)) c.val.toNat, c.p)

/-- Store a lane's registers one after another from an address. -/
def storeLane (s : State) (g : Nat) (G : Gang) (far : Bool) (hint : Nat) :
    List (List Byte × Bool) → Nat → State × Option FaultInfo
  | [], _ => (s, none)
  | (bs, pz) :: t, va =>
    match s.lsStore g G far hint va bs pz with
    | (s, some f) => (s, some f)
    | (s, none) => storeLane s g G far hint t (va + bs.length)

/-- The lanes of STG. -/
def runStg (f : LM) (g : Nat) (G : Gang) (_ : Agent) (p : Pend) (ls : List Nat) (s : State) : Try :=
  Try.lanes s p ls fun s p l =>
    match storeLane s g G (s.far G f.scope.toNat) f.hint.toNat (p.stores f l) (p.addr f l) with
    | (s, some e) => (s, .error e)
    | (s, none) => (s, .ok p)

/-- STG (R239). -/
def execStg (f : LM) (s : State) : Host.Outcome State Fault Refusal :=
  memWord (.stg f) { f := f, kind := .store, cls := .st, srcs := [(f.a, addrRegs f), (f.b, WF.span f)], dsts := [],
                     check := perLaneCheck f 1 (lmBytes f * lmCount f) true, run := runStg f } s

/-- The lanes of STS. -/
def runSts (f : LM) (_ : Nat) (G : Gang) (_ : Agent) (p : Pend) (ls : List Nat) (s : State) : Try :=
  Try.lanes s p ls fun s p l =>
    let o := (p.offset f l).toNat
    let so := (p.stores f l).foldl (fun (so : State × Nat) c => (so.1.scratchWrite G so.2 c.1 c.2, so.2 + c.1.length)) (s, o)
    (so.1.spoilRings G o (so.2 - o), .ok p)

/-- STS (R239). -/
def execSts (f : LM) (s : State) : Host.Outcome State Fault Refusal :=
  memWord (.sts f) { f := f, kind := .store, cls := .st, srcs := [(f.a, 1), (f.b, WF.span f)], dsts := [],
                     check := offsetCheck f 1, run := runSts f } s

/-- The lanes of CSTORE. -/
def runCstore (f : LM) (g : Nat) (G : Gang) (_ : Agent) (p : Pend) (ls : List Nat) (s : State) : Try :=
  Try.lanes s p ls fun s p l =>
    match storeLane s g G (s.far G f.scope.toNat) f.hint.toNat (p.stores f l) (p.compact f l) with
    | (s, some e) => (s, .error e)
    | (s, none) => (s, .ok p)

/-- CSTORE (R242). -/
def execCstore (f : LM) (s : State) : Host.Outcome State Fault Refusal :=
  memWord (.cstore f) { f := f, kind := .store, cls := .st, srcs := [(f.a, addrRegs f), (f.b, WF.span f)], dsts := [],
                        check := fun s G p ls => lmFaults s G 1 true (ls.map fun l => (l, p.compact f l, lmBytes f, lmBytes f)),
                        run := runCstore f } s

/-! ## Lines (R240, R241) -/

/-- Read a line piece by piece: the pieces carry their own poison (R234). -/
def State.loadPieces (s : State) (G : Gang) (ag : Agent) (far : Bool) (hint size : Nat) :
    Nat → Nat → State × Except FaultInfo (List Data)
  | 0, _ => (s, .ok [])
  | n + 1, va =>
    match s.lsLoad G ag far hint va size with
    | (s, .error f) => (s, .error f)
    | (s, .ok d) =>
      match s.loadPieces G ag far hint size n (va + size) with
      | (s, .error f) => (s, .error f)
      | (s, .ok ds) => (s, .ok (d :: ds))

/-- A line of 256 bytes with the poison of each byte's unit, and its physical address. -/
structure LineData where
  bytes : List Byte
  bad   : List Bool
  pa    : Nat

/-- Read the line at an address. -/
def State.loadLine (s : State) (G : Gang) (ag : Agent) (far : Bool) (hint va : Nat) : State × Except FaultInfo LineData :=
  let size := if inWindow va then 4 else 64
  match s.loadPieces G ag far hint size (256 / size) va with
  | (s, .error f) => (s, .error f)
  | (s, .ok ds) => (s, .ok ⟨ds.flatMap Data.bytes, ds.flatMap fun d => List.replicate size d.bad, (ds.head?.map Data.pa).getD 0⟩)

def LineData.word (d : LineData) (off : Nat) : Nat := ofBytes ((d.bytes.drop off).take 4)
def LineData.badAt (d : LineData) (off n : Nat) : Bool := ((d.bad.drop off).take n).any id

/-- Read `n` lines one after another; the faults of all of them are found. -/
def State.loadLines (s : State) (G : Gang) (ag : Agent) (far : Bool) (hint : Nat) : Nat → Nat → State × List FaultInfo × List LineData
  | 0, _ => (s, [], [])
  | n + 1, va =>
    let (s, here) := s.loadLine G ag far hint va
    let (s, fs, ds) := s.loadLines G ag far hint n (va + 256)
    match here with
    | .error f => (s, f :: fs, ds)
    | .ok d => (s, fs, d :: ds)

/-- LDL: whole lines into pairs (R240). The word finishes as a whole. -/
def runLdl (f : LM) (_ : Nat) (G : Gang) (ag : Agent) (p : Pend) (ls : List Nat) (s : State) : Try :=
  match ls with
  | [] => ⟨s, p, []⟩
  | _ =>
    match s.loadLines G ag (s.far G f.scope.toNat) f.hint.toNat (lmCount f) (p.addr f p.first) with
    | (s, fs@(_ :: _), _) => ⟨s, p, fs.map fun e => (e, maskOf ls)⟩
    | (s, [], ds) =>
      ⟨s, ls.foldl (fun (p : Pend) l =>
        let bad := ds.any fun d => d.badAt (4 * l) 4 || d.badAt (128 + 4 * l) 4
        p.addResults l (ds.flatMap fun d =>
          [⟨BitVec.ofNat 32 (d.word (4 * l)), bad, true⟩, ⟨BitVec.ofNat 32 (d.word (128 + 4 * l)), bad, true⟩])) p, []⟩

/-- LDL (R240). -/
def execLdl (f : LM) (s : State) : Host.Outcome State Fault Refusal :=
  memWord (.ldl f) { f := f, kind := .load, cls := .ld, srcs := [(f.a, addrRegs f)], dsts := [(f.dst, 2 * lmCount f)],
                     check := firstCheck f 0 (lmCount f), run := runLdl f } s

/-! ### Block lines (R97, R98, R241) -/

/-- The format of a block-line word, as it stood at issue. -/
def Pend.fmt (p : Pend) : Fmt := Fmt.ofEntry (SMap.getD fmtKey ⟨0, false, true⟩ p.ops).val.toNat

/-- Bytes of a line that one lane's register holds: 4, or 3 for 6-bit elements (R97). -/
def laneBytes (F : Fmt) : Nat := if F.width = 6 then 3 else 4

/-- Offset in the line of the bytes of lane `l` of register `h`; part 1 begins at byte 192 (R241). -/
def lineOffset (F : Fmt) (part h l : Nat) : Nat := 192 * part + laneBytes F * (32 * h + l)

/-- The registers and lanes that a block-line word moves: a pair of all lanes, or lanes 0-15 of one register. -/
def lineRegs (part : Nat) : Nat := if part = 1 then 1 else 2
def lineLanes (part : Nat) (ls : List Nat) : List Nat := if part = 1 then ls.filter fun l => decide (l < 16) else ls

/-- A lane register from the bytes of a line: 6-bit elements spread to bytes with bits 7:6 zero. -/
def unpackLane (F : Fmt) (n : Nat) : Nat :=
  if F.width = 6 then (List.range 4).foldl (fun v k => v + n / 64 ^ k % 64 * 256 ^ k) 0 else n

/-- The bytes of a line from a lane register: only bits 5:0 of a 6-bit element. -/
def packLane (F : Fmt) (v : Nat) : Nat :=
  if F.width = 6 then (List.range 4).foldl (fun n k => n + v / 256 ^ k % 64 * 64 ^ k) 0 else v

/-- Block length in lanes, and the number of blocks of the transfer. -/
def lineBlocks (F : Fmt) (part : Nat) : Nat := if part = 1 then 2 else if F.width = 6 then 8 else 256 * 8 / F.width / F.blockLen

/-- Lanes of one block. -/
def blockSpan (F : Fmt) : Nat := F.blockLen / (if F.width = 4 then 8 else 4)

/-- Whether the transfer moves all of block `j`: every position of it that holds a lane is active, and some lane is
(R96). -/
def wholeBlock (F : Fmt) (G : Gang) (act : Nat) (j : Nat) : Bool :=
  let ls := (List.range (blockSpan F)).map fun i => (blockSpan F * j + i) % 32
  ls.any (bit act) && ls.all fun l => !G.holds l || bit act l

/-- The faults of a block line: no register operand out of its part (R241). -/
def lineOk (F : Fmt) (part : Nat) : Bool := F.b && (decide (part = 0) || decide (F.width = 6))

/-- LDB (R241). -/
def runLdb (f : LM) (_ : Nat) (G : Gang) (ag : Agent) (p : Pend) (ls : List Nat) (s : State) : Try :=
  match ls with
  | [] => ⟨s, p, []⟩
  | _ =>
    let F := p.fmt
    let part := f.fn.toNat
    let va := p.addr f p.first
    let far := s.far G f.scope.toNat
    match s.loadLine G ag far f.hint.toNat va with
    | (s, .error e) => ⟨s, p, [(e, maskOf ls)]⟩
    | (s, .ok d) =>
      let (s, sc, sbad) := if inWindow va then (s, List.replicate 17 (0 : Byte), false)
        else
          let r := s.loadSide G.place.core G.vnum far va d.pa
          (if r.2.2 then r.1.uncorrectable (partOfVnum G.vnum) 11 d.pa ag else r.1, r.2.1, r.2.2)
      let p := (lineLanes part ls).foldl (fun (p : Pend) l =>
        let offs := (List.range (lineRegs part)).map fun h => lineOffset F part h l
        let bad := sbad || offs.any fun o => d.badAt o (laneBytes F)
        p.addResults l (offs.map fun o =>
          ⟨BitVec.ofNat 32 (unpackLane F (d.word o % 256 ^ laneBytes F)), bad, true⟩)) p
      let whole := (List.range (lineBlocks F part)).filter (wholeBlock F G p.lanes)
      ⟨s, { p with scales := whole.map fun j => (f.xB.toNat, j, sc.getD (8 * part + j) 0) }, []⟩

/-- LDB (R241). -/
def execLdb (f : LM) (s : State) : Host.Outcome State Fault Refusal :=
  s.withGang fun G =>
    let raw := (SMap.getD f.width.toNat 0 G.sp.fmt).toNat % 2 ^ 24
    memWord (.ldb f) { f := f, kind := .load, cls := .ld, srcs := [(f.a, addrRegs f)], dsts := [(f.dst, 2 - f.fn.toNat)],
                       fmt := raw, ok := lineOk (Fmt.ofEntry raw) f.fn.toNat, check := firstCheck f 0 1,
                       run := runLdb f } s

/-- The format tag of an entry (R98, R241). -/
def formatTag (raw : Nat) : Nat :=
  let plain := raw % 2 ^ 23
  match (presets.filter fun e => decide (3 ≤ e.1)).find? fun e => decide (e.2.toNat % 2 ^ 23 = plain) with
  | some e => e.1 - 2
  | none =>
    let F := Fmt.ofEntry raw
    if F.width = 8 then (if F.blockLen = 32 then 8 else 9) else if F.width = 6 then 10 else 11

/-- The scale bytes and the tag that STB writes: those of whole blocks; the tag whenever a byte is written (R241). -/
def Pend.side (p : Pend) (f : LM) (G : Gang) : List (Nat × Byte) :=
  let F := p.fmt
  let part := f.fn.toNat
  ((List.range (lineBlocks F part)).filter (wholeBlock F G p.lanes)).map (fun j =>
    (8 * part + j, (p.scales.find? fun x => decide (x.2.1 = j)).elim 0 fun x => x.2.2))
  ++ [(16, BitVec.ofNat 8 (formatTag F.raw))]

/-- One unit's share of the bytes that a block line stores: whole, they are one access that is poisoned where a byte of it is, and
otherwise each byte is written apart (R234). -/
def unitPieces (unit : Nat) (bs : List (Nat × Byte × Bool)) : List (Nat × List Byte × Bool) :=
  match bs with
  | [] => []
  | b :: _ =>
    if bs.length = unit then [(b.1, bs.map fun x => x.2.1, bs.any fun x => x.2.2)]
    else bs.map fun x => (x.1, [x.2.1], x.2.2)

/-- The bytes of the moving lanes of STB by the units of poison: 64 bytes of memory, 4 bytes of scratch (R234). -/
def linePieces (xs : List (Nat × List Byte × Bool)) : List (Nat × List Byte × Bool) :=
  let unit := if xs.any fun x => inWindow x.1 then 4 else 64
  let bs := xs.flatMap fun x => x.2.1.zipIdx.map fun b => (x.1 + b.2, b.1, x.2.2)
  (List.range (256 / unit)).flatMap fun u => unitPieces unit (bs.filter fun b => decide (b.1 % 256 / unit = u))

/-- Store pieces of a line one after another. -/
def storePieces (s : State) (g : Nat) (G : Gang) (far : Bool) (hint : Nat) : List (Nat × List Byte × Bool) → State × Option FaultInfo
  | [] => (s, none)
  | (va, bs, pz) :: t =>
    match s.lsStore g G far hint va bs pz with
    | (s, some f) => (s, some f)
    | (s, none) => storePieces s g G far hint t

/-- Store the registers of the moving lanes of STB: one access, whose whole units lose their poison where every byte is clear
(R234, R241). -/
def storeLines (s : State) (g : Nat) (G : Gang) (far : Bool) (hint : Nat) (xs : List (Nat × List Byte × Bool)) :
    State × Option FaultInfo := storePieces s g G far hint (linePieces xs)

/-- STB (R241). -/
def runStb (f : LM) (g : Nat) (G : Gang) (_ : Agent) (p : Pend) (ls : List Nat) (s : State) : Try :=
  let F := p.fmt
  let part := f.fn.toNat
  let move := lineLanes part ls
  if move.isEmpty then ⟨s, { p with scales := [] }, []⟩
  else
    let va := p.addr f p.first
    let far := s.far G f.scope.toNat
    let chunks := (List.range (lineRegs part)).flatMap fun h => move.map fun l =>
      let c := p.cell l 1 h
      (va + lineOffset F part h l, toBytes (laneBytes F) (packLane F c.val.toNat), c.p)
    match storeLines s g G far f.hint.toNat chunks with
    | (s, some e) => ⟨s, p, [(e, maskOf ls)]⟩
    | (s, none) =>
      let s := if inWindow va then s
        else s.storeSide G.place.core G.vnum far f.hint.toNat va (p.side f G)
      ⟨s, { p with scales := [] }, []⟩

/-- STB (R241). The scale bytes are read with the other sources, at issue (R4). -/
def execStb (f : LM) (s : State) : Host.Outcome State Fault Refusal :=
  s.withGang fun G =>
    let raw := (SMap.getD f.width.toNat 0 G.sp.fmt).toNat % 2 ^ 24
    let sc := (List.range 16).map fun j => (f.xB.toNat, j, BitVec.ofNat 8 (G.lane.scaleByte f.xB.toNat j))
    memWord (.stb f) { f := f, kind := .store, cls := .st, srcs := [(f.a, addrRegs f), (f.b, 2 - f.fn.toNat)], dsts := [],
                       fmt := raw, ok := lineOk (Fmt.ofEntry raw) f.fn.toNat, check := firstCheck f 1 1,
                       scales := sc, run := runStb f } s

/-! ## Atomics (R243) -/

/-- The new value of an atomic of `w` bits (R243). -/
def atomNew (op w old b new : Nat) : Nat :=
  let f := fun (g : Num → Num → Num × Bool) =>
    (binary32.conv 0 false 0 (g (binary32.decode old) (binary32.decode b)).1).code
  match op with
  | 0 => (old + b) % 2 ^ w
  | 1 => if sext w old ≤ sext w b then old else b
  | 2 => if sext w old ≤ sext w b then b else old
  | 3 => min old b
  | 4 => max old b
  | 5 => old &&& b
  | 6 => old ||| b
  | 7 => old ^^^ b
  | 8 => b
  | 9 => if old = b then new else old
  | 10 => f fun x y => Num.sum [x, y] false
  | 11 => f fun x y => (x.minOf y, false)
  | _ => f fun x y => (x.maxOf y, false)

/-- Bytes of an atomic's operand. -/
def atomBytes (f : LM) : Nat := if f.width = 5 then 8 else 4

/-- Registers of an atomic's operand B. -/
def atomRegs (f : LM) : Nat := (if f.width = 5 then 2 else 1) * (if f.fn = 9 then 2 else 1)

/-- One lane of ATOM or REDG: the old value and whether it was poisoned (R234, R243). -/
def atomLane (f : LM) (acc : Acc) (g : Nat) (G : Gang) (ag : Agent) (p : Pend) (l : Nat) (s : State) : State × Except FaultInfo (Nat × Bool) :=
  let va := p.addr f l
  let n := atomBytes f
  let wide := decide (f.width = 5)
  let b := p.value l 1 0 wide
  let c := if f.fn = 9 then p.value l 1 (if wide then 2 else 1) wide else (0, false)
  let new := fun old => toBytes n (atomNew f.fn.toNat (8 * n) old b.1 c.1)
  let pz := b.2 || c.2
  if inWindow va then
    let o := va - windowBase
    let d := s.scratchRead G o n
    let old := ofBytes d.bytes
    let s := if d.bad then s.metPoisonIn (partOfVnum G.vnum) 2 o ag else s
    ((s.scratchWrite G o (new old) (d.bad || pz)).spoilRings G o n, .ok (old, d.bad))
  else
    match s.atHome G.place.core G.vnum acc false va with
    | (s, .error e) => (s, .error e)
    | (s, .ok pa) =>
      let (s, lost) := s.homeAtomic G.req pa n
      let old := ofBytes (s.readPa pa n)
      let bad := s.extentBad pa n || lost
      let s := if bad then s.metPoison (partOfVnum G.vnum) pa ag else s
      ((s.putAtomic G.req lost pa (new old) (bad || pz)).spoilSpills g G va n, .ok (old, bad))

/-- The lanes of ATOM. -/
def runAtom (f : LM) (g : Nat) (G : Gang) (ag : Agent) (p : Pend) (ls : List Nat) (s : State) : Try :=
  Try.lanes s p ls fun s p l =>
    match atomLane f .rmw g G ag p l s with
    | (s, .error e) => (s, .error e)
    | (s, .ok o) => (s, .ok (p.addResults l (cells (decide (f.width = 5)) o.1 o.2)))

/-- ATOM (R243). -/
def execAtom (f : LM) (s : State) : Host.Outcome State Fault Refusal :=
  memWord (.atom f) { f := f, kind := .load, cls := .ld, srcs := [(f.a, addrRegs f), (f.b, atomRegs f)],
                      dsts := [(f.dst, if f.width = 5 then 2 else 1)], check := perLaneCheck f 2 (atomBytes f) true,
                      run := runAtom f } s

/-- The lanes of REDG. -/
def runRedg (f : LM) (g : Nat) (G : Gang) (ag : Agent) (p : Pend) (ls : List Nat) (s : State) : Try :=
  Try.lanes s p ls fun s p l =>
    match atomLane f .write g G ag p l s with
    | (s, .error e) => (s, .error e)
    | (s, .ok _) => (s, .ok p)

/-- REDG (R243). -/
def execRedg (f : LM) (s : State) : Host.Outcome State Fault Refusal :=
  memWord (.redg f) { f := f, kind := .store, cls := .st, srcs := [(f.a, addrRegs f), (f.b, atomRegs f)], dsts := [],
                      check := perLaneCheck f 1 (atomBytes f) true, run := runRedg f } s

/-! ## Exact cells (R244, R245) -/

/-- Access a lane's exact cell in the shadow area of its home slice: `new` takes the accumulator and gives the one that the word leaves
(R245); a word that only reads gives none. -/
def cellLane (f : LM) (acc : Acc) (new : Option (Exact → Exact)) (pz : Bool) (g : Nat) (G : Gang) (ag : Agent) (p : Pend) (l : Nat)
    (s : State) : State × Except FaultInfo (Exact × Bool) :=
  match s.atHome G.place.core G.vnum acc false (p.addr f l) with
  | (s, .error e) => (s, .error e)
  | (s, .ok pa) =>
    let (s, image) := s.takeCell G.req pa
    let old := Exact.ofImage image
    let bad := s.extentBad pa 64
    let s := if bad then s.metPoison (partOfVnum G.vnum) pa ag else s
    let s := s.putCell G.req pa ((new.map fun h => h old).getD old).image
    let s := if new.isSome then s.spoilSpills g G (p.addr f l) 64 else s
    (if pz then s.setSectorBad (pa / 64) true else s, .ok (old, bad))

/-- The lanes of ATOMX.add. -/
def runAtomxAdd (f : LM) (g : Nat) (G : Gang) (ag : Agent) (p : Pend) (ls : List Nat) (s : State) : Try :=
  Try.lanes s p ls fun s p l =>
    let b := p.cell l 1 0
    match cellLane f .write (some fun a => a.add (binary32.decode b.val.toNat)) b.p g G ag p l s with
    | (s, .error e) => (s, .error e)
    | (s, .ok _) => (s, .ok p)

/-- ATOMX.add (R244). -/
def execAtomxAdd (f : LM) (s : State) : Host.Outcome State Fault Refusal :=
  memWord (.atomxAdd f) { f := f, kind := .store, cls := .st, srcs := [(f.a, addrRegs f), (f.b, 1)], dsts := [],
                          check := perLaneCheck f 1 64 false, run := runAtomxAdd f } s

/-- The lanes of ATOMX.clr. -/
def runAtomxClr (f : LM) (g : Nat) (G : Gang) (ag : Agent) (p : Pend) (ls : List Nat) (s : State) : Try :=
  Try.lanes s p ls fun s p l =>
    match cellLane f .write (some fun _ => Exact.zero) false g G ag p l s with
    | (s, .error e) => (s, .error e)
    | (s, .ok _) => (s, .ok p)

/-- ATOMX.clr (R244). -/
def execAtomxClr (f : LM) (s : State) : Host.Outcome State Fault Refusal :=
  memWord (.atomxClr f) { f := f, kind := .store, cls := .st, srcs := [(f.a, addrRegs f)], dsts := [],
                          check := perLaneCheck f 1 64 false, run := runAtomxClr f } s

/-- The lanes of a read of exact cells, `new` being what it leaves there; causes under R145. -/
def cellRead (f : LM) (new : Option (Exact → Exact)) (g : Nat) (G : Gang) (ag : Agent) (p : Pend) (ls : List Nat) (s : State) : Try :=
  Try.lanes s p ls fun s p l =>
    match cellLane f .rmw new false g G ag p l s with
    | (s, .error e) => (s, .error e)
    | (s, .ok o) =>
      let r := binary32.round (bits f.fn.toNat 4 2) (bit f.fn.toNat 5) 0 o.1.value
      let p := p.addResults l (cells false r.code o.2)
      (s, .ok { p with conds := if o.2 then p.conds else addCond l r.cond p.conds })

/-- The lanes of ATOMX.rd. -/
def runAtomxRd (f : LM) (g : Nat) (G : Gang) (ag : Agent) (p : Pend) (ls : List Nat) (s : State) : Try :=
  cellRead f none g G ag p ls s

/-- ATOMX.rd (R244). -/
def execAtomxRd (f : LM) (s : State) : Host.Outcome State Fault Refusal :=
  memWord (.atomxRd f) { f := f, kind := .load, cls := .ld, srcs := [(f.a, addrRegs f)], dsts := [(f.dst, 1)],
                         check := perLaneCheck f 2 64 false, run := runAtomxRd f } s

/-- The lanes of ATOMX.rdclr. -/
def runAtomxRdclr (f : LM) (g : Nat) (G : Gang) (ag : Agent) (p : Pend) (ls : List Nat) (s : State) : Try :=
  cellRead f (some fun _ => Exact.zero) g G ag p ls s

/-- ATOMX.rdclr (R244). -/
def execAtomxRdclr (f : LM) (s : State) : Host.Outcome State Fault Refusal :=
  memWord (.atomxRdclr f) { f := f, kind := .load, cls := .ld, srcs := [(f.a, addrRegs f)], dsts := [(f.dst, 1)],
                            check := perLaneCheck f 2 64 false, run := runAtomxRdclr f } s

/-! ## Performing the accesses (R236, R237, R317, R321) -/

/-- An attempt at lanes of an outstanding memory word. -/
def wordTry (g : Nat) (G : Gang) (ag : Agent) (p : Pend) (ls : List Nat) (s : State) : Try :=
  match p.word with
  | .ldg f => runLdg f g G ag p ls s
  | .ldc f => runLdc f g G ag p ls s
  | .lds f => runLds f g G ag p ls s
  | .stg f => runStg f g G ag p ls s
  | .sts f => runSts f g G ag p ls s
  | .cstore f => runCstore f g G ag p ls s
  | .ldl f => runLdl f g G ag p ls s
  | .ldb f => runLdb f g G ag p ls s
  | .stb f => runStb f g G ag p ls s
  | .atom f => runAtom f g G ag p ls s
  | .redg f => runRedg f g G ag p ls s
  | .atomxAdd f => runAtomxAdd f g G ag p ls s
  | .atomxClr f => runAtomxClr f g G ag p ls s
  | .atomxRd f => runAtomxRd f g G ag p ls s
  | .atomxRdclr f => runAtomxRdclr f g G ag p ls s
  | _ => ⟨s, p, []⟩

/-- Put an outstanding word back under its number. -/
def Gang.putPend (G : Gang) (p : Pend) : Gang := { G with pend := G.pend.map fun x => if x.id = p.id then p else x }

/-- An outstanding operation that can go on: not complete, not parked unless it has been replayed, its partition not halted (R310,
R366, R372, R380). -/
def State.ripe (s : State) (g op : Nat) : Option (Gang × Pend) :=
  match s.gang? g, s.pend? g op with
  | some G, some p =>
    if p.done || p.park.any (fun k => !k.replay) || (s.part (partOfVnum G.vnum)).halted then none else some (G, p)
  | _, _ => none

/-- A replay that takes effect when the agent's own event next tries it. -/
def Park.released (k : Park) : Park := { k with written := false, replay := true }

/-- Re-issue the unfinished lanes of a parked word by an attempt `f`: they finish, park again in a new group, or halt (R372, R373).
Behind earlier accesses to a byte in common, and while its gang is not resident, the word stays parked, and the gang's later words
behind it (R320, R367). -/
def State.retry (s : State) (g : Nat) (G : Gang) (p : Pend) (k : Park) (f : Agent → Pend → List Nat → State → Try) : State :=
  let part := partOfVnum G.vnum
  let ag := s.laneAgent G p.runAddr p.widx
  let older := G.pend.takeWhile fun x => decide (x.id ≠ p.id)
  if s.wgStage G = some .saved ∨ s.wgStage G = some .setup ∨ s.comesAfter G older (p.reach (setBits k.lanes)) then
    s.modGang g fun G => G.putPend { p with park := some k.released }
  else
    let t := f ag p (setBits k.lanes) s
    match haltingFault t.faults with
    | some (e, lanes) => s.halt part ag e lanes
    | none =>
      if t.faults.isEmpty then t.s.modGang g fun G => G.putPend { t.p with park := none }
      else (t.s.modGang g fun G => G.putPend { t.p with park := some (Park.mk' (faultLanes t.faults) t.faults (some k)) }).queueGroup
        part (.word g p.id)

/-- An event of an outstanding word: one that has been replayed is re-issued; where nothing of it is left to perform it completes;
else, once every earlier access of the gang to a byte in common is performed, lanes of it are performed by `f`, and it completes when
none is left. A fault halts, or parks the word with every lane that is not finished (R236, R237, R321, R366). -/
def State.advance (s : State) (g : Nat) (G : Gang) (p : Pend) (f : Agent → Pend → List Nat → State → Try)
    (fin : State → Pend → State) : State :=
  match p.park with
  | some k => s.retry g G p k f
  | none =>
  if p.todo = 0 then fin s p
  else if s.comesAfter G (G.pend.takeWhile fun x => decide (x.id ≠ p.id)) (p.reach (setBits p.todo)) then s
  else
    let now := s.lanesNow G p
    let left := maskOf ((setBits p.todo).filter fun l => !bit now l)
    let ag := s.laneAgent G p.runAddr p.widx
    let t := f ag p (setBits now) (s.begin p)
    match haltingFault t.faults with
    | some (e, lanes) => s.halt (partOfVnum G.vnum) ag e lanes
    | none =>
      let u := { t.s with held := [] }
      if t.faults.isEmpty then
        let p := { t.p with todo := left }
        let s := u.modGang g fun G => G.putPend p
        if left = 0 then fin s p else s
      else
        let park := Park.mk' (faultLanes t.faults ||| left) (joinHeld p t.faults left) none
        (u.modGang g fun G => G.putPend { t.p with todo := 0, park := some park }).queueGroup (partOfVnum G.vnum) (.word g p.id)

/-! ## PREF (R246) -/

/-- PREF: brings lines closer; a fault drops the lane (R246). -/
def execPref (f : LM) (s : State) : Host.Outcome State Fault Refusal :=
  let srcs := [(f.a, addrRegs f)]
  laneWord (.pref f) (some f.msel.toNat) { srcs := srcs, gated := true }
    (fun x s =>
      let base := if f.amode = 0 then 0 else (x.gang.spair f.aux.toNat).toNat
      let p := { x.pend {} (.pref f) .load none 0 with base := base, ops := x.capture srcs }
      let core := x.gang.place.core
      .done (x.act.foldl (fun s l =>
        let va := p.addr f l
        if inWindow va then s
        else if f.fn = 1 then
          match s.translate (clusterOf core) x.gang.vnum .read false va with
          | (s, .ok t) => s.reachRead x.gang.req t.pa 1 false false
          | (s, .error _) => s
        else (s.load core x.gang.vnum false f.hint.toNat va 1).1) s)) s

end Sys2Proof.Machine
end

