-- ==== Sys2Proof/Machine/Ordering.lean ====
section
/-! DEFINITION. Counters, waits and fences (R309-R326), and the report of owed conditions (R385, R386). -/

namespace Sys2Proof.Machine

/-- The counter of a WAITR class (R309). -/
def cntOf (n : Nat) : Cnt :=
  match n with
  | 0 => .ld
  | 1 => .st
  | 2 => .cp
  | 3 => .tl
  | 4 => .gx
  | _ => .pl

/-- The six counters with their thresholds, 15 left out (R48). -/
def thresholds (ld st cp tl gx pl : BitVec 4) : List (Cnt × Nat) :=
  [(Cnt.ld, ld.toNat), (.st, st.toNat), (.cp, cp.toNat), (.tl, tl.toNat), (.gx, gx.toNat), (.pl, pl.toNat)].filter
    fun t => decide (t.2 ≠ 15)

/-- Whether a WAITC's condition holds (R311). -/
def Gang.met (G : Gang) (ts : List (Cnt × Nat)) (any : Bool) : Bool :=
  ts.isEmpty || (if any then ts.any fun t => decide (G.count t.1 ≤ t.2) else ts.all fun t => decide (G.count t.1 ≤ t.2))

/-- WAITC (R311). -/
def execWaitc (ld st cp tl gx pl : BitVec 4) (mode : BitVec 2) (s : State) : Host.Outcome State Fault Refusal :=
  scalarWord (.waitc ld st cp tl gx pl mode) {}
    (fun g G s =>
      if G.runsIssued && G.met (thresholds ld st cp tl gx pl) (decide (mode = 1)) then .done (s.putGang g G.next) else .wait) s

/-- WAITR: one counter against an unsigned register; 63 or more is met at once (R312). -/
def execWaitr (a : BitVec 7) (cls : BitVec 3) (s : State) : Host.Outcome State Fault Refusal :=
  scalarWord (.waitr a cls) {}
    (fun g G s =>
      if G.runsIssued && decide (G.count (cntOf cls.toNat) ≤ (G.sreg a.toNat).toNat) then .done (s.putGang g G.next) else .wait) s

/-- FENCE: the release, then the acquire, of R318 (R324). -/
def execFence (scope : BitVec 3) (ord : BitVec 2) (s : State) : Host.Outcome State Fault Refusal :=
  scalarWord (.fence scope ord) {}
    (fun g G s =>
      let rel := bit ord.toNat 1
      let acq := bit ord.toNat 0
      if !G.runsIssued || (rel && G.releaseWaits) || (acq && (G.acquiring || G.acquireWaits)) then .wait
      else
        let s := if rel then s.release G scope.toNat else s
        let s := if acq then s.acquire G scope.toNat else s
        .done (s.putGang g G.next)) s

/-- Drop the lines of a named path's cache (R325). -/
def State.dropPath (s : State) (core : Nat) (paths : Nat) : State :=
  let k := clusterOf core
  let s := if bit paths 0 then s.dropLines core fun _ => true else s
  let s := if bit paths 1 then s.modCore core fun c => { c with const := [], pats := [] } else s
  let s := if bit paths 2 then s.modCluster k fun K => { K with tile := [] } else s
  if bit paths 3 then s.modCluster k fun K => { K with stream := [] } else s

/-- PFENCE (R325). -/
def execPfence (paths : BitVec 4) (s : State) : Host.Outcome State Fault Refusal :=
  scalarWord (.pfence paths) {}
    (fun g G s =>
      if !G.runsIssued || G.releaseWaits then .wait
      else .done (((s.release G 3).dropPath G.place.core paths.toNat).putGang g G.next)) s

/-- The gang has nothing in flight: no run, no counted operation, no special-function result, no pin (R28, R189, R326). -/
def Gang.drained (G : Gang) : Bool :=
  G.runs.isEmpty && G.pend.all fun x => x.cls.isNone && decide (x.kind ≠ .sfu) && x.pins.isEmpty

/-- The gang may arrive at a rendezvous: it is drained, and every Marver word of it is complete but for an exchange that still waits
for its partner (R189, R203). -/
def Gang.packReady (G : Gang) : Bool :=
  G.drained && G.pend.all fun x => match x.kind with
    | .xxch _ paired _ _ => !paired || x.done
    | _ => true

/-- Report the owed set and clear it: one log record for each bit (R386). The LGD record is a record of the log itself
(R387). -/
def State.reportOwed (s : State) (g : Nat) : State :=
  match s.gang? g with
  | none => s
  | some G =>
    let s := s.modGang g fun G => { G with owed := ⟨false, false, false⟩ }
    let s := if G.owed.wbp then s.logGang g 0x08 0x05 0 0 G.pc else s
    let s := if G.owed.chp then s.logGang g 0x09 0x05 0 0 G.pc else s
    if G.owed.lgd then s.log G.vnum (some g) (0x0A * 2 ^ 56 + 0x06 * 2 ^ 48) 0 0 (0x1FF * 2 ^ 23) else s

/-- The effect of XFENCE once the gang is drained: FENCE.acqrel.sys, then the report (R326). -/
def State.xfence (s : State) (g : Nat) (G : Gang) : State :=
  ((s.release G 4).acquire G 4).reportOwed g

/-- XFENCE (R326). -/
def execXfence (s : State) : Host.Outcome State Fault Refusal :=
  scalarWord .xfence {}
    (fun g G s => if G.drained then .done ((s.xfence g G).modGang g Gang.next) else .wait) s

end Sys2Proof.Machine
end

