-- ==== Sys2Proof/Machine/Rendezvous.lean ====
section
/-! DEFINITION. Named barriers, REPACK and UNPACK, and EXIT (R28, R187-R196). -/

namespace Sys2Proof.Machine

/-! ## The gangs of a workgroup -/

/-- The gangs of a workgroup with their numbers, ascending GIDX. -/
def State.members (s : State) (W : Wg) : List (Nat × Gang) :=
  sortBy (fun a b => decide (a.2.place.gidx ≤ b.2.place.gidx)) (W.gangs.filterMap fun g => (s.gang? g).map fun G => (g, G))

/-- The awake gangs: neither exited nor asleep (R194). -/
def State.awakeGangs (s : State) (W : Wg) : List (Nat × Gang) :=
  (s.members W).filter fun gG => decide (gG.2.life = .awake)

/-- Named barriers of a workgroup (R194, R340). -/
def State.barriersOf (s : State) (W : Wg) : Nat :=
  if W.child.isSome then 0 else (s.grid? W.grid).elim 0 Grid.bars

/-- Whether a gang waits in BARW on a barrier. -/
def Gang.inBarrier (G : Gang) (b : Nat) : Bool := decide (G.wait = .barrier b)

def Gang.inAnyBarrier (G : Gang) : Bool :=
  match G.wait with
  | .barrier _ => true
  | _ => false

def Gang.inRendezvous (G : Gang) : Bool :=
  match G.wait with
  | .rendezvous _ _ _ => true
  | _ => false

/-! ## Barriers (R194-R196) -/

/-- Replaced bindings, the newest first, after gangs have passed a barrier: a binding whose binder had arrived there is seen, so that
they see neither the one it replaced nor any that is older; `seen` are the slots of which that holds already (R208). -/
def passBindings (b : Nat) (passed : List Nat) : List Nat → List OldBinding → List OldBinding
  | _, [] => []
  | seen, o :: rest =>
    let now := o.bars.contains b
    let seen := if now then insNat o.slot seen else seen
    let o := { o with bars := o.bars.erase b, seers := if seen.contains o.slot then o.seers.filter fun g => !passed.contains g else o.seers }
    o :: passBindings b passed seen rest

/-- A phase of a barrier has completed: the gangs that passed it see the bindings of pattern slots by gangs that had arrived at
it since (R208). -/
def Wg.seeBindings (W : Wg) (b : Nat) (passed : List Nat) : Wg :=
  { W with older := (passBindings b passed [] W.older).filter fun o => !o.seers.isEmpty }

/-- The arrivals of a workgroup are discarded (R191). -/
def Wg.dropArrivals (W : Wg) : Wg := { W with older := W.older.map fun (o : OldBinding) => { o with bars := [] } }

/-- Release every gang that waits in BARW on a barrier: it acquires at workgroup scope and goes on at the next word (R195,
R196). -/
def State.releaseBarrier (s : State) (w : Nat) (W : Wg) (b : Nat) : State :=
  let out := (s.members W).filter fun gG => gG.2.inBarrier b
  (out.foldl (fun s gG => (s.acquire gG.2 1).modGang gG.1 fun G => { G.next with wait := .none }) s).modWg w fun W =>
    W.seeBindings b (out.map Prod.fst)

/-- The check of a barrier (R195). -/
def State.checkBarrier (s : State) (w b : Nat) : State :=
  match s.wg? w with
  | none => s
  | some W =>
    let B := SMap.getD b ⟨0, 0⟩ W.bars
    let need := if B.e = 0 then (s.awakeGangs W).length else B.e
    if need ≤ B.a then
      (s.modWg w fun W => { W with bars := SMap.put b { B with a := 0 } W.bars }).releaseBarrier w W b
    else s

/-- The checks made when a gang exits or sleeps (R195). -/
def State.checkBarriers (s : State) (w : Nat) : State :=
  match s.wg? w with
  | none => s
  | some W => W.bars.foldl (fun s kb => s.checkBarrier w kb.1) s

/-- The illegal-instruction fault when every awake gang waits, some at a rendezvous and some in BARW (R193). -/
def State.checkMixedWait (s : State) (w g : Nat) (word : Nat) : State :=
  match s.wg? w, s.gang? g with
  | some W, some G =>
    let aw := s.awakeGangs W
    if !aw.isEmpty && aw.all (fun x => x.2.inRendezvous || x.2.inAnyBarrier) && aw.any (fun x => x.2.inRendezvous)
        && aw.any (fun x => x.2.inAnyBarrier) then s.illegalScalar G word
    else s
  | _, _ => s

/-- The word of a scalar instruction. -/
def wordOf (i : Instr) : Nat := ((encode i).headD 0).toNat

/-- BARI (R195). -/
def execBari (a : BitVec 7) (b : BitVec 6) (s : State) : Host.Outcome State Fault Refusal :=
  scalarWord (.bari a b) {}
    (fun g G s =>
      match s.wg? G.place.wg with
      | none => .wait
      | some W =>
        let e := (G.sreg a.toNat).toNat
        if s.barriersOf W ≤ b.toNat ∨ 64 < e ∨ W.gangs.length < e then .stop (s.illegalScalar G (wordOf (.bari a b)))
        else
          let s := (s.putGang g G.next).modWg G.place.wg fun W =>
            { W with bars := SMap.upd b.toNat ⟨0, 0⟩ (fun B => { B with e := e }) W.bars }
          .done (s.checkBarrier G.place.wg b.toNat)) s

/-- An arrival waits for the last words of earlier runs and for the release at workgroup scope (R196). -/
def Gang.arrivalWaits (G : Gang) : Bool := !G.runsIssued || G.releaseWaits

/-- Count gang `g`'s arrival at a barrier; the bindings it made before it go with it (R195, R208). -/
def State.arrive (s : State) (g w b : Nat) : State :=
  s.modWg w fun W => { W with
    bars := SMap.upd b ⟨0, 0⟩ (fun B => { B with a := B.a + 1 }) W.bars
    older := W.older.map fun o => if o.binder = g then { o with bars := insNat b o.bars } else o }

/-- BARA (R195, R196). -/
def execBara (b : BitVec 6) (s : State) : Host.Outcome State Fault Refusal :=
  scalarWord (.bara b) {}
    (fun g G s =>
      match s.wg? G.place.wg with
      | none => .wait
      | some W =>
        if s.barriersOf W ≤ b.toNat then .stop (s.illegalScalar G (wordOf (.bara b)))
        else if G.arrivalWaits then .wait
        else
          let s := ((s.release G 1).arrive g G.place.wg b.toNat).putGang g G.next
          .done (s.checkBarrier G.place.wg b.toNat)) s

/-- BARW: arrive, check, and wait until the phase completes (R195, R196). -/
def execBarw (b : BitVec 6) (s : State) : Host.Outcome State Fault Refusal :=
  scalarWord (.barw b) {}
    (fun g G s =>
      match s.wg? G.place.wg with
      | none => .wait
      | some W =>
        if s.barriersOf W ≤ b.toNat then .stop (s.illegalScalar G (wordOf (.barw b)))
        else if G.arrivalWaits then .wait
        else
          let s := ((s.release G 1).arrive g G.place.wg b.toNat).putGang g { G with wait := .barrier b.toNat }
          let s := s.checkBarrier G.place.wg b.toNat
          .done (s.checkMixedWait G.place.wg g (wordOf (.barw b)))) s

/-! ## Rendezvous (R188-R192) -/

/-- A lane as a rendezvous moves it: its birth gang, the gang that holds it, whether it goes on, its registers (main and
operand, keys within the lane) and its mask bits m1-m7. -/
structure Moved where
  birth : Nat
  gidx  : Nat
  go    : Bool
  regs  : List (Nat × Cell)
  bits  : List Bool

/-- The lane at a position of a gang, if there is one, set aside or not (R190). -/
def Gang.laneAt (G : Gang) (p : Nat) : Option LanePos :=
  match SMap.find? p G.lane.pos with
  | none => some ⟨G.place.gidx, false⟩
  | some x => x

/-- The main and operand registers of a position (R191). -/
def Gang.laneRegs (G : Gang) (p : Nat) : List (Nat × Cell) :=
  (G.lane.regs.filter fun kc => decide (kc.1 / 1024 = p) && decide (kc.1 % 1024 < 512)).map fun kc => (kc.1 % 1024, kc.2)

/-- The lanes at a position of a list of gangs (R190). -/
def lanesAt (P : List (Nat × Gang)) (p : Nat) : List Moved :=
  P.filterMap fun gG =>
    (gG.2.laneAt p).map fun x =>
      let go := match gG.2.wait with
        | .rendezvous true k _ => (gG.2.mreg 0).getLsbD p && (gG.2.mreg k).getLsbD p
        | _ => false
      ⟨x.birth, gG.2.place.gidx, go, gG.2.laneRegs p, (List.range 8).map fun k => (gG.2.mreg k).getLsbD p⟩

/-- Ascending birth GIDX, then GIDX of the holder. -/
def Moved.le (a b : Moved) : Bool := decide (a.birth < b.birth) || (decide (a.birth = b.birth) && decide (a.gidx ≤ b.gidx))

/-- What REPACK leaves at a position, gang by gang of P (R190). -/
def packPosition (P : List (Nat × Gang)) (p : Nat) : List (Option Moved) :=
  let ls := lanesAt P p
  let A := sortBy Moved.le (ls.filter Moved.go)
  let B := sortBy Moved.le (ls.filter fun x => !x.go)
  A.map some ++ List.replicate (P.length - A.length - B.length) none ++ B.map some

/-- Put lanes into a gang: their registers, and what stands at each position. -/
def Gang.placeLanes (G : Gang) (ls : List (Nat × Option Moved)) : Gang :=
  let regs := ls.foldl (fun (m : SMap Cell) pl =>
    match pl.2 with
    | some x => SMap.putAll (x.regs.map fun kc => (pl.1 * 1024 + kc.1, kc.2)) m
    | none => m) []
  let pos := ls.map fun pl => (pl.1, pl.2.map fun x => (⟨x.birth, !x.go⟩ : LanePos))
  { G with lane := { G.lane with regs := regs, shadow := [], pos := pos, err := [] } }

/-- The gangs of P with their new lanes, one list of positions per gang. -/
def packAll (P : List (Nat × Gang)) : List (List (Nat × Option Moved)) :=
  let cols := (List.range 32).map fun p => packPosition P p
  (List.range P.length).map fun i => cols.zipIdx.map fun c => (c.2, (c.1.getD i none))

/-- Complete a REPACK: `lead` is the arrived gang with the lowest GIDX (R190, R191). -/
def State.repack (s : State) (w : Nat) (P : List (Nat × Gang)) (lead : Gang) (target : Nat) : State :=
  let packed := packAll P
  let s := (P.zip packed).foldl (fun s x =>
    let goes := x.2.filterMap fun pl => match pl.2 with
      | some l => if l.go then some (pl.1, l) else none
      | none => none
    let G := x.1.2.placeLanes x.2
    if goes.isEmpty then s.putGang x.1.1 { G with life := .asleep, wait := .none }
    else
      let masks := (List.range 8).map fun k =>
        (k, BitVec.ofNat 32 (maskOf ((goes.filter fun pl => decide (k = 0) || pl.2.bits.getD k false).map Prod.fst)))
      s.putGang x.1.1 { G with life := .awake, wait := .none, s := lead.s, c := lead.c, stack := lead.stack, pc := target,
                               m := masks }) s
  s.modWg w fun W => { W.dropArrivals with bars := [] }

/-- Complete an UNPACK (R192). -/
def State.unpack (s : State) (w : Nat) (P : List (Nat × Gang)) (lead : Gang) : State :=
  let lanes := (List.range 32).flatMap fun p => (lanesAt P p).map fun l => (p, { l with go := true })
  let s := P.foldl (fun s gG =>
    let mine := (List.range 32).map fun p =>
      (p, (lanes.find? fun x => decide (x.1 = p) && decide (x.2.birth = gG.2.place.gidx)).map Prod.snd)
    let G := gG.2.placeLanes mine
    let m0 := BitVec.ofNat 32 (maskOf ((mine.filter fun x => x.2.isSome).map Prod.fst))
    s.putGang gG.1 { G with life := .awake, wait := .none, s := lead.s, c := lead.c, stack := lead.stack,
                            pc := (lead.pc + 4) % addrBits, m := [(0, m0)] }) s
  s.modWg w fun W => { W.dropArrivals with bars := [] }

/-- Complete the rendezvous of a workgroup if every awake gang has arrived (R189); `g` is the gang that arrived or
exited last. Where it is an EXIT that completes a mismatched rendezvous, R189 does not say whose record it is: the model charges the
gang and the word that exit (DESIGN CHOICE, log entry 65). -/
def State.checkRendezvous (s : State) (w g : Nat) (word : Nat) : State :=
  match s.wg? w, s.gang? g with
  | some W, some G =>
    let aw := s.awakeGangs W
    if aw.isEmpty || !aw.all (fun x => x.2.inRendezvous) then s
    else
      match aw with
      | [] => s
      | (_, lead) :: _ =>
        let P := (s.members W).filter fun x => decide (x.2.life ≠ .exited)
        let isRepack := fun (G : Gang) => match G.wait with
          | .rendezvous r _ _ => r
          | _ => false
        if aw.any fun x => decide (x.2.pc ≠ lead.pc) || (isRepack x.2 != isRepack lead) then s.illegalScalar G word
        else
          match lead.wait with
          | .rendezvous true _ target => s.repack w P lead target
          | _ =>
            let births := (List.range 32).flatMap fun p => (lanesAt P p).map Moved.birth
            if births.any fun b => !P.any fun x => decide (x.2.place.gidx = b) then s.illegalScalar G word
            else s.unpack w P lead
  | _, _ => s

/-- Whether a workgroup declares roles (R24, R188). -/
def State.hasRoles (s : State) (W : Wg) : Bool :=
  W.child.isNone && (s.grid? W.grid).any fun G => decide (G.f + G.mt + G.v ≠ 0)

/-- Arrive at a rendezvous: report what is owed, wait there, and complete it if this was the last (R189, R193). -/
def State.arriveRendezvous (s : State) (g : Nat) (G : Gang) (i : Instr) (repack : Bool) (m target : Nat) : State :=
  let s := (s.reportOwed g).modGang g fun G => { G with wait := .rendezvous repack m target }
  (s.checkRendezvous G.place.wg g (wordOf i)).checkMixedWait G.place.wg g (wordOf i)

/-- REPACK (R188, R189). -/
def execRepack (m : BitVec 7) (off : BitVec 15) (s : State) : Host.Outcome State Fault Refusal :=
  scalarWord (.repack m off) {}
    (fun g G s =>
      match s.wg? G.place.wg with
      | none => .wait
      | some W =>
        if s.hasRoles W || G.sp.win then .stop (s.illegalScalar G (wordOf (.repack m off)))
        else if !G.packReady then .wait
        else .done (s.arriveRendezvous g G (.repack m off) true m.toNat (G.target off))) s

/-- UNPACK (R188, R189, R192). -/
def execUnpack (s : State) : Host.Outcome State Fault Refusal :=
  scalarWord .unpack {}
    (fun g G s =>
      match s.wg? G.place.wg with
      | none => .wait
      | some W =>
        if s.hasRoles W then .stop (s.illegalScalar G (wordOf .unpack))
        else if !G.packReady then .wait
        else .done (s.arriveRendezvous g G .unpack false 0 0)) s

/-! ## EXIT (R28) -/

/-- The set and the convened index of a matrix gang (R251). -/
def State.setOf (s : State) (G : Gang) : Nat × Nat :=
  let i := G.place.gidx - (s.grid? G.grid).elim 0 Grid.f
  (i / 4, i % 4)

/-- Whether a set has a contribution that is not accepted (R252). -/
def Wg.unaccepted (W : Wg) (set : Nat) : Bool := W.contrib.any fun kv => decide (kv.1 / 2 ^ 32 = set) && !kv.2.isEmpty

/-- EXIT: the effect of XFENCE, and the gang counts as exited; barriers and a rendezvous that await it are checked
(R189, R195). Exiting while the gang's set has a contribution that is not accepted is illegal (R252). The recomputable
region ends (R328). -/
def execExit (s : State) : Host.Outcome State Fault Refusal :=
  scalarWord .exit {}
    (fun g G s =>
      if !G.runs.isEmpty then .wait
      else if G.place.role = 2 ∧ (s.wg? G.place.wg).any (fun W => W.unaccepted (s.setOf G).1) then
        .stop (s.illegalScalar G (wordOf .exit))
      else if !G.drained then .wait
      else
        let s := (s.xfence g G).modGang g fun G => { G with life := .exited, restart := { G.restart with rv := false } }
        let s := (s.checkBarriers G.place.wg).checkRendezvous G.place.wg g (wordOf .exit)
        .done (s.checkMixedWait G.place.wg g (wordOf .exit))) s

end Sys2Proof.Machine
end

