-- ==== Sys2Proof/Machine/Matrix.lean ====
section
/-! DEFINITION. The tile store, convened sets and matrix operations, tile words, LMMA, and the restart state
(R247-R270). -/

namespace Sys2Proof.Machine

/-! ## Tile slots (R247-R249) -/

/-- Key of a byte of a slot. -/
def tileKey (side slot byte : Nat) : Nat := side * 393216 + 4096 * slot + byte

/-- Key of a scale byte of a line of a slot. -/
def tileScKey (side slot line j : Nat) : Nat := side * 24576 + 256 * slot + 16 * line + j

/-- Slots that a gang's workgroup names: T (R247). -/
def State.tiles (s : State) (G : Gang) : Nat :=
  match s.grid? G.grid, s.wg? G.place.wg with
  | some D, some W => if W.child.isSome then 0 else D.tiles
  | _, _ => 0

/-- The use `id` of slots waits, as of clk `now`, for the uses with an earlier tile time: a write for every one, a read for writes. In
the clk of its own tile time it waits for those that may still share it (R249). -/
def Wg.slotWaits (W : Wg) (id now : Nat) (write : Bool) (keys : List Nat) : Bool :=
  (W.busy.any fun b => decide (b.id = id) && decide (now ≤ b.clk))
  || (W.busy.takeWhile fun b => decide (b.id ≠ id)).any fun b => keys.contains b.key && (write || b.write)

/-- Note uses of slots in tile-time order; those of one clk by rank (R249). -/
def Wg.hold (W : Wg) (id clk rank : Nat) (write : Bool) (keys : List Nat) : Wg :=
  let before := fun (b : TileUse) => decide (b.clk < clk) || (decide (b.clk = clk) && decide (b.rank ≤ rank))
  { W with busy := W.busy.takeWhile before ++ (keys.map fun k => ⟨k, write, id, clk, rank⟩) ++ W.busy.dropWhile before }

/-- The uses of an access end. -/
def Wg.release (W : Wg) (id : Nat) : Wg := { W with busy := W.busy.filter fun b => decide (b.id ≠ id) }

/-- The keys of `n` slots from `z` on a side. -/
def slotKeys (side z n : Nat) : List Nat := (List.range n).map fun i => side * 96 + z + i

/-- A read of the tile store met poisoned sectors of the slots given (R392): counted, and halting in strict mode. -/
def State.metTiles (s : State) (p : Nat) (ag : Agent) (slots : List Nat) : State :=
  (slots.foldl (fun ks k => insNat k ks) []).foldl (fun s k => s.metPoisonIn p 4 k ag) s

/-- Whether the sector of a tile byte is poisoned. -/
def Wg.tilePoison (W : Wg) (key : Nat) : Bool := W.tileBad.contains (key / 64)

def Wg.setTilePoison (W : Wg) (key : Nat) (b : Bool) : Wg :=
  { W with tileBad := if b then insNat (key / 64) W.tileBad else W.tileBad.erase (key / 64) }

/-! ## Convened sets (R251, R252) -/

/-- Key of operation `k` of a set. -/
def opKey (set k : Nat) : Nat := set * 2 ^ 32 + k

/-- MCONV: convene; an empty mask does not suppress it (R252). -/
def execMconv (f : LT) (s : State) : Host.Outcome State Fault Refusal :=
  laneWord (.mconv f) (some f.msel.toNat) { gated := true }
    (fun x s =>
      if x.gang.eng.conv then .illegal
      else
        let set := (s.setOf x.gang).1
        let s := s.modGang x.g fun G => { G with eng := { G.eng with conv := true, opnum := 0 } }
        .done (s.modWg x.gang.place.wg fun W => { W with latches := SMap.erase set W.latches })) s

/-- MCONV.dis: disband (R252). -/
def execMconvDis (f : LT) (s : State) : Host.Outcome State Fault Refusal :=
  laneWord (.mconvDis f) (some f.msel.toNat) { gated := true }
    (fun x s =>
      let set := (s.setOf x.gang).1
      if !x.gang.eng.conv || (s.wg? x.gang.place.wg).any (fun W => W.unaccepted set) then .illegal
      else
        let s := s.modGang x.g fun G => { G with eng := { G.eng with conv := false } }
        .done (s.modWg x.gang.place.wg fun W => { W with latches := SMap.erase set W.latches })) s

/-! ## Operand forms (R256-R259, R263) -/

/-- K of a dense operation for a pair of entries; 0 when they do not form a pair of R256. -/
def denseK (A B : Fmt) : Nat :=
  if A.b && B.b then
    (if A.width = 4 ∧ B.width = 4 then 128 else if A.width ≠ 4 ∧ B.width ≠ 4 then 64 else 0)
  else if A.s16 && B.s16 then 32 else 0

/-- B slots of a pattern: 2, 4 or 8 (R258). -/
def bSlots (spat : Nat) : Nat := 2 * 2 ^ spat

/-- Metadata bytes per row (R263). -/
def metaBytes (A : Fmt) : Nat := if A.width = 4 then 32 else 16

/-- Whether two ranges of slots meet. -/
def meets (a n b m : Nat) : Bool := decide (a < b + m) && decide (b < a + n)

/-- The checks that the three words share at issue (R253, R256-R258): `b` slots of B at zB, none for GMMA. -/
def contribOk (G : Gang) (tiles b : Nat) (f : LT) : Bool :=
  let A := G.fmt f.fmt.toNat
  let B := G.fmt (f.aux.toNat % 16)
  G.eng.conv && decide (denseK A B ≠ 0) && (if A.b then decide (f.xA.toNat ≤ 24) else decide (f.xA = 0))
  && decide (f.zD.toNat + 16 ≤ tiles) && decide (f.zB.toNat + b ≤ tiles)
  && (decide (b = 0) || !meets f.zD.toNat 16 f.zB.toNat b)

/-- The fields in which four contributions must agree (R253). -/
def sharedFields (f : LT) : LT := { f with vA := 0, xA := 0, sS := 0, msel := 0 }

/-- The LT fields of a contribution. -/
def ltOf : Instr → LT
  | .mma f => f
  | .mmas f => f
  | .gmma f => f
  | _ => ⟨0, 0, 0, 0, 0, 0, 0, 0, 0, 0, false, false, 0, 0, 0⟩

/-! ## Acceptance (R253, R261, R263, R264) -/

/-- A fault raised at acceptance, recorded against the issuer's contribution (R253). -/
def State.acceptFault (s : State) (c : Contrib) (f : FaultInfo) : State :=
  match s.gang? c.gang with
  | some G => s.halt (partOfVnum G.vnum) (s.laneAgent G c.run c.widx) f 0
  | none => s

/-- The illegal-instruction fault of a contribution. -/
def contribIllegal (c : Contrib) : FaultInfo := plainFault 0x13 0 0 (laneWord.wordsNat (encode c.word) / 2 ^ 32)

/-- Complete the contributions of an operation: each gang's tl falls (R255). -/
def State.retireContribs (s : State) (cs : List Contrib) : State :=
  cs.foldl (fun s c =>
    match s.pend? c.gang c.pend with
    | some p => s.complete c.gang { p with masks := [] }
    | none => s) s

/-- The group table of a GMMA: row counts and B slots (R264). -/
def groupTable (bs : List Byte) (n : Nat) : List Nat := (List.range n).map fun i => ofBytes ((bs.drop (4 * i)).take 4)

/-- An entry of the group table that is legal (R264). -/
def groupOkEntry (tiles zD e : Nat) : Bool :=
  let b := bits e 22 16
  decide (bits e 31 23 = 0) && decide (b % 2 = 0) && decide (b + 1 < tiles) && !meets zD 16 b 2

/-- The row groups of a table: first row, row after the last, B slot; and whether rows were cut off (R264). -/
def rowGroups (es : List Nat) : List (Nat × Nat × Nat) × Bool :=
  let r := es.foldl (fun (r : List (Nat × Nat × Nat) × Nat) e =>
    let start := min 128 r.2
    let stop := min 128 (r.2 + bits e 15 0)
    (if start < stop then r.1 ++ [(start, stop, bits e 22 16)] else r.1, r.2 + bits e 15 0)) ([], 0)
  (r.1, decide (128 < r.2))

/-- What an accepted operation computes: its row groups and the status it writes, or the fault it raises. -/
inductive Accept where
  | ok (groups : List (Nat × Nat × Nat)) (status : Option Nat)
  | fault (f : FaultInfo)

/-- The operand checks at acceptance of the word of the issuer (R263, R264). -/
def State.acceptCheck (s : State) (G : Gang) (c : Contrib) : Accept :=
  let f := ltOf c.word
  match c.word with
  | .gmma _ =>
    let n := bits f.aux.toNat 7 4 + 1
    if c.sS % 64 ≠ 0 then .fault (contribIllegal c)
    else if !s.scratchOk G c.sS (4 * n) then .fault (protection (windowBase + c.sS) 0 5)
    else
      let es := groupTable (s.scratchRead G c.sS (4 * n)).bytes n
      if !es.all (groupOkEntry (s.tiles G) f.zD.toNat) then .fault (contribIllegal c)
      else
        let g := rowGroups es
        .ok g.1 (some (if g.2 then 1 else 0))
  | .mmas _ =>
    let n := 128 * metaBytes (Fmt.ofEntry c.fa)
    if f.fn ≠ 2 then .ok [(0, 128, f.zB.toNat)] none
    else if c.sS % 256 ≠ 0 then .fault (contribIllegal c)
    else if !s.scratchOk G c.sS n then .fault (protection (windowBase + c.sS) 0 5)
    else .ok [(0, 128, f.zB.toNat)] none
  | _ => .ok [(0, 128, f.zB.toNat)] none

/-- Poison of the scratch words that a word's group table or metadata stands in: counted, and in strict mode a halt (R263, R264,
R392). -/
def State.metScratch (s : State) (G : Gang) (c : Contrib) (n : Nat) : State :=
  if (s.scratchRead G c.sS n).bad then s.metPoisonIn (partOfVnum G.vnum) 2 c.sS (s.laneAgent G c.run c.widx) else s

/-- The poison that acceptance meets in a group table (R264, R392). -/
def State.metTable (s : State) (G : Gang) (c : Contrib) : State :=
  match c.word with
  | .gmma f => s.metScratch G c (4 * (bits f.aux.toNat 7 4 + 1))
  | _ => s

/-- The slots an operation reads, and those it writes, on both sides (R249, R258, R263, R264). -/
def MatOp.slots (o : MatOp) (f : LT) (sparse01 : Bool) : List Nat × List Nat :=
  let b := bSlots f.spat.toNat
  let reads := o.groups.flatMap (fun g => (List.range b).map fun i => g.2.2 + i) ++ (if sparse01 then [f.vM.toNat] else [])
  (reads ++ reads.map (· + 96), slotKeys 0 f.zD.toNat 16 ++ slotKeys 1 f.zD.toNat 16)

/-- Whether a word takes its metadata from a tile slot. -/
def fromSlot : Instr → Bool
  | .mmas f => decide (f.fn = 1)
  | _ => false

/-- Accept operation `k` of a set once its four contributions stand (R253). -/
def State.accept (s : State) (w set k : Nat) : State :=
  match s.wg? w with
  | none => s
  | some W =>
    let cs := sortBy (fun (a b : Contrib) => decide (((s.gang? a.gang).elim 0 fun G => G.place.gidx)
      ≤ ((s.gang? b.gang).elim 0 fun G => G.place.gidx))) (SMap.getD (opKey set k) [] W.contrib)
    match cs with
    | [c, _, _, _] =>
      match s.gang? c.gang with
      | none => s
      | some G =>
        let f := ltOf c.word
        let s := s.modWg w fun W => { W with contrib := SMap.erase (opKey set k) W.contrib }
        if cs.any fun d => decide (laneOp d.word ≠ laneOp c.word) || decide (sharedFields (ltOf d.word) ≠ sharedFields f) then
          s.acceptFault c (contribIllegal c)
        else if c.lanes = 0 then s.retireContribs cs
        else
          let latch := SMap.find? set W.latches
          if latch.any fun l => decide (l.fmt ≠ f.fmt.toNat) || decide (l.spat ≠ f.spat.toNat) then
            s.acceptFault c (contribIllegal c)
          else
            match s.acceptCheck G c with
            | .fault e => s.acceptFault c e
            | .ok groups status =>
              let a := latch.elim (cs.map Contrib.a) Latch.a
              let asc := latch.elim (cs.map Contrib.asc) Latch.asc
              let o : MatOp := ⟨c.pend, w, set, cs, a, asc, groups, [], none⟩
              let rank := (s.gang? s.cur).elim 0 fun G => G.place.qtr
              let sl := o.slots f (fromSlot c.word)
              let s := s.modWg w fun W =>
                let W := (W.hold o.id s.now rank false sl.1).hold o.id s.now rank true sl.2
                { W with latches := if f.reuse then SMap.put set ⟨f.fmt.toNat, f.spat.toNat, a, asc⟩ W.latches
                                    else SMap.erase set W.latches }
              let s := s.metTable G c
              let s := match status with
                | some v =>
                  let j := f.xD.toNat % 8
                  let clear := fun (p : Pend) => if p.id = c.pend then { p with masks := [] } else p
                  s.modGang c.gang fun G =>
                    let G := { G with pend := G.pend.map clear }
                    if j = 0 then G else G.setM j (BitVec.ofNat 32 v)
                | none => s
              { s with twins := SMap.upd (twinOf G.place.core) [] (· ++ [o]) s.twins }
    | _ => s

/-! ## Contributions (R253-R255, R259) -/

/-- A register range as it is read in every lane (R257). -/
def Issue.block32 (x : Issue) (v n : Nat) : List (Nat × Cell) :=
  let a : Src := ⟨false, .v, BitVec.ofNat 8 v⟩
  (List.range n).flatMap fun i => (List.range 32).map fun l => (32 * i + l, x.cell l a i)

/-- Contributions of a gang that have not retired (R255). -/
def Gang.contributions (G : Gang) : Nat :=
  (G.pend.filter fun x => match x.kind with
    | .matrix _ => !x.done
    | _ => false).length

/-- The scratch that GMMA and MMAS read comes after stores of the gang to it that are not performed yet (R320). -/
def State.tableAfter (s : State) (G : Gang) (i : Instr) (f : LT) : Bool :=
  match i with
  | .gmma _ | .mmas _ => s.comesAfter G G.pend [(windowBase + (G.sreg f.sS.toNat).toNat, 4096)]
  | _ => false

/-- A contribution: its operands are read, tl rises, and the operation is accepted if it is the last of the four (R253).
`md` is the number of metadata registers, `b` the number of B slots, `ok` the word's own checks. -/
def contribWord (i : Instr) (f : LT) (md b : Nat) (ok : Bool) (masks : List Nat) (s : State) :
    Host.Outcome State Fault Refusal :=
  let a : Src := ⟨false, .v, f.vA⟩
  let m : Src := ⟨false, .v, f.vM⟩
  laneWord i (some f.msel.toNat)
    { srcs := if md = 0 then [(a, 16)] else [(a, 16), (m, md)], mwr := masks, gated := true, trap := false }
    (fun x s =>
      let G := x.gang
      if !ok || !contribOk G (s.tiles G) b f then .illegal
      else if G.full .tl || decide (4 ≤ G.contributions) || s.tableAfter G i f then .wait
      else
        let set := (s.setOf G).1
        let k := G.eng.opnum
        let (id, s) := s.newId
        let p := { x.pend {} i (.matrix k) (some .tl) id with
                   masks := if (s.setOf G).2 = 0 then masks.map fun j => (j, 0, 0) else [] }
        let c : Contrib :=
          { gang := x.g, pend := id, word := i, a := x.block32 f.vA.toNat 16,
            asc := (List.range 128).map fun j => G.lane.scaleByte (f.xA.toNat + j / 16) (j % 16),
            md := x.block32 f.vM.toNat md, sS := (G.sreg f.sS.toNat).toNat, lanes := (G.mreg f.msel.toNat).toNat,
            run := x.run.addr, widx := x.run.next, fa := (SMap.getD f.fmt.toNat 0 G.sp.fmt).toNat % 2 ^ 24,
            fb := (SMap.getD (f.aux.toNat % 16) 0 G.sp.fmt).toNat % 2 ^ 24 }
        let s := (s.addPend x.g p).modGang x.g fun G => { G with eng := { G.eng with opnum := k + 1 } }
        let s := s.modWg G.place.wg fun W => { W with contrib := SMap.upd (opKey set k) [] (· ++ [c]) W.contrib }
        .done (s.accept G.place.wg set k)) s

/-- MMA (R253, R259). -/
def execMma (f : LT) (s : State) : Host.Outcome State Fault Refusal := contribWord (.mma f) f 0 2 true [] s

/-- MMAS (R259, R262, R263). -/
def execMmas (f : LT) (s : State) : Host.Outcome State Fault Refusal :=
  s.withGang fun G =>
    let A := G.fmt f.fmt.toNat
    let n := metaBytes A / 4
    let src := f.fn.toNat
    let ok := A.b && (match src with
      | 0 => decide (f.vM.toNat % n = 0)
      | 1 => decide (f.vM.toNat < s.tiles G)
      | _ => true)
    contribWord (.mmas f) f (if src = 0 then n else 0) (bSlots f.spat.toNat) ok [] s

/-- GMMA (R259, R264). -/
def execGmma (f : LT) (s : State) : Host.Outcome State Fault Refusal :=
  contribWord (.gmma f) f 0 0 true (maskWrites (.gmma f)) s

/-! ## What an operation computes (R256-R264) -/

/-- The code and poison of an A register's element for row `m`, kept value `q` (R257). -/
def MatOp.aElem (o : MatOp) (F : Fmt) (k m q : Nat) : Nat × Bool :=
  let i := m % 32 / 2
  let e := m % 2 * k + q
  let per := 2 * k / 32
  let w := 32 / per
  let c := SMap.getD (32 * i + e / per) ⟨0, false, true⟩ (o.a.getD (m / 32) [])
  (c.val.toNat / 2 ^ (w * (e % per)) % 2 ^ F.width, c.p)

/-- The value of a kept value, with its block's scale (R85, R257). -/
def MatOp.aValue (o : MatOp) (F : Fmt) (vA k m q : Nat) : Num :=
  let i := m % 32 / 2
  let code := (o.aElem F k m q).1
  if F.b then
    let j := (m % 2 * k + q) / F.blkLane / F.blkSpan
    blockValue F code ((o.asc.getD (m / 32) []).getD (16 * (i / 2) + F.sb (vA + i) j) 0)
  else F.decode code

/-- The value of B at (k, n) on a side, and whether its sector is poisoned (R258). -/
def Wg.bValue (W : Wg) (side zB b : Nat) (F : Fmt) (k n : Nat) : Num × Bool :=
  let col := 64 * n * b / 2
  let off := if F.width = 4 then col + k / 2 else if F.width = 16 then col + 2 * k else col + k
  let key := tileKey side zB off
  let byte := (Memory.byte W.tile key).toNat
  let bad := W.tilePoison key
  if F.width = 16 then (F.decode (byte + 256 * (Memory.byte W.tile (key + 1)).toNat), bad)
  else
    let code := if F.width = 4 then byte / 16 ^ (k % 2) % 16 else byte % 2 ^ F.width
    let e := if F.width = 4 then off % 256 * 2 + k % 2 else off % 256
    let sc := (Memory.byte W.tileSc (tileScKey side (zB + off / 4096) (off % 4096 / 256) (e / F.blockLen))).toNat
    (blockValue F code sc, bad)

/-- The metadata field of row `r` (R263). -/
def MatOp.rowMeta (o : MatOp) (W : Wg) (side : Nat) (f : LT) (mb r : Nat) : Nat :=
  match f.fn.toNat with
  | 0 =>
    let c := r / 32
    let per := 32 / (mb / 4)
    let i := r % 32 / per
    let regs := ((o.contribs[c]?).map Contrib.md).getD []
    (List.range (mb / 4)).foldl (fun n j =>
      n + (SMap.getD (32 * i + mb / 4 * (r % per) + j) ⟨0, false, true⟩ regs).val.toNat * 2 ^ (32 * j)) 0
  | 1 => ofBytes (Memory.read W.tile (tileKey side f.vM.toNat (mb * r)) mb)
  | _ => ofBytes ((o.md.drop (mb * r)).take mb)

/-- The logical k of kept value `q` (R262). -/
def keptK (spat md q : Nat) : Nat :=
  let idx := md / 4 ^ q % 4
  match spat with
  | 0 => q
  | 1 => 4 * (q / 2) + idx
  | _ => 4 * q + idx

/-- One accumulator: groups of 32 in ascending order, each rounded once, each added with one rounding (R110, R260). -/
def accumulate (sat : Bool) (acc groups : Nat) (terms : List (Nat × Num × Num)) : Elem :=
  (List.range groups).foldl (fun (e : Elem) q =>
    let g := Num.dot ((terms.filter fun t => decide (t.1 / 32 = q)).map Prod.snd) [] false
    let r := round32 g.1
    let o := binary32.round 0 sat 0 (Num.sum [binary32.decode e.code, binary32.decode r.code] false)
    ⟨o.code, (e.cond.or o.cond).or ⟨g.2, false, r.ov⟩⟩) ⟨acc, {}⟩

/-- The columns of B on a side as an operation finds them (R258): the values of each, with their poison. -/
def Wg.bColumns (W : Wg) (side zB b : Nat) (F : Fmt) (depth : Nat) : List (List (Num × Bool)) :=
  (List.range 128).map fun n => (List.range depth).map fun k => W.bValue side zB b F k n

/-- The elements of A in a row, with the k that each stands at and its poison (R257, R262). -/
def MatOp.kept (o : MatOp) (W : Wg) (side m : Nat) (f : LT) (c : Contrib) : List (Nat × Num × Bool) :=
  let A := Fmt.ofEntry c.fa
  let k := denseK A (Fmt.ofEntry c.fb)
  let md := if f.spat.toNat = 0 then 0 else o.rowMeta W side f (metaBytes A) m
  (List.range k).map fun q => (keptK f.spat.toNat md q, o.aValue A f.vA.toNat k m q, (o.aElem A k m q).2)

/-- One row of an operation's product on one side, of the terms of `kept`: the new accumulators with their poison, and the causes met
(R260). -/
def MatOp.rowOf (W : Wg) (side m : Nat) (f : LT) (c : Contrib) (cols : List (List (Num × Bool))) (kept : List (Nat × Num × Bool)) :
    List (Nat × Bool × Cond) :=
  let k := denseK (Fmt.ofEntry c.fa) (Fmt.ofEntry c.fb)
  let spat := f.spat.toNat
  let accs := Memory.read W.tile (tileKey side f.zD.toNat (512 * m)) 512
  cols.zipIdx.map fun cn =>
    let ts := kept.map fun t => (t, cn.1.getD t.1 (Num.zero, false))
    let e := accumulate f.sat (ofBytes ((accs.drop (4 * cn.2)).take 4)) (k * bSlots spat / 2 / 32)
      (ts.map fun t => (t.1.1, t.1.2.1, t.2.1))
    (e.code, (ts.any fun t => t.1.2.2 || t.2.2), e.cond)

/-- The row of the whole operation. -/
def MatOp.row (o : MatOp) (W : Wg) (side m : Nat) (f : LT) (c : Contrib) (cols : List (List (Num × Bool))) :
    List (Nat × Bool × Cond) := MatOp.rowOf W side m f c cols (o.kept W side m f c)

/-- Put a row of accumulators. -/
def Wg.putRow (W : Wg) (side m : Nat) (f : LT) (es : List (Nat × Bool × Cond)) : Wg :=
  let key := tileKey side f.zD.toNat (512 * m)
  let W := { W with tile := Memory.write W.tile key (es.flatMap fun e => toBytes 4 e.1) }
  es.zipIdx.foldl (fun W en => if en.1.2.1 then W.setTilePoison (key + 4 * en.2) true else W) W

/-- The operation on both cores, of the terms that satisfy a test: A, B and the accumulators are as they stand when it completes (R260,
R264). -/
def MatOp.performOf (o : MatOp) (W : Wg) (term : Nat → Bool) : Wg × Cond :=
  match o.contribs with
  | [] => (W, {})
  | c :: _ =>
    let f := ltOf c.word
    let B := Fmt.ofEntry c.fb
    let b := bSlots f.spat.toNat
    let depth := denseK (Fmt.ofEntry c.fa) B * b / 2
    [0, 1].foldl (fun r side => o.groups.foldl (fun r g =>
      let cols := W.bColumns side g.2.2 b B depth
      (List.range (g.2.1 - g.1)).foldl (fun (r : Wg × Cond) i =>
        let m := g.1 + i
        let es := MatOp.rowOf W side m f c cols ((o.kept W side m f c).filter fun t => term t.1)
        (r.1.putRow side m f es, es.foldl (fun x e => x.or e.2.2) r.2)) r) r) (W, {})

/-- The whole operation. -/
def MatOp.perform (o : MatOp) (W : Wg) : Wg × Cond := o.performOf W fun _ => true

/-- K of an operation as its accumulators see it (R256, R262). -/
def MatOp.depth (o : MatOp) : Nat :=
  match o.contribs with
  | c :: _ => denseK (Fmt.ofEntry c.fa) (Fmt.ofEntry c.fb) * bSlots (ltOf c.word).spat.toNat / 2
  | [] => 0

/-! ## Dispatch and retirement (R254, R255) -/

/-- The first contribution's word gives an operation's slots. -/
def MatOp.held (o : MatOp) : List Nat × List Nat :=
  match o.contribs with
  | c :: _ => o.slots (ltOf c.word) (fromSlot c.word)
  | [] => ([], [])

/-- R249 allows an operation its slot accesses: no earlier access by a tile word or a Ladle is still to complete there. The
operations of its twin take theirs in their own order. -/
def State.slotsFree (s : State) (twin : Nat) (o : MatOp) : Bool :=
  (s.wg? o.wg).all fun W =>
    let mine := ((SMap.getD twin [] s.twins).filter fun x => decide (x.id ≠ o.id)).map MatOp.id
    let V := { W with busy := W.busy.filter fun b => !mine.contains b.id }
    !V.slotWaits o.id s.now false o.held.1 && !V.slotWaits o.id s.now true o.held.2

/-- The slots in which an operation reads a poisoned sector: of B, of the metadata, and of the rows of its accumulators (R260,
R392). -/
def MatOp.poisoned (o : MatOp) (W : Wg) : List Nat :=
  let bad := fun (lo n : Nat) => W.tileBad.any fun k => decide (lo / 64 ≤ k) && decide (k < (lo + n) / 64)
  let zD := (o.contribs.head?.map fun c => (ltOf c.word).zD.toNat).getD 0
  (o.held.1.filter fun k => bad (tileKey (k / 96) (k % 96) 0) 4096)
    ++ [0, 1].flatMap fun side => (List.range 16).filterMap fun i =>
      if o.groups.any fun g => (List.range 8).any fun r => decide (g.1 ≤ 8 * i + r) && decide (8 * i + r < g.2.1)
          && bad (tileKey side (zD + i) (512 * r)) 512 then some (side * 96 + zD + i) else none

/-- A twin's array has stopped for a halt (R380). -/
def State.arrayStopped (s : State) (twin : Nat) : Bool :=
  let P := s.part (twin / 18)
  P.halted || (P.halting && !P.toStop.contains (36 + twin % 18))

/-- MATRIX_OPERATION_DISPATCH: the twin's oldest accepted operation that has not started starts, once R249 allows its slot
accesses; metadata in scratch is read now (R254, R263). -/
def execMatrixOperationDispatch (twin : Nat) (s : State) : Host.Outcome State Fault Refusal :=
  .next (
    let ops := SMap.getD twin [] s.twins
    let done := ops.takeWhile fun o => o.started.isSome
    match ops.drop done.length with
    | [] => s
    | o :: rest =>
      if s.stopped (twin / 18) || !s.slotsFree twin o then s else
      let (s, md) := match o.contribs with
        | c :: _ =>
          match c.word, s.gang? c.gang with
          | .mmas f, some G =>
            let n := 128 * metaBytes (Fmt.ofEntry c.fa)
            if f.fn = 2 then (s.metScratch G c n, (s.scratchRead G c.sS n).bytes) else (s, [])
          | _, _ => (s, [])
        | [] => (s, [])
      { s with twins := SMap.put twin (done ++ { o with md := md, started := some s.now } :: rest) s.twins })

/-- MATRIX_OPERATION_RETIRE: the twin's oldest operation completes: accumulators, log records, counters (R254, R255,
R260). -/
def execMatrixOperationRetire (twin : Nat) (s : State) : Host.Outcome State Fault Refusal :=
  .next (
    match SMap.getD twin [] s.twins with
    | [] => s
    | o :: rest =>
      if o.started.isNone || s.arrayStopped twin then s
      else
        match s.wg? o.wg, o.contribs with
        | some W, c :: _ =>
          let r := o.perform W
          let s := s.putWg o.wg (r.1.release o.id)
          let s := { s with twins := SMap.put twin rest s.twins }
          let s := match s.gang? c.gang with
            | some G => s.metTiles (partOfVnum G.vnum) (s.laneAgent G c.run c.widx) (o.poisoned W)
            | none => s
          let lane := 2 ^ lowestBit 32 c.lanes
          let rs := (condRecords [(0, r.2)]).map fun x => (x.1, lane)
          (s.logConds c.gang c.widx 1 ((s.pend? c.gang c.pend).elim 0 Pend.lrun) rs).retireContribs o.contribs
        | _, _ => { s with twins := SMap.put twin rest s.twins })

/-! ## Tile words (R265-R267) -/

/-- A tile word's frame: the slots it names exist, and with no active lane it changes nothing (R180). -/
def tileWord (i : Instr) (f : LT) (u : Use) (z n : Nat) (ok : Bool) (eff : Issue → State → Issued) (s : State) :
    Host.Outcome State Fault Refusal :=
  laneWord i (some f.msel.toNat) { u with gated := true }
    (fun x s => if !ok || decide (s.tiles x.gang < z + n) then .illegal else if x.act.isEmpty then .done s else eff x s) s

/-- A tile word takes its tile time: it holds its slots and is outstanding until its access is over (R249, R265-R267). -/
def Issue.tile (x : Issue) (write : Bool) (z n : Nat) (p : Pend) (s : State) : State :=
  (s.modWg x.gang.place.wg fun W => W.hold p.id s.now x.gang.place.qtr write (slotKeys x.gang.place.side z n)).addPend x.g p

/-- TZERO (R265). -/
def execTzero (f : LT) (s : State) : Host.Outcome State Fault Refusal :=
  let z := f.zD.toNat
  let n := moveCount f
  tileWord (.tzero f) f {} z n true
    (fun x s =>
      if x.gang.full .tl then .wait
      else
        let (id, s) := s.newId
        let p := x.pend {} (.tzero f) .tile (some .tl) id
        .done (x.tile true z n { p with todo := p.lanes } s)) s

/-- The effect of TZERO once its slots are free (R265). -/
def runTzero (f : LT) (G : Gang) (p : Pend) (s : State) : Try :=
  let side := G.place.side
  let z := f.zD.toNat
  let n := moveCount f
  let zero := fun (W : Wg) =>
    { W with tile := Memory.write W.tile (tileKey side z 0) (List.replicate (4096 * n) 0),
             tileSc := Memory.write W.tileSc (tileScKey side z 0 0) (List.replicate (256 * n) 0),
             tileBad := W.tileBad.filter fun k => decide (k < tileKey side z 0 / 64) || decide (tileKey side (z + n) 0 / 64 ≤ k) }
  ⟨s.modWg G.place.wg zero, p, []⟩

/-- Put a line of memory into a tile line (R266). -/
def Wg.putLine (W : Wg) (side slot line : Nat) (l : PathLine) : Wg :=
  let key := tileKey side slot (256 * line)
  let W := { W with tile := Memory.write W.tile key l.bytes, tileSc := Memory.write W.tileSc (tileScKey side slot line 0) (l.scales.take 16) }
  (List.range 4).foldl (fun W i => W.setTilePoison (key + 64 * i) (bit l.bad i)) W

/-- The tile line as a line. -/
def Wg.getLine (W : Wg) (side slot line : Nat) : PathLine :=
  let key := tileKey side slot (256 * line)
  ⟨0, Memory.read W.tile key 256, Memory.read W.tileSc (tileScKey side slot line 0) 16,
    maskOf ((List.range 4).filter fun i => W.tilePoison (key + 64 * i)), false⟩

/-- Read a line through the tile path (R250). -/
def State.tileRead (s : State) (k asid va : Nat) : State × Except FaultInfo PathLine :=
  match s.translate k asid .read false va with
  | (s, .error f) => (s, .error f)
  | (s, .ok x) =>
    let (s, l) := s.pathLine (.tile k) (Req.cluster (some asid) k) x.pa x.sem
    (s, .ok l)

/-- Write a line's data, poison and scale bytes at its home, and into the tile cache's copy; the tag stays (R250, R266). -/
def State.tileWritePa (s : State) (k : Nat) (r : Req) (pa : Nat) (l : PathLine) : State :=
  let line := pa / 256 * 256
  let s := s.putHomeLine r line ⟨l.bytes, (l.scales.take 16).zipIdx.map fun b => (b.2, b.1), l.bad, none⟩
  s.modCluster k fun K => { K with tile := K.tile.map fun c =>
    if c.pa = line then { c with bytes := l.bytes, scales := l.scales.take 16 ++ c.scales.drop 16, bad := l.bad } else c }

/-- Write a line through the tile path (R250). -/
def State.tileWrite (s : State) (k asid va : Nat) (l : PathLine) : State × Option FaultInfo :=
  match s.translate k asid .write false va with
  | (s, .error f) => (s, some f)
  | (s, .ok x) => (s.tileWritePa k (Req.cluster (some asid) k) x.pa l, none)

/-- Move the lines of TLD or TST one by one; lines already moved stay moved (R266). -/
def runTileMove (load : Bool) (z n g : Nat) (G : Gang) (ag : Agent) (p : Pend) (ls : List Nat) (s : State) : Try :=
  let k := clusterOf G.place.core
  let side := G.place.side
  let w := G.place.wg
  (List.range (16 * n)).foldl (fun t i =>
    let va := p.base + 256 * i
    if load then
      match t.s.tileRead k G.vnum va with
      | (s, .error f) => { t with s := s, faults := t.faults ++ [(f, maskOf ls)] }
      | (s, .ok l) =>
        let s := if l.bad = 0 then s else s.uncorrectable (partOfVnum G.vnum) (s.lineStruct l) l.pa ag
        let s := if l.scBad then s.uncorrectable (partOfVnum G.vnum) 11 l.pa ag else s
        { t with s := s.modWg w fun W => W.putLine side (z + i / 16) (i % 16) l }
    else
      match t.s.wg? w with
      | none => t
      | some W =>
        let l := W.getLine side (z + i / 16) (i % 16)
        match t.s.tileWrite k G.vnum va l with
        | (s, some f) => { t with s := s, faults := t.faults ++ [(f, maskOf ls)] }
        | (s, none) =>
          let s := s.spoilSpills g G va 256
          { t with s := if l.bad = 0 then s else s.metTiles (partOfVnum G.vnum) ag [side * 96 + z + i / 16] }) ⟨s, p, []⟩

/-- TLD and TST (R266). A line whose translation fails is found at issue: the word parks at once, and which of its other lines have
moved by then is open; none may before earlier accesses of the gang or of the slots (R249, R323, R366). -/
def tileMove (i : Instr) (f : LT) (load : Bool) (z : Nat) (s : State) : Host.Outcome State Fault Refusal :=
  let n := moveCount f
  tileWord i f {} z n true
    (fun x s =>
      let va := (x.gang.spair f.sS.toNat).toNat
      let G := x.gang
      if G.full .tl then .wait
      else if va % 256 ≠ 0 then .stop (x.halt (misaligned va (if load then 0 else 1) 256) (maskOf x.act) s)
      else
        let (id, s) := s.newId
        let p := { x.pend {} i .tile (some .tl) id with base := va, xlats := s.leaves (clusterOf G.place.core) G.vnum [(va, 4096 * n)] }
        let t := runTileMove load z n x.g G (s.laneAgent G x.run.addr x.run.next) p x.act s
        match haltingFault t.faults with
        | some (e, lanes) => .stop (x.halt e lanes s)
        | none =>
          if t.faults.isEmpty then .done (x.tile load z n { p with todo := p.lanes } s)
          else
            let free := !s.comesAfter G G.pend (p.reach x.act)
              && (s.wg? G.place.wg).all fun W => !W.slotWaits id s.now load (slotKeys G.place.side z n)
            let u := if free && Config.early s.fresh then t.s else s
            .done ((x.tile load z n { p with park := some (Park.mk' p.lanes t.faults none) } { u with fresh := u.fresh + 1 }).queueGroup
              (partOfVnum G.vnum) (.word x.g id))) s

/-- TLD (R266). -/
def execTld (f : LT) (s : State) : Host.Outcome State Fault Refusal := tileMove (.tld f) f true f.zD.toNat s

/-- TST (R266). -/
def execTst (f : LT) (s : State) : Host.Outcome State Fault Refusal := tileMove (.tst f) f false f.zB.toNat s

/-- First unit of TRD and TWR. -/
def unit0 (f : LT) : Nat := bits f.aux.toNat 9 4

/-- Key of the bytes of lane `l` of unit `u` (R267). -/
def unitKey (side z u l : Nat) : Nat := tileKey side (z + u / 32) (128 * (u % 32) + 4 * l)

/-- Slots that TRD or TWR touches. -/
def unitSlots (f : LT) : Nat := (unit0 f + WF.tileRegs f - 1) / 32 + 1

/-- The blocks of a pair under an entry that the active lanes hold whole (R96, R267). -/
def pairBlocks (F : Fmt) (G : Gang) (act : List Nat) : List Nat :=
  (List.range (2 * F.blkCount)).filter (wholeBlock F G (maskOf act))

/-- Scale bytes of TRD and TWR: fn bit 3 (R267). -/
def withScales (f : LT) : Bool := bit f.fn.toNat 3

/-- The tile line of scale register `i`: slot and line. -/
def scLine (f : LT) (z i : Nat) : Nat × Nat :=
  let u := unit0 f + 2 * i
  (z + u / 32, u % 32 / 2)

/-- Issue a TRD or a TWR: it takes its tile time with its sources read and its format entry, and uses no counter (R249, R267). -/
def unitWord (i : Instr) (f : LT) (u : Use) (write : Bool) (z : Nat) (scales : Issue → Fmt → List (Nat × Nat × Byte)) (s : State) :
    Host.Outcome State Fault Refusal :=
  s.withGang fun G =>
    let raw := (SMap.getD f.fmt.toNat 0 G.sp.fmt).toNat % 2 ^ 24
    let F := Fmt.ofEntry raw
    tileWord i f u z (unitSlots f) (!withScales f || F.b)
      (fun x s =>
        let (id, s) := s.newId
        let p := x.pend u i .tile none id
        .done (x.tile write z (unitSlots f) { p with
          pins := [], todo := p.lanes, ops := SMap.put fmtKey ⟨BitVec.ofNat 32 raw, false, true⟩ (x.capture u.srcs),
          scales := if withScales f then scales x F else [] } s)) s

/-- TRD (R267). -/
def execTrd (f : LT) (s : State) : Host.Outcome State Fault Refusal :=
  unitWord (.trd f) f { dsts := [(⟨.v, f.vA⟩, WF.tileRegs f)] } false f.zB.toNat (fun _ _ => []) s

/-- The effect of TRD once its slots may be read: the active lanes' registers, the helper lanes' shadows, and the scale bytes of
whole blocks (R34, R267). -/
def runTrd (f : LT) (G : Gang) (ag : Agent) (p : Pend) (ls : List Nat) (s : State) : Try :=
  match s.wg? G.place.wg with
  | none => ⟨s, p, []⟩
  | some W =>
    let n := WF.tileRegs f
    let z := f.zB.toNat
    let side := G.place.side
    let key := fun (r l : Nat) => unitKey side z (unit0 f + r) l
    let out := fun l => (List.range n).map fun r =>
      (⟨BitVec.ofNat 32 (ofBytes (Memory.read W.tile (key r l) 4)), W.tilePoison (key r l), true⟩ : Cell)
    let blocks := if withScales f then pairBlocks p.fmt G ls else []
    let scales := (List.range (n / 2)).flatMap fun i => blocks.map fun j =>
      let ln := scLine f z i
      (f.xD.toNat + i, j, Memory.byte W.tileSc (tileScKey side ln.1 ln.2 j))
    let bad := (List.range n).filterMap fun r => if ls.any fun l => W.tilePoison (key r l) then some (side * 96 + z + (unit0 f + r) / 32) else none
    let q := (ls ++ G.helpers ls).foldl (fun (p : Pend) l => p.addResults l (out l)) p
    ⟨s.metTiles (partOfVnum G.vnum) ag bad, { q with scales := scales }, []⟩

/-- TWR: its registers and scale bytes are read at issue (R267). -/
def execTwr (f : LT) (s : State) : Host.Outcome State Fault Refusal :=
  unitWord (.twr f) f { srcs := [(⟨false, .v, f.vA⟩, WF.tileRegs f)] } true f.zD.toNat
    (fun x F => (List.range (WF.tileRegs f / 2)).flatMap fun i => (pairBlocks F x.gang x.act).map fun j =>
      (i, j, BitVec.ofNat 8 (x.gang.lane.scaleByte (f.xA.toNat + i) j))) s

/-- The effect of TWR once its slots may be written (R267). -/
def runTwr (f : LT) (G : Gang) (p : Pend) (ls : List Nat) (s : State) : Try :=
  let z := f.zD.toNat
  let side := G.place.side
  let store := fun (W : Wg) => (List.range (WF.tileRegs f)).foldl (fun (W : Wg) r =>
    let W := ls.foldl (fun (W : Wg) l =>
      let key := unitKey side z (unit0 f + r) l
      let c := p.cell l 0 r
      let W := { W with tile := Memory.write W.tile key (toBytes 4 c.val.toNat) }
      if c.p then W.setTilePoison key true else W) W
    [0, 16].foldl (fun (W : Wg) h =>
      if ((List.range 16).map (· + h)).all fun l => ls.contains l && !(p.cell l 0 r).p then
        W.setTilePoison (unitKey side z (unit0 f + r) h) false
      else W) W) W
  let scales := fun (W : Wg) => p.scales.foldl (fun (W : Wg) t =>
    let ln := scLine f z t.1
    { W with tileSc := Memory.setByte W.tileSc (tileScKey side ln.1 ln.2 t.2.1) t.2.2 }) W
  ⟨s.modWg G.place.wg fun W => scales (store W), { p with scales := [] }, []⟩

/-- An attempt at an outstanding tile word. -/
def tileTry (g : Nat) (G : Gang) (ag : Agent) (p : Pend) (ls : List Nat) (s : State) : Try :=
  match p.word with
  | .tzero f => runTzero f G p s
  | .tld f => runTileMove true f.zD.toNat (moveCount f) g G ag p ls s
  | .tst f => runTileMove false f.zB.toNat (moveCount f) g G ag p ls s
  | .trd f => runTrd f G ag p ls s
  | .twr f => runTwr f G p ls s
  | _ => ⟨s, p, []⟩

/-- Whether a tile word writes its slots, and their keys (R249). -/
def tileUse (G : Gang) (p : Pend) : Bool × List Nat :=
  let side := G.place.side
  match p.word with
  | .tzero f | .tld f => (true, slotKeys side f.zD.toNat (moveCount f))
  | .tst f => (false, slotKeys side f.zB.toNat (moveCount f))
  | .trd f => (false, slotKeys side f.zB.toNat (unitSlots f))
  | .twr f => (true, slotKeys side f.zD.toNat (unitSlots f))
  | _ => (false, [])

/-- TILE_WORD_COMPLETE: once R249 allows it, a tile word has its effect and completes, which ends its use of its slots (R265-R267). -/
def execTileWordComplete (g op : Nat) (s : State) : Host.Outcome State Fault Refusal :=
  .next (match s.ripe g op with
    | some (G, p) =>
      let u := tileUse G p
      if decide (p.kind ≠ .tile) || (s.wg? G.place.wg).any fun W => W.slotWaits p.id s.now u.1 u.2 then s
      else s.advance g G p (tileTry g G) fun s p => (s.complete g p).modWg G.place.wg fun W => W.release p.id
    | none => s)

/-! ## LMMA (R268) -/

/-- LMMA: a small matrix by a vector in each lane group. -/
def execLmma (f : L3) (s : State) : Host.Outcome State Fault Refusal :=
  let g := 4 * 2 ^ f.fn.toNat
  let d : Src := ⟨false, f.dst.file, f.dst.idx⟩
  vectorWord (.lmma f) f.msel.toNat { srcs := [(f.a, g), (f.b, 1), (f.c, 1), (d, 1)], dsts := [(f.dst, 1)] } f.dst
    (fun G => (G.fmt f.fmt.toNat).s32)
    (fun x l =>
      let E := x.gang.fmt f.fmt.toNat
      let base := g * (l / g)
      let lc := x.cell base f.c 0
      let len := min lc.val.toNat g
      let old := x.cell l d 0
      let steps := (List.range len).map fun k => (x.cell l f.a k, x.cell (base + k) f.b 0)
      let p := old.p || lc.p || steps.any fun t => t.1.p || t.2.p
      let e := steps.foldl (fun (e : Elem) t =>
        let o := E.round 0 f.sat 0 (Num.dot [(E.elem t.1.val.toNat 0, E.elem t.2.val.toNat 0)] [E.elem e.code 0] false)
        ⟨o.code, e.cond.or o.cond⟩) ⟨old.val.toNat, {}⟩
      { vals := cells false e.code p, cond := laneCond p [e] }) s

/-! ## The restart state (R269, R270) -/

/-- The workgroup of a gang declares matrix gangs. -/
def State.hasMatrix (s : State) (G : Gang) : Bool :=
  match s.grid? G.grid, s.wg? G.place.wg with
  | some D, some W => W.child.isNone && decide (D.mt ≠ 0)
  | _, _ => false

/-- MREST: record the restart state (R269). -/
def execMrest (off : BitVec 15) (s : State) : Host.Outcome State Fault Refusal :=
  scalarWord (.mrest off) {}
    (fun g G s =>
      if !s.hasMatrix G then .stop (s.illegalScalar G (wordOf (.mrest off)))
      else .done (s.putGang g { G.next with restart := ⟨G.target off, G.s.filter fun kv => decide (kv.1 < 32), G.eng.xxch, true⟩ })) s

/-- MCOMMIT: wait for the runs, stores and tile work, then clear RV (R270). -/
def execMcommit (s : State) : Host.Outcome State Fault Refusal :=
  scalarWord .mcommit {}
    (fun g G s =>
      if !s.hasMatrix G then .stop (s.illegalScalar G (wordOf .mcommit))
      else if !G.runs.isEmpty || decide (G.count .st ≠ 0) || decide (G.count .tl ≠ 0) then .wait
      else .done (s.putGang g { G.next with restart := { G.restart with rv := false } })) s

end Sys2Proof.Machine
end

