-- ==== Sys2Proof/Machine/Semaphores.lean ====
section
/-! DEFINITION. Semaphore words and stage rings (R296-R302). -/

namespace Sys2Proof.Machine

/-! ## Semaphores -/

/-- The checks of a semaphore instruction on its address, before the translation (R228, R296): a misaligned address, then
the address checks of R353. -/
def semAddrFault (va acc : Nat) : Option FaultInfo :=
  if va % 8 ≠ 0 then some (misaligned va acc 8) else addrFault va acc

/-- A semaphore word of the scalar stream waits for earlier runs, for the release when it carries one, and for earlier reads when
it acquires (R299, R315, R320). -/
def Gang.semWaits (G : Gang) (rel acq : Bool) : Bool :=
  !G.runsIssued || (rel && G.releaseWaits) || (acq && G.acquireWaits)

/-- Tests of R298: at least (unsigned), equal, not equal. -/
def semTest (test sem cmp : Nat) : Bool :=
  match test with
  | 0 => decide (cmp ≤ sem)
  | 1 => decide (sem = cmp)
  | _ => decide (sem ≠ cmp)

/-- SEMADD (R298, R299). -/
def execSemadd (d a b : BitVec 7) (scope : BitVec 3) (ord : BitVec 2) (s : State) : Host.Outcome State Fault Refusal :=
  scalarWord (.semadd d a b scope ord) { swr := pairOf d.toNat, gated := true }
    (fun g G s =>
      let va := (G.spair a.toNat).toNat
      let rel := bit ord.toNat 1
      if G.semWaits rel (bit ord.toNat 0) then .wait
      else
        match semAddrFault va 2 with
        | some f => .stop (s.haltScalar G f)
        | none =>
          if s.comesAfter G G.pend [(va, 8)] then .wait
          else
          let s := if rel then s.release G scope.toNat else s
          match s.atHome G.place.core G.vnum .rmw true va with
          | (s, .error f) => .stop (s.scalarFault g G f)
          | (s, .ok pa) =>
            let (s, old, lost) := s.semOld G pa
            let s := (s.putAtomic G.req lost pa (toBytes 8 ((old + (G.spair b.toNat).toNat) % 2 ^ 64)) false).spoilSpills g G va 8
            let s := if bit ord.toNat 0 then s.acquire G scope.toNat else s
            .done (s.modGang g fun G => (G.setPair d.toNat (BitVec.ofNat 64 old)).next)) s

/-- SEMSET (R298, R299). -/
def execSemset (a b : BitVec 7) (scope : BitVec 3) (ord : BitVec 2) (s : State) : Host.Outcome State Fault Refusal :=
  scalarWord (.semset a b scope ord) { gated := true }
    (fun g G s =>
      let va := (G.spair a.toNat).toNat
      let rel := bit ord.toNat 1
      if G.semWaits rel false then .wait
      else
        match semAddrFault va 1 with
        | some f => .stop (s.haltScalar G f)
        | none =>
          if s.comesAfter G G.pend [(va, 8)] then .wait
          else
          let s := if rel then s.release G scope.toNat else s
          match s.atHome G.place.core G.vnum .write true va with
          | (s, .error f) => .stop (s.scalarFault g G f)
          | (s, .ok pa) =>
            .done (((s.homeWrite G.req pa (toBytes 8 (G.spair b.toNat).toNat) false).spoilSpills g G va 8).modGang g Gang.next)) s

/-- Test a semaphore for a gang in SEMWAIT: where the test holds the gang acquires at the scope and goes on at the next
word; else it waits (R298). A fault of the read is taken as the word's own (R296). -/
def State.semTry (s : State) (g : Nat) (G : Gang) (va cmp test scope : Nat) : Issued :=
  match s.atHome G.place.core G.vnum .read true va with
  | (s, .error f) => .stop (s.scalarFault g G f)
  | (s, .ok pa) =>
    let (s, v) := s.semRead G pa
    if semTest test v cmp then .done ((s.acquire G scope).putGang g { G.next with wait := .none })
    else .done (s.putGang g { G with wait := .semaphore va cmp test scope })

/-- SEMWAIT (R298, R299). -/
def execSemwait (a b : BitVec 7) (scope : BitVec 3) (test : BitVec 2) (s : State) : Host.Outcome State Fault Refusal :=
  scalarWord (.semwait a b scope test) { gated := true }
    (fun g G s =>
      let va := (G.spair a.toNat).toNat
      if G.semWaits false true then .wait
      else
        match semAddrFault va 0 with
        | some f => .stop (s.haltScalar G f)
        | none =>
          if s.comesAfter G G.pend [(va, 8)] then .wait
          else s.semTry g G va (G.spair b.toNat).toNat test.toNat scope.toNat) s

/-- Retest the semaphore that a gang waits on (R300). A gang that is not resident, or whose partition is halted, is not
retested. -/
def State.semRetest (s : State) (g : Nat) : State :=
  match s.gang? g with
  | none => s
  | some G =>
    match G.wait with
    | .semaphore va cmp test scope =>
      if s.stopped (partOfVnum G.vnum) || !decide (s.wgStage G = some .running) then s
      else
        match s.semTry g G va cmp test scope with
        | .wait | .illegal => s
        | .stop t => t
        | .done t => t
    | _ => s

/-! ## Stage rings (R301, R302) -/

/-- A ring header as read: the configuration word and the state byte of a slot. -/
structure RingView where
  config : Nat
  n      : Nat
  slot   : Nat
  lap    : Nat
  state  : Nat

/-- The ring at a scratch offset as a cursor sees it (R301, R302). -/
def State.ring (s : State) (G : Gang) (off q : Nat) : RingView :=
  let c := ofBytes (s.scratchRead G off 8).bytes
  let n := bits c 4 0 + 1
  ⟨c, n, q % n, q / n % 2, ofBytes (s.scratchRead G (off + 32 + q % n) 1).bytes⟩

/-- Reserved bits of the configuration word (R301). -/
def RingView.reserved (r : RingView) : Bool := decide (bits r.config 63 24 ≠ 0) || decide (bits r.config 11 5 ≠ 0)

/-- A slot is ready for a side (R302). -/
def RingView.ready (r : RingView) (side : Nat) : Bool :=
  let f := bits r.state 7 7
  let e := bits r.state 6 6
  decide (e = r.lap) && (if side = 0 then decide (f = r.lap) else decide (f ≠ r.lap))

/-- The state byte after one arrival of a side (R302). -/
def RingView.arrived (r : RingView) (side : Nat) : Nat :=
  let cnt := bits r.state 5 0 + 1
  let full := (if side = 0 then bits r.config 17 12 else bits r.config 23 18) + 1
  if cnt = full then setField (if side = 0 then r.state ^^^ 0x80 else r.state ^^^ 0x40) 5 0 0
  else setField r.state 5 0 cnt

/-- The operand of a ring word and its checks: an illegal operand, an offset outside the scratch (R228, R302). -/
def State.ringFault (s : State) (G : Gang) (i : Instr) (v : Nat) : Option State :=
  let off := v / 64 * 64
  if bits v 5 1 ≠ 0 then some (s.illegalScalar G (wordOf i))
  else if !s.scratchOk G off 64 then some (s.haltScalar G (protection (windowBase + off) 2 5))
  else if (s.ring G off 0).reserved then some (s.illegalScalar G (wordOf i))
  else none

/-- RTAKE (R302). -/
def execRtake (d a : BitVec 7) (s : State) : Host.Outcome State Fault Refusal :=
  scalarWord (.rtake d a) {}
    (fun g G s =>
      let v := (G.sreg a.toNat).toNat
      if s.comesAfter G G.pend [(windowBase + v / 64 * 64, 64)] || G.acquiring || G.acquireWaits || !G.runsIssued then .wait
      else match s.ringFault G (.rtake d a) v with
      | some t => .stop t
      | none =>
        let r := s.ring G (v / 64 * 64) (G.sreg d.toNat).toNat
        let s := s.useRing G (v / 64 * 64)
        if r.ready (v % 2) then .done ((s.acquire G 1).putGang g { G.next with wait := .none })
        else .stop (s.putGang g { G with wait := .ring (v / 64 * 64) })) s

/-- RPOST (R302). -/
def execRpost (d a : BitVec 7) (s : State) : Host.Outcome State Fault Refusal :=
  scalarWord (.rpost d a) { swr := [d.toNat] }
    (fun g G s =>
      let v := (G.sreg a.toNat).toNat
      if s.comesAfter G G.pend [(windowBase + v / 64 * 64, 64)] || G.acquiring then .wait
      else match s.ringFault G (.rpost d a) v with
      | some t => .stop t
      | none =>
        let off := v / 64 * 64
        let q := G.sreg d.toNat
        let r := s.ring G off q.toNat
        let s := s.useRing G off
        if !r.ready (v % 2) then .stop (s.putGang g { G with wait := .ring (v / 64 * 64) })
        else if G.arrivalWaits then .wait
        else
          let s := (s.release G 1).scratchWrite G (off + 32 + r.slot) (toBytes 1 (r.arrived (v % 2))) false
          .done (s.putGang g { (G.setS d.toNat (q + 1)).next with wait := .none })) s

end Sys2Proof.Machine
end

