-- ==== Sys2Proof/Machine/Engines.lean ====
section
/-! DEFINITION. Launch records as they complete, and what all engines share: starting a chain, holding an engine, fetching
and testing a block, signals, the end of a chain, CBGO and CBSTAT (R273-R284, R332). -/

namespace Sys2Proof.Machine

/-! ## Launch records that complete (R332) -/

/-- The dispatcher as an agent at a record (R370). -/
def dispatcherAgent (v rec : Nat) : Agent := { Agent.none with kind := 6, asid := v, pc := rec }

/-- A semaphore word of an engine or the dispatcher, added to or set at its home slice (R277); whether poison has been read. -/
def State.semUpdate (s : State) (r : Req) (pa : Nat) (add : Bool) (v : Nat) : State × Bool :=
  if add then
    let x := s.homeAtomic r pa 8
    let bad := x.1.extentBad pa 8 || x.2
    (x.1.putAtomic r x.2 pa (toBytes 8 ((x.1.read64 pa + v) % 2 ^ 64)) false, bad)
  else (s.homeWrite r pa (toBytes 8 (v % 2 ^ 64)) false, false)

/-- Complete a launch record of a virtual device: the signal, then STATE (R332), as firmware work (R449). All its translations are
made before anything is written, so that a fault leaves it to be done again whole; `quiet` leaves the signal out (R456). -/
def State.completeRecord (s : State) (v rec code : Nat) (quiet : Bool) : State × Option FaultInfo :=
  let k := 9 * partOfVnum v
  let p := partOfVnum v
  let r := Req.firmware p
  let ag := dispatcherAgent v rec
  match s.translate k v .read false rec with
  | (s, .error f) => (s, some f)
  | (s, .ok x) =>
    let (s, bs, bad) := s.homeRead r (x.pa + 88) 16 true
    let s := if bad then s.uncorrectable p (s.structAt x.pa) (x.pa + 88) ag else s
    let sig := bits (ofBytes (bs.take 8)) 63 62
    let addr := bits (ofBytes (bs.take 8)) 56 3 * 8
    let val := ofBytes (bs.drop 8)
    match s.translate k v .write false (rec + 120) with
    | (s, .error f) => (s, some f)
    | (s, .ok y) =>
      let fin := fun (s : State) =>
        let (s, w, bad) := s.homeRead r y.pa 8 true
        let s := if bad then s.uncorrectable p (s.structAt y.pa) y.pa ag else s
        s.homeWrite r y.pa (toBytes 8 (setField (ofBytes w) 63 56 code)) false
      if sig = 0 ∨ quiet then (fin s, none)
      else
        match s.translate k v (if sig = 1 then .rmw else .write) true addr with
        | (s, .error f) => (s, some f)
        | (s, .ok z) =>
          let (s, bad) := s.semUpdate r z.pa (decide (sig = 1)) val
          (fin (if bad then s.uncorrectable p (s.structAt z.pa) z.pa ag else s), none)

/-! ## Engines (R273, R282, R356) -/

/-- The kind of an engine: 1 Ladle, 2 posting-list engine, 3 Runner (R273). -/
def engKind (e : Nat) : Nat := if e < 216 then 1 else if e < 324 then 2 else 3

/-- The cluster at whose TLB a chain translates (R356). -/
def chainCluster (e : Nat) (c : Chain) : Nat := if e < 216 then e / 2 else if e < 324 then e - 216 else c.owner.clu

/-- The engine of a cluster that an engine number names: 0-1 Ladle, 2 posting-list engine, 4-7 Runner of the die (R279). -/
def engineOf (k n : Nat) : Nat := if n < 2 then 2 * k + n else if n = 2 then 216 + k else 324 + 4 * (k / 54) + (n - 4)

/-- Chains that an engine holds (R282). -/
def engineRoom : Nat := 16

def State.engineFull (s : State) (e : Nat) : Bool := decide (engineRoom ≤ (s.engine e).chains.length)

/-- A new chain at its first block. -/
def mkChain (id block : Nat) (seed : DWord) (o : Owner) : Chain :=
  { id := id, block := block, words := [], seed := seed, owner := o, stage := .fetch, perf := 0, flags := 0, prog := 0,
    accept := 0, park := none, trav := none, out := [], sent := 0, failed := none, stopped := false, holdBuf := false,
    undef := false, causes := 0, ranks := [], paid := true }

/-- Append a chain to an engine's queue (R281, R331, R376, R418). -/
def State.addChain (s : State) (e block : Nat) (seed : DWord) (o : Owner) : State :=
  let (id, s) := s.newId
  s.modEngine e fun E => { E with chains := E.chains ++ [mkChain id block seed o] }

def State.chain? (s : State) (e id : Nat) : Option Chain := (s.engine e).chains.find? fun c => decide (c.id = id)

def State.modChain (s : State) (e id : Nat) (f : Chain → Chain) : State :=
  s.modEngine e fun E => { E with chains := E.chains.map fun c => if c.id = id then f c else c }

/-- The query handle of a chain that PLQ started. -/
def State.handleOf (s : State) (c : Chain) : Option Handle :=
  match c.owner.gang, c.owner.query with
  | some g, some h => (s.gang? g).bind fun G => SMap.find? h G.eng.handles
  | _, _ => none

/-- A query with fusion input has what it waits for: the stream holds as many entries as it needs, or the last
one (R406). -/
def State.fusionReady (s : State) (c : Chain) : Bool :=
  match c.trav.bind Traversal.need, s.handleOf c with
  | some n, some h => decide (n ≤ h.fusion.length) || h.fusion.any fun x => x.2.2.1
  | _, _ => true

/-- The sprue that a query block posts to (R396). -/
def chainSprue (c : Chain) : Nat := bits (c.words.getD 5 0) 47 40

def spruesOf (p sid : Nat) : Nat × Nat := (9 * p + sid / 16, sid % 16)

def State.sprue (s : State) (p sid : Nat) : Sprue := SMap.getD (spruesOf p sid).2 Sprue.init (s.cluster (spruesOf p sid).1).sprues

def State.modSprue (s : State) (p sid : Nat) (f : Sprue → Sprue) : State :=
  s.modCluster (spruesOf p sid).1 fun K => { K with sprues := SMap.upd (spruesOf p sid).2 Sprue.init f K.sprues }

/-- Entries that a sprue holds (R303), and that a direct output and a fusion queue hold (R408, R416). -/
def sprueSize : Nat := 1024
def directSize : Nat := 1024
def fusionSize : Nat := 256

/-- What a binder stands for is over: its workgroup has retired, or its chain has ended. -/
def State.binderOver (s : State) (b : Binder) : Bool :=
  match b with
  | .gang _ w => (s.wg? w).isNone
  | .chain e c => (s.chain? e c).isNone && !s.wgs.any fun kv => kv.2.away.any fun a => decide (a.chain.id = c)

/-- A binding stands for another. -/
def boundToOther (cur : Option Binder) (b : Binder) : Bool :=
  match cur with
  | some x => decide (x ≠ b)
  | none => false

/-- An empty sprue loses a producer that is over. -/
def State.freeProducer (s : State) (p sid : Nat) : State :=
  s.modSprue p sid fun q => if q.entries.isEmpty && q.producer.any s.binderOver then { q with producer := none } else q

/-- A query that emits has room for its next entry, or is to find its sprue bound to another (R305, R408). -/
def State.outputReady (s : State) (e : Nat) (c : Chain) : Bool :=
  match bits (c.words.getD 5 0) 63 62 with
  | 0 =>
    let q := (s.freeProducer c.owner.part (chainSprue c)).sprue c.owner.part (chainSprue c)
    boundToOther q.producer (.chain e c.id) || decide (q.entries.length < sprueSize)
  | 1 => (s.handleOf c).any fun h => h.closing || decide (h.output.length < directSize)
  | _ => true

/-- A chain is parked and has not been replayed (R366, R372). -/
def Chain.parked (c : Chain) : Bool := c.park.any fun k => !k.replay

/-- The holder that pays for a chain's work (R442, R449). -/
def Chain.holder (c : Chain) : Nat := c.owner.vnum.getD (96 + c.owner.part)

/-- The arbiter of an engine's time; a Runner has none (R442). -/
def engArb (e : Nat) : Nat := if e < 216 then 2000 + e else 3000 + (e - 216)

/-- The holder of a chain can pay for work on an engine that charges its time (R445, R476). -/
def State.hasTime (s : State) (e : Nat) (c : Chain) : Bool :=
  decide (324 ≤ e) || decide (s.pkg.power = .minimal) || (s.bucket (engArb e) c.holder).canPay true 1

/-- The holder of a chain can pay or borrow for a piece of its work (R444, R447). -/
def State.mayBegin (s : State) (e : Nat) (c : Chain) : Bool := s.hasTime e c || !(s.bucket (engArb e) c.holder).noBrw

/-- The query that a posting-list engine performs is inside a posting block (R415). -/
def State.inBlock (s : State) (e : Nat) (c : Chain) : Bool :=
  decide (engKind e = 2) && decide ((s.engine e).cur = some c.id) && decide (c.stage = .working) && c.paid && c.trav.any fun t => !t.done

/-- A query whose time budget has expired while no list is left ends its traversal, whatever fusion input it waits for (R410). -/
def Chain.expired (c : Chain) : Bool :=
  c.stopped && c.trav.any fun t => !t.done && (List.range (bits (t.desc.getD 0 0) 4 0)).all fun i =>
    decide (bits (t.desc.getD (10 + 4 * i) 0) 31 0 ≤ (SMap.getD i ⟨0, 0, none, none⟩ t.cursors).blk)

/-- A chain can proceed: its partition is not halted (a posting-list engine goes on to the end of its posting block, R415), its
workgroup is resident, it is not parked and waits for nothing (R282, R395). -/
def State.canProceed (s : State) (e : Nat) (c : Chain) : Bool :=
  (!s.stopped c.owner.part || s.inBlock e c) && !c.parked && decide (c.stage ≠ .testing)
  && (match c.owner.wg with
      | some w => (s.wg? w).any fun W => decide (W.stage = .running) || decide (W.stage = .saving)
      | none => true)
  && (decide (c.stage ≠ .working) || s.fusionReady c || c.expired)
  && (decide (c.stage ≠ .emitting) || s.outputReady e c)

/-- Whether an engine stays with a chain: it can proceed, or it holds chain-buffer data and does not wait in a test (R282, R291). -/
def State.keeps (s : State) (e : Nat) (c : Chain) : Bool :=
  s.canProceed e c || (c.holdBuf && decide (c.stage ≠ .testing) && !s.stopped c.owner.part)

/-- The next chain after a chain, in queue order and round again, that satisfies a test and can proceed; of these, one whose holder
can pay goes first (R282, R444). -/
def State.nextChain (s : State) (e : Nat) (after : Option Nat) (ok : Chain → Bool) : Option Nat :=
  let cs := (s.engine e).chains
  let i := (after.bind fun id => cs.findIdx? fun c => decide (c.id = id)).elim 0 (· + 1)
  let ready := (cs.drop i ++ cs.take i).filter fun c => ok c && s.canProceed e c
  ((ready.find? (s.hasTime e)) <|> ready.head?).map Chain.id

/-- The chain that holds an engine, after the engine has turned from one that it may leave (R282, R395). -/
def State.seat (s : State) (e : Nat) : State × Option Chain :=
  let cur := (s.engine e).cur.bind (s.chain? e)
  match cur with
  | some c =>
    if s.keeps e c then (s, if s.canProceed e c then some c else none)
    else
      let n := s.nextChain e (some c.id) fun _ => true
      (s.modEngine e fun E => { E with cur := if n.isSome then n else E.cur }, n.bind (s.chain? e))
  | none =>
    let n := s.nextChain e none fun _ => true
    (s.modEngine e fun E => { E with cur := n }, n.bind (s.chain? e))

/-- An event of the chain that holds an engine. -/
def State.onChain (s : State) (e : Nat) (f : Chain → State → State) : State :=
  match s.seat e with
  | (s, some c) => f c s
  | (s, none) => s

/-- A fault of a chain: it halts the partition, or the chain parks where it stands (R293, R366). -/
def State.chainFault (s : State) (e : Nat) (c : Chain) (f : FaultInfo) : State :=
  if f.halts then s.halt c.owner.part (s.chainAgent e c) f 0
  else (s.modChain e c.id fun c => { c with park := some (Park.mk' 0 [(f, 0)] c.park) }).queueGroup c.owner.part (.chain e c.id)

/-- The command-block fault (R278): `va` names the structure and `bit` the bad bit in it. -/
def State.malformed (s : State) (e : Nat) (c : Chain) (va bit : Nat) : State :=
  s.halt c.owner.part (s.chainAgent e c) (plainFault 0x17 va 0 bit) 0

/-- Translate an access of a chain: through its virtual device's tables, or physically, inside the partition's ranges and in the
order of R353, for a chain that firmware started (R349, R356, R376). -/
def State.chainXlat (s : State) (e : Nat) (c : Chain) (acc : Acc) (sem : Bool) (va : Nat) : State × Except FaultInfo Xlat :=
  match c.owner.vnum with
  | some v => s.translate (chainCluster e c) v acc sem va
  | none =>
    let page := va / 4096 * 4096
    if !mapped va || !s.inRange c.owner.part page 4096 then (s, .error (plainFault 0x10 (va % addrBits) acc.code 2))
    else if s.readOnlyPage c.owner.part page 4096 && decide (acc ≠ .read) then (s, .error (plainFault 0x10 (va % addrBits) acc.code 1))
    else (s, .ok ⟨va, true, true⟩)

/-- The request of a chain's accesses at a home. -/
def chainReq (e : Nat) (c : Chain) : Req :=
  if e < 324 then Req.cluster c.owner.vnum (chainCluster e c) else Req.runner c.owner.vnum c.owner.part ((e - 324) / 4)

/-- Note that a chain has read poisoned data (R284), counted under its structure (R392, R394). -/
def State.chainPoison (s : State) (e : Nat) (c : Chain) (struct pa : Nat) : State :=
  (s.modChain e c.id fun c => { c with flags := c.flags ||| 2 ^ 28 }).uncorrectable c.owner.part struct pa (s.chainAgent e c)

/-- Read bytes at their home slice for a chain, through no cache (R274, R276, R463). -/
def State.chainRead (s : State) (e : Nat) (c : Chain) (va n : Nat) : State × Except FaultInfo (List Byte × Bool) :=
  match s.chainXlat e c .read false va with
  | (s, .error f) => (s, .error f)
  | (s, .ok x) =>
    let (s, bs, bad) := s.homeRead (chainReq e c) x.pa n true
    (if bad then s.chainPoison e c (s.structAt x.pa) x.pa else s, .ok (bs, bad))

/-- The eight words of 64 bytes. -/
def words64 (bs : List Byte) : List Nat := (List.range (bs.length / 8)).map fun i => ofBytes ((bs.drop (8 * i)).take 8)

/-- A reserved range of a word that is not zero: the offset of its lowest set bit (R278). -/
def resvBit (ws : List Nat) (n hi lo : Nat) : Option Nat :=
  let v := bits (ws.getD n 0) hi lo
  if v = 0 then none else some (64 * n + lo + lowestBit 64 v)

/-- A field found bad: the offset of its lowest bit (R278). -/
def badField (bad : Bool) (n lo : Nat) : Option Nat := if bad then some (64 * n + lo) else none

/-- The first bad bit of a list of checks. -/
def firstBad : List (Option Nat) → Option Nat
  | [] => none
  | some b :: _ => some b
  | none :: t => firstBad t

/-- The checks of a block's header for an engine of a kind (R273, R278); NOTIFY uses SADD with SIG 00 (R462). -/
def headerBad (kind : Nat) (ws : List Nat) : Option Nat :=
  let w0 := ws.getD 0 0
  let notify := decide (kind = 3) && decide (bits w0 59 56 = 4)
  firstBad [badField (decide (bits w0 63 60 ≠ kind)) 0 60, badField (decide (3 < bits w0 55 53)) 0 53,
    badField (decide (bits w0 52 51 = 3)) 0 51, badField (decide (bits w0 50 49 = 3)) 0 49, resvBit ws 0 48 48,
    badField (decide (bits w0 50 49 = 0) && !notify && decide (bits w0 43 32 ≠ 0)) 0 32,
    resvBit ws 2 63 57, resvBit ws 2 2 0, badField (decide (bits w0 55 53 = 0) && decide (bits (ws.getD 2 0) 56 3 ≠ 0)) 2 3,
    resvBit ws 3 63 57, resvBit ws 3 2 0, badField (decide (bits w0 50 49 = 0) && decide (bits (ws.getD 3 0) 56 3 ≠ 0)) 3 3]

/-- The block at a signed offset of 64-byte units (R273). -/
def linkTo (block off : Nat) : Nat := (((block : Int) + 64 * sext 32 off) % (addrBits : Int)).toNat

/-- Go on after a block: to its next block, or to the end of the chain (R275). -/
def Chain.advance (c : Chain) : Chain :=
  let n := bits (c.words.getD 1 0) 63 32
  if n = 0 then { c with stage := .ending, prog := 0 } else { c with stage := .fetch, block := linkTo c.block n, words := [], prog := 0 }

/-- A block has been performed: it counts, and its signal is due (R275, R284); what is done of it still stands until then (R384). -/
def Chain.performed (c : Chain) : Chain :=
  let c := { c with perf := min (c.perf + 1) 0xFFFF, trav := none, out := [], sent := 0, causes := 0, undef := false, paid := true }
  if bits (c.words.getD 0 0) 50 49 = 0 then c.advance else { c with stage := .signal }

/-- The test of a block (R273, R275). -/
def blockTest (w0 v : Nat) : Bool :=
  let t := bits w0 31 0
  match bits w0 55 53 with
  | 1 => decide (t ≤ v)
  | 2 => decide (v = t)
  | _ => decide (v ≠ t)

/-- A test that passes drops the engine's path cache (R323). -/
def State.testAcquire (s : State) (e : Nat) : State :=
  match engKind e with
  | 1 => s.modCluster (e / 2) fun K => { K with tile := [] }
  | 2 => s.modCluster (e - 216) fun K => { K with stream := [] }
  | _ => s

/-- An engine whose chain buffer holds nothing of a chain: its bytes, scale bytes and poison are gone (R291). -/
def Engine.emptied (E : Engine) : Engine := { E with buf := [], bufSc := [], bufBad := [], bufWr := [] }

/-- A chain that is set aside in a test loses what it held of the chain buffer (R291). -/
def State.setAside (s : State) (e : Nat) (c : Chain) : State :=
  let s := s.modChain e c.id fun c => { c with stage := .testing, holdBuf := false }
  if c.holdBuf then s.modEngine e Engine.emptied else s

/-- COMMAND_BLOCK_FETCH: fetch the block whole, check its header and apply its test (R274-R276). -/
def execCommandBlockFetch (e : Nat) (s : State) : Host.Outcome State Fault Refusal :=
  .next (s.onChain e fun c s =>
    if c.stage ≠ .fetch then s
    else
      match s.chainRead e c c.block 64 with
      | (s, .error f) => s.chainFault e c f
      | (s, .ok (bs, _)) =>
        let ws := words64 bs
        let w0 := ws.getD 0 0
        let go := fun (s : State) (f : Chain → Chain) => s.modChain e c.id fun c => f { c with words := ws, prog := 0, park := none }
        match headerBad (engKind e) ws with
        | some b => s.malformed e c c.block b
        | none =>
          if bits w0 55 53 = 0 then go s fun c => { c with stage := .perform }
          else
            match s.chainRead e c (bits (ws.getD 2 0) 56 3 * 8) 8 with
            | (s, .error f) => s.chainFault e c f
            | (s, .ok (v, _)) =>
              if blockTest w0 (ofBytes v) then (go s fun c => { c with stage := .perform }).testAcquire e
              else
                match bits w0 52 51 with
                | 0 => (go s id).setAside e c
                | 1 => go s fun c =>
                    let alt := bits (ws.getD 1 0) 31 0
                    if alt = 0 then { c with stage := .ending, flags := c.flags ||| 2 ^ 30 }
                    else { c with stage := .fetch, block := linkTo c.block alt }
                | _ => go s Chain.advance)

/-- A chain that waits in a test is fetched again (R274, R276). -/
def State.retestEngine (s : State) (e : Nat) : State :=
  s.modEngine e fun E => { E with chains := E.chains.map fun c =>
    if c.stage = .testing ∧ !s.stopped c.owner.part then { c with stage := .fetch } else c }

/-- COMMAND_BLOCK_TEST_POLL (R276). -/
def execCommandBlockTestPoll (e : Nat) (s : State) : Host.Outcome State Fault Refusal := .next (s.retestEngine e)

/-- Retest what a waiter waits for (R300). -/
def State.retest (s : State) : Waiter → State
  | .gang g => s.semRetest g
  | .engine e => s.retestEngine e

/-- SEMAPHORE_WAITER_RETEST (R300). -/
def execSemaphoreWaiterRetest (w : Waiter) (s : State) : Host.Outcome State Fault Refusal := .next (s.retest w)

/-- SEMAPHORE_POLL: a waiter that found the table full polls (R300). -/
def execSemaphorePoll (w : Waiter) (s : State) : Host.Outcome State Fault Refusal := .next (s.retest w)

/-- COMMAND_BLOCK_SIGNAL (R277). -/
def execCommandBlockSignal (e : Nat) (s : State) : Host.Outcome State Fault Refusal :=
  .next (s.onChain e fun c s =>
    if c.stage ≠ .signal then s
    else
      let w0 := c.words.getD 0 0
      let add := decide (bits w0 50 49 = 1)
      match s.chainXlat e c (if add then .rmw else .write) true (bits (c.words.getD 3 0) 56 3 * 8) with
      | (s, .error f) => s.chainFault e c f
      | (s, .ok x) =>
        let (s, bad) := s.semUpdate (chainReq e c) x.pa add (bits w0 43 32)
        let s := if bad then s.chainPoison e c (s.structAt x.pa) x.pa else s
        s.modChain e c.id fun c => Chain.advance { c with park := none })

/-- The engine turns to a chain (R282). -/
def State.turnTo (s : State) (e : Nat) (id : Nat) : State := s.modEngine e fun E => { E with cur := some id }

/-- The chain, if any, to which an engine turns from one that pauses: the next of another virtual device that can go on, one that can pay
before one that must borrow; none from a chain that holds chain-buffer data (R282, R291, R294, R444). -/
def State.turnsTo (s : State) (e : Nat) (c : Chain) : Option Chain :=
  if c.holdBuf then none
  else (s.nextChain e (some c.id) fun x => decide (x.owner.vnum ≠ c.owner.vnum) && s.mayBegin e x).bind (s.chain? e)

/-- A piece of a chain's work begins, once the one before it is over: it is granted `n` clk of the engine, paid for clk by clk
(State.payTime). With the bucket empty the engine turns to a chain of another virtual device that can pay; to one that must borrow too it
turns only after a piece of this holder's, so that each of them gets its piece (R294, R415, R444, R445, R447). -/
def State.beginPiece (s : State) (e : Nat) (c : Chain) (n : Nat) : State × Bool :=
  let last := (s.engine e).grant
  let pays := s.hasTime e c
  let other := if pays then none else (s.turnsTo e c).filter fun x =>
    s.hasTime e x || !s.mayBegin e c || last.any fun g => decide (g.holder = c.holder)
  if last.any fun g => decide (s.now < g.ends) then (s, false)
  else match other with
    | some x => (s.turnTo e x.id, false)
    | none =>
      if !s.mayBegin e c then (s, false)
      else ((s.modEngine e fun E => { E with grant := some ⟨c.holder, s.now + n, !pays, 0, 0⟩ }).modChain e c.id fun c =>
        { c with paid := true }, true)

/-- Work of the piece in progress occupies an engine further (R414). -/
def State.occupy (s : State) (e : Nat) (f : Grant → Grant) : State := s.modEngine e fun E => { E with grant := E.grant.map f }

/-- Whom a clk of an engine is charged to: the grant in progress, which lasts as long as the block of its holder occupies the engine
(R294, R415, R445). -/
def State.occupant (s : State) (e : Nat) : Option Grant :=
  (s.engine e).grant.filter fun g => decide (s.now < g.ends) || ((s.engine e).cur.bind (s.chain? e)).any fun c =>
    c.paid && decide (c.holder = g.holder) && (decide (c.stage = .working) || decide (c.stage = .emitting)) && s.canProceed e c

/-- The status word of a chain (R284, R413, R465). -/
def Chain.status (c : Chain) : Word := BitVec.ofNat 32 (c.flags ||| c.perf)

/-- Clear a sprue's producer binding when it is empty and what it was bound to is over (R304). -/
def State.unbindProducers (s : State) (p : Nat) (gone : Binder → Bool) : State :=
  (List.range 9).foldl (fun s i =>
    if (s.cluster (9 * p + i)).sprues.isEmpty then s
    else s.modCluster (9 * p + i) fun K => { K with sprues := SMap.mapV (fun _ (q : Sprue) =>
      if q.entries.isEmpty && q.producer.any gone then { q with producer := none } else q) K.sprues }) s

/-- Take a chain off its engine; the engine turns to the next one (R282). -/
def State.removeChain (s : State) (e : Nat) (c : Chain) : State :=
  let n := s.nextChain e (some c.id) fun _ => true
  let s := s.modEngine e fun E => { if c.holdBuf then E.emptied else E with
    chains := E.chains.filter fun x => decide (x.id ≠ c.id),
    cur := if E.cur = some c.id then n.filter fun x => decide (x ≠ c.id) else E.cur }
  s.unbindProducers c.owner.part fun b => decide (b = .chain e c.id)

/-- What the starting gang keeps of a chain that has ended: its status among the last 64, the handle's status, the owed
bit, its counter (R281, R283, R385, R421). -/
def State.chainEnded (s : State) (c : Chain) : State :=
  match c.owner.gang with
  | none => s
  | some g =>
    let s := s.modGang g fun G =>
      let owed := { G.owed with chp := G.owed.chp || bit c.flags 28 }
      match c.owner.query with
      | some h => { G with owed := owed, eng := { G.eng with
          handles := SMap.modify h (fun H => { H with status := some c.status }) G.eng.handles } }
      | none => { G with owed := owed, eng := { G.eng with
          status := (SMap.put c.owner.handle c.status G.eng.status).filter fun kv => decide (G.eng.chains ≤ kv.1 + 64) } }
    match s.gang? g with
    | none => s
    | some G =>
      match G.pend.find? fun p => decide (p.kind = .chain c.owner.handle) with
      | some p => if c.owner.query.isSome then s else s.complete g p
      | none => s

/-- CHAIN_END: the chain has ended; its launch record completes (R279, R332). -/
def execChainEnd (e : Nat) (s : State) : Host.Outcome State Fault Refusal :=
  .next (s.onChain e fun c s =>
    if c.stage ≠ .ending then s
    else
      let r := match c.owner.vnum, c.owner.record with
        | some v, some rec => s.completeRecord v rec 0x02 false
        | _, _ => (s, none)
      match r with
      | (s, some f) => s.chainFault e c f
      | (s, none) => (s.chainEnded c).removeChain e c)

/-! ## CBGO and CBSTAT (R279-R283) -/

/-- A chain as an outstanding operation of its gang (R281). -/
def chainPend (id h : Nat) (cls : Cnt) (i : Instr) : Pend :=
  { id := id, kind := .chain h, cls := some cls, run := none, dests := [], results := [], masks := [], pins := [],
    done := false, park := none, todo := 0, word := i, base := 0, lanes := 0, widx := 0, runAddr := 0, scales := [], ops := [],
    conds := [], xlats := [], lrun := 0, rc := false }

/-- A CBGO to engine number `n` of its cluster or die (R281). -/
def cbgoWord (i : Instr) (d a : BitVec 7) (n : Nat) (s : State) : Host.Outcome State Fault Refusal :=
  scalarWord i { swr := [d.toNat], gated := true }
    (fun g G s =>
      let va := (G.spair a.toNat).toNat
      let cls := if n = 2 then Cnt.pl else Cnt.cp
      let k := clusterOf G.place.core
      let e := engineOf k n
      if !G.runsIssued then .wait
      else if va % 64 ≠ 0 then .stop (s.haltScalar G (misaligned va 0 64))
      else if inWindow va then .stop (s.haltScalar G (protection va 0 5))
      else if G.full cls || s.engineFull e || G.releaseWaits then .wait
      else
        let h := G.eng.chains
        let s := (s.release G 3).addChain e va G.sp.seed
          ⟨some G.vnum, some G.place.wg, some G.place.core, some g, h, none, none, partOfVnum G.vnum, k⟩
        let (id, s) := s.newId
        let s := s.addPend g (chainPend id h cls i)
        .done (s.modGang g fun G =>
          { (G.setS d.toNat (BitVec.ofNat 32 h)).next with eng := { G.eng with chains := h + 1 } })) s

/-- CBGO.l0 and CBGO.l1 (R281). -/
def execCbgoLadle (d a : BitVec 7) (e : BitVec 1) (s : State) : Host.Outcome State Fault Refusal :=
  cbgoWord (.cbgoLadle d a e) d a e.toNat s

/-- CBGO.ple (R281). -/
def execCbgoPle (d a : BitVec 7) (s : State) : Host.Outcome State Fault Refusal := cbgoWord (.cbgoPle d a) d a 2 s

/-- CBGO.run0 to CBGO.run3 (R281). -/
def execCbgoRunner (d a : BitVec 7) (e : BitVec 2) (s : State) : Host.Outcome State Fault Refusal :=
  cbgoWord (.cbgoRunner d a e) d a (4 + e.toNat) s

/-- CBSTAT (R283). -/
def execCbstat (d a : BitVec 7) (s : State) : Host.Outcome State Fault Refusal :=
  scalarWord (.cbstat d a) { swr := [d.toNat] }
    (fun g G s =>
      let h := (G.sreg a.toNat).toNat
      let n := G.eng.chains
      if n ≤ h then .stop (s.illegalScalar G (wordOf (.cbstat d a)))
      else if 64 < n - h then .done (s.putGang g (G.setS d.toNat 0x80000000).next)
      else
        match SMap.find? h G.eng.status with
        | none => .wait
        | some v =>
          if !G.runsIssued || G.acquireWaits then .wait else .done ((s.acquire G 3).putGang g (G.setS d.toNat v).next)) s

end Sys2Proof.Machine
end

