-- ==== Sys2Proof/Machine/Launch.lean ====
section
/-! DEFINITION. The dispatcher: launch records checked, tested and entered, and the wake of a chain (R13, R14, R21, R77,
R329-R336). -/

namespace Sys2Proof.Machine

/-! ## A launch record and a kernel descriptor (R329, R330) -/

/-- The fields of a launch record, its sixteen words and its address. -/
structure LaunchRec where
  addr : Nat
  ws   : List Nat

def LaunchRec.w (r : LaunchRec) (i : Nat) : Nat := r.ws.getD i 0
def LaunchRec.next (r : LaunchRec) : Nat := bits (r.w 0) 56 7 * 128
def LaunchRec.kind (r : LaunchRec) : Nat := bits (r.w 1) 63 62
def LaunchRec.prio (r : LaunchRec) : Nat := bits (r.w 1) 61 60
def LaunchRec.tsave (r : LaunchRec) : Bool := bit (r.w 1) 59
def LaunchRec.cpair (r : LaunchRec) : Bool := bit (r.w 1) 58
def LaunchRec.desc (r : LaunchRec) : Nat := bits (r.w 1) 56 0
def LaunchRec.wgs (r : LaunchRec) : Nat := bits (r.w 3) 31 0
def LaunchRec.gangs (r : LaunchRec) : Nat := bits (r.w 4) 63 58 + 1
def LaunchRec.regs (r : LaunchRec) : Nat := bits (r.w 4) 57 53
def LaunchRec.scr (r : LaunchRec) : Nat := bits (r.w 4) 52 49
def LaunchRec.bars (r : LaunchRec) : Nat := bits (r.w 4) 48 42
def LaunchRec.tiles (r : LaunchRec) : Nat := bits (r.w 4) 41 35
def LaunchRec.feeders (r : LaunchRec) : Nat := bits (r.w 4) 34 29
def LaunchRec.matrix (r : LaunchRec) : Nat := bits (r.w 4) 28 24
def LaunchRec.vector (r : LaunchRec) : Nat := bits (r.w 4) 23 18
def LaunchRec.coh (r : LaunchRec) : Nat := bits (r.w 4) 17 11
def LaunchRec.image (r : LaunchRec) : Nat := bits (r.w 5) 56 0
def LaunchRec.eng (r : LaunchRec) : Nat := bits (r.w 8) 47 40
def LaunchRec.eclu (r : LaunchRec) : Nat := bits (r.w 8) 39 32
def LaunchRec.test (r : LaunchRec) : Nat := bits (r.w 9) 63 61
def LaunchRec.waitAddr (r : LaunchRec) : Nat := bits (r.w 9) 56 3 * 8
def LaunchRec.sig (r : LaunchRec) : Nat := bits (r.w 11) 63 62
def LaunchRec.entry (r : LaunchRec) : Nat := bits (r.w 13) 56 0
def LaunchRec.state (r : LaunchRec) : Nat := bits (r.w 15) 63 56

/-! ## The checks (R334) -/

/-- Reserved ranges of a record: word, high bit, low bit (R329). -/
def launchReserved : List (Nat × Nat × Nat) :=
  [(0, 63, 57), (0, 6, 0), (1, 57, 57), (4, 10, 0), (5, 63, 57), (7, 63, 57), (8, 31, 0), (9, 60, 57), (9, 2, 0),
    (11, 61, 57), (11, 2, 0), (13, 63, 57), (13, 1, 0), (14, 63, 0)]

/-- Malformed: CODE 0x01 (R329, R334). -/
def LaunchRec.malformed (r : LaunchRec) : Bool :=
  let nz := fun i => decide (r.w i ≠ 0)
  decide (r.kind = 3) || decide (3 < r.test) || decide (r.sig = 3)
  || launchReserved.any (fun x => decide (bits (r.w x.1) x.2.1 x.2.2 ≠ 0))
  || (decide (r.kind < 2) && decide (r.desc % 64 ≠ 0)) || decide (r.image % 64 ≠ 0)
  || (match r.kind with
      | 0 => decide (r.eng ≠ 0) || decide (r.eclu ≠ 0)
      | 1 => nz 3 || nz 4 || nz 5 || nz 7 || r.tsave || r.cpair || nz 13
      | _ => nz 3 || nz 4 || nz 5 || nz 6 || nz 7 || r.tsave || r.cpair || decide (r.desc ≠ 0) || decide (r.eng ≠ 0)
          || decide (r.eclu ≠ 0) || nz 13)

/-- Number of cohorts (R13). -/
def LaunchRec.cohorts (r : LaunchRec) : Nat := if r.coh = 0 then 0 else (r.wgs + r.coh - 1) / r.coh

/-- The quantities and combinations of R13 and R14; what fails them is CODE 0x02. -/
def LaunchRec.declared (r : LaunchRec) : Bool :=
  decide (1 ≤ r.wgs) && decide (r.scr ≤ 10) && decide (r.bars ≤ 64) && decide (r.tiles ≤ 96) && decide (r.coh ≤ 64)
  && (if r.matrix = 0 then decide (r.gangs ≤ 32)
      else decide (r.gangs % 2 = 0) && decide (r.matrix % 4 = 0) && decide (r.matrix ≤ 16) && decide (r.feeders % 2 = 0)
        && decide (r.vector % 2 = 0))
  && (decide (r.feeders + r.matrix + r.vector = 0) || decide (r.feeders + r.matrix + r.vector = r.gangs))
  && (!r.tsave || decide (r.matrix ≠ 0))
  && (!r.cpair || (decide (1 ≤ r.coh) && decide (r.cohorts % 2 = 0)))

/-- The record declares what the descriptor asks for (R77); what fails it is CODE 0x03. -/
def LaunchRec.agrees (r : LaunchRec) (d1 : Nat) : Bool :=
  decide (bits d1 57 53 ≤ r.regs) && decide (bits d1 52 49 ≤ r.scr) && decide (bits d1 48 42 ≤ r.bars)
  && decide (bits d1 41 35 ≤ r.tiles) && decide (bits d1 34 29 = r.feeders) && decide (bits d1 28 24 = r.matrix)
  && decide (bits d1 23 18 = r.vector) && (bit d1 10 == r.cpair)

/-- Copies of a need that a capacity holds; a need of 0 is no bound. -/
def copies (need have' : Nat) : Nat := if need = 0 then 64 else have' / need

/-- Workgroups of the record that an empty core (or twin) holds (R16, R18). -/
def LaunchRec.perPlace (r : LaunchRec) : Nat :=
  let here := if r.matrix = 0 then r.gangs else r.gangs / 2
  let most := (here + 3) / 4
  [copies most 16, copies (most * (r.regs + 1)) 256, copies r.scr 10, copies r.bars 64, copies r.tiles 96].foldl min 64

/-- A cohort can fit four empty cores (R21); what fails it is CODE 0x04. -/
def LaunchRec.cohortFits (r : LaunchRec) : Bool :=
  decide (r.coh = 0) || decide (min r.coh r.wgs ≤ (if r.matrix = 0 then 4 else 2) * r.perPlace)

/-! ## Reads of the dispatcher (R331, R356) -/

/-- Read bytes inside one line at their home, translated at the partition's cluster 0; poison is counted, the bytes are
used as they stand (R392). -/
def State.dispRead (s : State) (v rec va n : Nat) : State × Except FaultInfo (List Byte) :=
  let p := partOfVnum v
  match s.translate (9 * p) v .read false va with
  | (s, .error f) => (s, .error f)
  | (s, .ok x) =>
    let (s, bs, bad) := s.homeRead (Req.firmware p) x.pa n true
    (if bad then s.uncorrectable p (s.structAt x.pa) x.pa (dispatcherAgent v rec) else s, .ok bs)

/-- Read two halves one after another. -/
def State.dispRead2 (s : State) (v rec va n : Nat) : State × Except FaultInfo (List Byte) :=
  match s.dispRead v rec va n with
  | (s, .error f) => (s, .error f)
  | (s, .ok a) =>
    match s.dispRead v rec (va + n) n with
    | (s, .error f) => (s, .error f)
    | (s, .ok b) => (s, .ok (a ++ b))

/-- Whether a fault of a check's read refuses the record: a missing read right, the scratch window or the device region
(R334). -/
def refusing (f : FaultInfo) : Bool := decide (f.cause = 0x10) && (decide (f.detail = 1) || decide (f.detail = 3) || decide (f.detail = 5))

/-- What a check of a record leads to: a fault of a read, or the codes that fail, with the descriptor's first word. -/
inductive Checked where
  | fault (f : FaultInfo)
  | codes (cs : List Nat) (lsbase : Nat)

/-- The checks of the kernel descriptor and the format image of a KIND 00 record (R77, R87, R334). -/
def State.checkGrid (s : State) (v : Nat) (r : LaunchRec) : State × Checked :=
  match s.dispRead v r.addr r.desc 64 with
  | (s, .error f) => if refusing f then (s, .codes (if r.cohortFits then [5] else [4, 5]) 0) else (s, .fault f)
  | (s, .ok bs) =>
    let d := words64 bs
    let cs := (if r.agrees (d.getD 1 0) then [] else [3]) ++ (if r.cohortFits then [] else [4])
    let lsbase := bits (d.getD 0 0) 56 0
    if r.image = 0 then (s, .codes cs lsbase)
    else
      match s.dispRead2 v r.addr r.image 64 with
      | (s, .error f) => if refusing f then (s, .codes (cs ++ [5]) lsbase) else (s, .fault f)
      | (s, .ok is) => (s, .codes (cs ++ if (words64 is).all entryOk then [] else [6]) lsbase)

/-- ENG values that CBGO has (R51, R279). -/
def engineNumber (n : Nat) : Bool := decide (n ≤ 2) || (decide (4 ≤ n) && decide (n ≤ 7))

/-- All checks of a record of chain `c` (R334). -/
def State.checkRecord (s : State) (v c : Nat) (r : LaunchRec) : State × Checked :=
  let queue := if c = 8 ∧ r.next ≠ 0 then [8] else []
  if r.malformed then (s, .codes [1] 0)
  else match r.kind with
    | 0 =>
      if !r.declared then (s, .codes [2] 0)
      else match s.checkGrid v r with
        | (s, .fault f) => (s, .fault f)
        | (s, .codes cs l) => (s, .codes (cs ++ queue) l)
    | 1 =>
      let eng := if engineNumber r.eng && decide (r.eclu ≤ 8) then [] else [7]
      match s.translate (9 * partOfVnum v) v .read false r.desc with
      | (s, .error f) => if refusing f then (s, .codes ([5] ++ eng ++ queue) 0) else (s, .fault f)
      | (s, .ok _) => (s, .codes (eng ++ queue) 0)
    | _ => (s, .codes queue 0)

/-! ## Entry (R331, R334, R335) -/

/-- A fault of the dispatcher at a record: it halts, or the chain parks at the record (R333, R366). -/
def State.recordFault (s : State) (v c rec : Nat) (f : FaultInfo) : State :=
  let p := partOfVnum v
  if f.halts then s.halt p (dispatcherAgent v rec) f 0
  else (s.setPark (.record v c) (some (Park.mk' 0 [(f, 0)] (s.parkOf (.record v c))))).queueGroup p (.record v c)

def State.modLaunch (s : State) (v c : Nat) (f : LaunchChain → LaunchChain) : State :=
  s.modVdev v fun V => { V with chains := SMap.upd c LaunchChain.init f V.chains }

/-- The dispatcher is done with a record: a chain waits for NEXT, the launch queue drops it (R331, R336). -/
def State.leaveRecord (s : State) (v c : Nat) (refused : Bool) : State :=
  let s := s.modLaunch v c fun l => { l with park := none, stage := .fresh }
  if c = 8 then s.modVdev v fun V => { V with queue := V.queue.drop 1 }
  else s.modLaunch v c fun l => { l with handled := true, stopped := refused }

/-- Write w15 of a record (R329). -/
def State.writeState (s : State) (v rec state code seq : Nat) : State × Option FaultInfo :=
  let p := partOfVnum v
  match s.translate (9 * p) v .write false (rec + 120) with
  | (s, .error f) => (s, some f)
  | (s, .ok x) =>
    (s.homeWrite (Req.firmware p) x.pa (toBytes 8 (state * 2 ^ 56 + code * 2 ^ 48 + seq % 2 ^ 48)) false, none)

/-- Refuse a record: STATE 0x03 with its code, and a fault record of cause launch error that does not halt (R334). -/
def State.refuse (s : State) (v c : Nat) (r : LaunchRec) (code : Nat) : State :=
  let p := partOfVnum v
  match s.writeState v r.addr 3 code 0 with
  | (s, some f) => s.recordFault v c r.addr f
  | (s, none) =>
    let f : FaultInfo := ⟨0x20, r.addr, 0, 0, 0, 0, code⟩
    (s.writeRecord p (recordWords (dispatcherAgent v r.addr) f (s.part p).seq 0 false false 0 true)).leaveRecord v c true

/-- The grid of a record as it is entered (R27, R330, R331, R341), with memory as its fetches may still see it (R43). -/
def LaunchRec.grid (r : LaunchRec) (v seq lsbase : Nat) (image : Memory) (root : Option Nat) : Grid :=
  { vnum := v, prio := r.prio, id := bits (r.w 3) 63 32, w := r.wgs, ngang := r.gangs, regs := 8 * (r.regs + 1), scr := r.scr,
    bars := r.bars, tiles := r.tiles, f := r.feeders, mt := r.matrix, v := r.vector, coh := r.coh, cpair := r.cpair,
    tsave := r.tsave, arg := BitVec.ofNat 64 (r.w 2), entry := r.entry, wtest := decide (r.test ≠ 0),
    lsbase := BitVec.ofNat 64 lsbase, fmtbase := BitVec.ofNat 64 r.image, seed := BitVec.ofNat 64 (r.w 6),
    spbase := bits (r.w 7) 56 0, spstr := bits (r.w 8) 63 48, seq := seq, next := 0, live := r.wgs, kids := 0,
    killed := false, record := some r.addr, park := none, code := [], image := image, root := root, quiet := false }

/-- Grids and KIND 01 chains of a partition that have been entered and have not completed (R335). -/
def State.openRecords (s : State) (p : Nat) : Nat :=
  (s.grids.filter fun kv => decide (partOfVnum kv.2.vnum = p) && decide (kv.2.w ≠ 0)).length
  + (s.engines.map fun kv => (kv.2.chains.filter fun c => decide (c.owner.part = p) && c.owner.record.isSome).length).sum

/-- The limit of R335. -/
def openLimit : Nat := 128

/-- The dispatcher has a chain's record at a stage (R331). -/
def State.setStage (s : State) (v c : Nat) (x : RecStage) : State := s.modLaunch v c fun l => { l with stage := x, park := none }

/-- Place of a pair (virtual device, chain) in the rotation (R335). -/
def pairIndex (v c : Nat) : Nat := v % 8 * 9 + c

/-- A record that is ready may enter as far as its own engine is concerned (R282, R335). -/
def State.entryRoom (s : State) (p : Nat) (ws : List Nat) : Bool :=
  let r : LaunchRec := ⟨0, ws⟩
  !(decide (r.kind = 1) && s.engineFull (engineOf (9 * p + r.eclu) r.eng))

/-- The pairs of a partition whose records are ready for entry and could enter (R335). -/
def State.readyPairs (s : State) (p : Nat) : List Nat :=
  (List.range 72).filter fun i =>
    let l := SMap.getD (i % 9) LaunchChain.init (s.vdev (8 * p + i / 9)).chains
    match l.stage with
    | .ready ws _ => s.entryRoom p ws && !l.stopped && !l.park.any fun k => !k.replay
    | _ => false

/-- It is a pair's turn: of the pairs that are ready none comes before it, from where the rotation stands (R335). -/
def State.pairTurn (s : State) (p i : Nat) : Bool :=
  let far := fun j => (j + 72 - (s.part p).rotor) % 72
  (s.readyPairs p).all fun j => decide (far i ≤ far j)

/-- Every write that has completed is visible to fetch: the dirty lines of the partition's L1s are cleaned (R43). -/
def State.seenByFetch (s : State) (p : Nat) : State :=
  (List.range 36).foldl (fun s i => s.cleanLines (36 * p + i) fun l => l.dirty) s

/-- A record without work has been entered and completes at once; a fault of its signal halts, or leaves it entered, as a grid of no
workgroups would stay (R331, R332, R366). -/
def State.signalRecord (s : State) (v : Nat) (r : LaunchRec) (seq : Nat) : State :=
  match s.completeRecord v r.addr 0x02 false with
  | (s, none) => s
  | (s, some f) =>
    let p := partOfVnum v
    if f.halts then s.halt p (dispatcherAgent v r.addr) f 0
    else
      let (id, s) := s.newId
      let D : Grid := { (LaunchRec.mk r.addr []).grid v seq 0 [] none with id := bits (r.w 3) 63 32, park := some (Park.mk' 0 [(f, 0)] none) }
      ({ s with grids := SMap.put id D s.grids } : State).queueGroup p (.grid id)

/-- Enter a record that passed its checks and its test, when it is its turn and there is room: STATE 0x01 with the next SEQ, and what
its KIND asks for (R331, R332, R335). -/
def State.enterRecord (s : State) (v c : Nat) (r : LaunchRec) (lsbase : Nat) : State :=
  let p := partOfVnum v
  let seq := (s.part p).acceptSeq
  let e := engineOf (9 * p + r.eclu) r.eng
  if openLimit ≤ s.openRecords p ∨ s.entryRoom p r.ws = false ∨ s.pairTurn p (pairIndex v c) = false then s
  else
    match s.writeState v r.addr 1 0 seq with
    | (s, some f) => s.recordFault v c r.addr f
    | (s, none) =>
      let s := s.modPart p fun P => { P with acceptSeq := seq + 1, rotor := (pairIndex v c + 1) % 72 }
      match r.kind with
      | 0 =>
        let (id, s) := ((s.leaveRecord v c false).seenByFetch p).newId
        let x := s.ctx v
        { s with grids := SMap.put id (r.grid v seq lsbase s.mem (if x.en then some x.root else none)) s.grids }
      | 1 => (s.leaveRecord v c false).addChain e r.desc (BitVec.ofNat 64 (r.w 6))
          ⟨some v, none, none, none, 0, none, some r.addr, p, 9 * p + r.eclu⟩
      | _ => (s.leaveRecord v c false).signalRecord v r seq

/-- The test of a record (R329, R331): 1 at least, 2 equal, 3 not equal. -/
def launchTest (test cmp x : Nat) : Bool :=
  match test with
  | 1 => decide (cmp ≤ x)
  | 2 => decide (x = cmp)
  | _ => decide (x ≠ cmp)

/-- A record that is ready is entered as soon as it may (R331). -/
def State.readyRecord (s : State) (v c : Nat) (r : LaunchRec) (lsbase : Nat) : State :=
  (s.setStage v c (.ready r.ws lsbase)).enterRecord v c r lsbase

/-- The test of a checked record: it waits, or is ready for entry (R331). -/
def State.testRecord (s : State) (v c : Nat) (r : LaunchRec) (lsbase : Nat) : State :=
  match s.dispRead v r.addr r.waitAddr 8 with
  | (s, .error f) => s.recordFault v c r.addr f
  | (s, .ok bs) => if launchTest r.test (r.w 10) (ofBytes bs) then s.readyRecord v c r lsbase else s

/-- Check, test and enter a pending record (R331). -/
def State.tryRecord (s : State) (v c : Nat) (r : LaunchRec) : State :=
  match s.checkRecord v c r with
  | (s, .fault f) => s.recordFault v c r.addr f
  | (s, .codes (k :: ks) _) => s.refuse v c r (ks.foldl min k)
  | (s, .codes [] lsbase) =>
    if r.test = 0 then s.readyRecord v c r lsbase
    else (s.setStage v c (.testing r.ws lsbase)).testRecord v c r lsbase

/-- The chain is not stopped at a refused record, not parked there, and does not wait for NEXT. -/
def State.recordReady (s : State) (v c : Nat) : Bool :=
  let k := s.parkOf (.record v c)
  let l := SMap.getD c LaunchChain.init (s.vdev v).chains
  !(k.any fun k => !k.replay) && (if c = 8 then !(s.vdev v).queue.isEmpty else decide (l.cur ≠ 0) && !l.stopped && !l.handled)

/-- The current record of a chain, read at its home slice. -/
def State.readRecord (s : State) (v c : Nat) : State × Except FaultInfo LaunchRec :=
  let a := s.launchRecord v c
  match s.dispRead v a a 128 with
  | (s, .error f) => (s, .error f)
  | (s, .ok bs) => (s, .ok ⟨a, words64 bs⟩)

/-- DISPATCHER_ENTRY: a chain's current record is read, and a pending one is checked, tested and entered; a record that waits in its
test, or for its turn or room, goes on from there (R331, R335). -/
def execDispatcherEntry (v c : Nat) (s : State) : Host.Outcome State Fault Refusal :=
  .next (
    let a := s.launchRecord v c
    if s.stopped (partOfVnum v) || !s.recordReady v c then s
    else
      match (SMap.getD c LaunchChain.init (s.vdev v).chains).stage with
      | .fresh =>
        (match s.readRecord v c with
         | (s, .error f) => s.recordFault v c a f
         | (s, .ok r) => if r.state ≠ 0 then s.leaveRecord v c false else s.tryRecord v c r)
      | .testing ws l => s.testRecord v c ⟨a, ws⟩ l
      | .ready ws l => s.enterRecord v c ⟨a, ws⟩ l)

/-- RECORD_NEXT_WAKE: the current record of a chain that waits has a NEXT: it becomes the current record (R331, R333). -/
def execRecordNextWake (v c : Nat) (s : State) : Host.Outcome State Fault Refusal :=
  .next (
    let l := SMap.getD c LaunchChain.init (s.vdev v).chains
    if s.stopped (partOfVnum v) || decide (8 ≤ c) || !l.handled || l.stopped || decide (l.cur = 0)
        || (l.park.any fun k => !k.replay) then s
    else
      match s.readRecord v c with
      | (s, .error f) => s.recordFault v c l.cur f
      | (s, .ok r) =>
        if r.next = 0 then s else s.modLaunch v c fun l => { l with cur := r.next, handled := false, park := none })

end Sys2Proof.Machine
end

