-- ==== Sys2Proof/Machine/Fetch.lean ====
section
/-! DEFINITION. Fetch: instruction words through their own path (R43), scalar words at the PC and runs at their address. -/

namespace Sys2Proof.Machine

/-- The physical address that tables which stand in an image of memory give for an address (R350, R352); structural on the levels left. -/
def imagePa (m : Memory) (va : Nat) : Nat → Nat → Option Nat
  | 0, _ => none
  | n + 1, table =>
    let e := ofBytes (Memory.read m (table + 8 * bits va (12 + 9 * (n + 1) - 1) (12 + 9 * n)) 8)
    if !bit e 0 || bit e 61 || badEntry e (n + 1) then none
    else if bit e 7 then some (entryPa e + va % pageSize (n + 1))
    else imagePa m va n (entryPa e)

/-- The word that a grid had at an address as it was entered, where the tables of that time map it (R43). -/
def Grid.oldWord (D : Grid) (va : Nat) : Option Nat :=
  (D.root.bind (imagePa D.image va 5)).map fun pa => ofBytes (Memory.read D.image pa 4)

/-- Fetch 32 bits at a 4-byte-aligned address through the fetch path (R42, R43, R356): the word that memory holds, and the one that
it held when the gang's grid was entered; poison is counted, and the bits are used as they stand (R392). -/
def State.fetchPiece (s : State) (G : Gang) (va : Nat) : State × Except FaultInfo (Nat × Nat) :=
  let k := clusterOf G.place.core
  match s.translate k G.vnum .fetch false va with
  | (s, .error f) => (s, .error f)
  | (s, .ok x) =>
    let r := s.homeRead (Req.cluster (some G.vnum) k) x.pa 4 false
    let s := if r.2.2 then r.1.uncorrectable (partOfVnum G.vnum) (r.1.structAt x.pa) x.pa (r.1.scalarAgent G 2 va) else r.1
    let w := ofBytes r.2.1
    (s, .ok (w, ((s.grid? G.grid).bind fun D => D.oldWord va).getD w))

/-- Fetch `n` pieces from `va` upward as one little-endian number. -/
def State.fetchPieces (s : State) (G : Gang) : Nat → Nat → State × Except FaultInfo (Nat × Nat)
  | 0, _ => (s, .ok (0, 0))
  | n + 1, va =>
    match s.fetchPiece G va with
    | (s, .error f) => (s, .error f)
    | (s, .ok w) =>
      match s.fetchPieces G n (va + 4) with
      | (s, .error f) => (s, .error f)
      | (s, .ok hi) => (s, .ok (w.1 + 2 ^ 32 * hi.1, w.2 + 2 ^ 32 * hi.2))

/-- The word that a fetch gives: that of memory, the one with which the grid was entered, or the one fetched before; where they
differ, which of them is free (R43). -/
def State.settle (s : State) (grid key : Nat) (w : Nat × Nat) : State × Nat :=
  let old := w.2 :: ((s.grid? grid).bind fun G => SMap.find? key G.code).toList
  let ws := w.1 :: old.filter fun x => decide (x ≠ w.1)
  let pick := ws.getD (Config.oldWord s.fresh % ws.length) w.1
  let note := fun (s : State) (x : Nat) => s.modGrid grid fun G => { G with code := SMap.put key x G.code }
  if ws.length = 1 then (note s w.1, w.1) else (note { s with fresh := s.fresh + 1 } pick, pick)

/-- Fetch the scalar word at a gang's PC. -/
def State.fetchScalar (s : State) (G : Gang) : State × Except FaultInfo (BitVec 32) :=
  match s.fetchPiece G G.pc with
  | (s, .error f) => (s, .error f)
  | (s, .ok w) =>
    let (s, w) := s.settle G.grid (2 * G.pc) w
    (s, .ok (BitVec.ofNat 32 w))

/-- A fault of the fetch of a scalar word: it halts, or the gang parks at the fetch (R366). -/
def State.fetchFault (s : State) (g : Nat) (G : Gang) (f : FaultInfo) : State :=
  if f.halts then s.halt (partOfVnum G.vnum) (s.scalarAgent G 2 G.pc) f 0 else s.parkScalar g G f

/-- Fetch `n` lane words from `va` upward. -/
def State.fetchLane (s : State) (G : Gang) : Nat → Nat → State × Except FaultInfo (List (BitVec 96))
  | 0, _ => (s, .ok [])
  | n + 1, va =>
    match s.fetchPieces G 3 va with
    | (s, .error f) => (s, .error f)
    | (s, .ok w) =>
      let (s, w) := s.settle G.grid (2 * va + 1) w
      match s.fetchLane G n (va + 12) with
      | (s, .error f) => (s, .error f)
      | (s, .ok ws) => (s, .ok (BitVec.ofNat 96 w :: ws))

/-- The mask-write and scalar-read sets of a run's words (R172). -/
def runSets (ws : List (BitVec 96)) : List Nat × List Nat :=
  ws.foldl (fun r w =>
    match decodeLane w with
    | .ok i => ((maskWrites i).foldl (fun m k => insNat k m) r.1, (scalarReads i).foldl (fun m k => insNat k m) r.2)
    | .error _ => r) ([], [])

/-- Fetch the words of a queued run of gang `g` and record its sets (R174); a replayable fault leaves the run queued and
parks its fetch, a halting fault halts. -/
def State.fetchRun (s : State) (g serial : Nat) : State :=
  match s.gang? g with
  | none => s
  | some G =>
    match G.runs.find? fun r => decide (r.serial = serial) with
    | none => s
    | some r =>
      let set := fun (s : State) (f : Run → Run) =>
        s.modGang g fun G => { G with runs := G.runs.map fun x => if x.serial = serial then f x else x }
      match s.fetchLane G (r.len + 1) r.addr with
      | (s, .ok ws) =>
        let sets := runSets (ws.take r.len)
        set s fun r => { r with words := ws, maskWr := sets.1, scalRd := sets.2, park := none }
      | (s, .error f) =>
        if f.halts then s.halt (partOfVnum G.vnum) (s.scalarAgent G 2 f.va) f 0
        else (set s fun r => { r with park := some (Park.mk' 0 [(f, 0)] r.park) }).queueGroup (partOfVnum G.vnum)
          (.run g serial)

end Sys2Proof.Machine
end

