-- ==== Sys2Proof/Machine/Completions.lean ====
section
/-! DEFINITION. What completes without a word: loads, stores, special-function results, runs, and the promotion of a gang
that has waited (R71, R159, R175, R178, R236). -/

namespace Sys2Proof.Machine

/-- A word that acquires has taken effect: the acquire of its scope follows (R318). -/
def State.acquireOf (s : State) (G : Gang) (p : Pend) : State :=
  match memoryFields p.word with
  | some f => if bit f.order.toNat 0 then s.acquire G (lmScope f p (setBits p.lanes)) else s
  | none => s

/-- LOAD_COMPLETE: accesses of the lanes are performed, and then every active lane's destination is written (R236, R317). -/
def execLoadComplete (g op : Nat) (s : State) : Host.Outcome State Fault Refusal :=
  .next (match s.ripe g op with
    | some (G, p) =>
      if p.kind = .load then s.advance g G p (wordTry g G) fun s p => (s.complete g p).acquireOf G p else s
    | none => s)

/-- STORE_PERFORMED: the lanes' writes are performed at their scope (R236, R317). -/
def execStorePerformed (g op : Nat) (s : State) : Host.Outcome State Fault Refusal :=
  .next (match s.ripe g op with
    | some (G, p) =>
      if p.kind = .store then s.advance g G p (wordTry g G) fun s p => (s.complete g p).acquireOf G p else s
    | none => s)

/-- SFU_RESULT_COMPLETE (R159). -/
def execSfuResultComplete (g op : Nat) (s : State) : Host.Outcome State Fault Refusal :=
  .next (match s.ripe g op with
    | some (_, p) => if p.kind = .sfu then s.complete g p else s
    | none => s)

/-! ## Runs (R71, R175) -/

/-- A run may retire: its last word has issued, its trailer has been read, whatever destination of it is not complete is a main
register that the trailer names, and its TRD and TWR words are complete (R71, R175, R267). -/
def Gang.canRetire (G : Gang) (r : Run) : Bool :=
  match r.ended with
  | none => false
  | some named => r.issued && G.pend.all fun p =>
      decide (p.run ≠ some r.serial)
      || (p.masks.isEmpty && p.dests.all named.contains && !(decide (p.kind = .tile) && p.cls.isNone))

/-- What remains of the lane side when a run retires: the helper shadow and the last-result file are discarded (R34,
R112). -/
def LaneFile.retire (L : LaneFile) : LaneFile :=
  { L with shadow := [], regs := SMap.keep (fun k _ => decide (k % 1024 < 512)) L.regs }

/-- Retire a run of a gang (R175). -/
def Gang.retireRun (G : Gang) (r : Run) : Gang :=
  { G with
    lane := G.lane.retire
    runs := G.runs.filter fun x => decide (x.serial ≠ r.serial)
    pend := G.pend.map fun p => if p.run = some r.serial then { p with run := none } else p }

/-- RUN_RETIRE: the oldest run of a gang retires (R175). -/
def execRunRetire (g : Nat) (s : State) : Host.Outcome State Fault Refusal :=
  .next (match s.gang? g with
    | none => s
    | some G =>
      match G.runs with
      | [] => s
      | r :: _ =>
        if s.stopped (partOfVnum G.vnum) || !G.canRetire r
            || !(decide (s.wgStage G = some .running) || decide (s.wgStage G = some .saving)) then s
        else s.putGang g (G.retireRun r))

/-! ## The choice of a quarter (R178) -/

/-- ISSUE_PROMOTION: a gang whose next lane word, or next scalar word, has been eligible without issuing for 4,096 clk is promoted for
that word (R178). -/
def execIssuePromotion (g : Nat) (s : State) : Host.Outcome State Fault Refusal :=
  .next (match s.gang? g with
    | none => s
    | some G =>
      let lane := (match G.runs with
        | [] => false
        | r :: _ => s.laneReady G r && !r.issued && decide (G.since + 4096 ≤ s.now) : Bool)
      s.putGang g { G with promo := G.promo || lane, promoS := G.promoS || (s.scalarReady G && decide (G.sinceS + 4096 ≤ s.now)) })

end Sys2Proof.Machine
end

