-- ==== Sys2Proof/Machine/Marver.lean ====
section
/-! DEFINITION. The Marver words (R199-R223): pattern slots and entries, permutations, votes, scans, ranking, the stream
decoder and the cross-cluster exchange. -/

namespace Sys2Proof.Machine

/-! ## Elements (R200, R201) -/

/-- A source as the crossbar sees it: the cell of a register number at a position. -/
abbrev Lanes := Nat → Nat → Cell

/-- Element `i` of a source of 2^esz elements a register, with its register's poison. -/
def Lanes.elem (rd : Lanes) (esz i : Nat) : Nat × Bool :=
  let n := 2 ^ esz
  let w := 32 / n
  let c := rd (i % (32 * n) / n) (i / (32 * n))
  (c.val.toNat / 2 ^ (w * (i % n)) % 2 ^ w, c.p)

/-- A lane's register made of picked elements; no element is zero and adds no poison (R202). -/
def Lanes.permute (rd : Lanes) (esz l : Nat) (pick : Nat → Option Nat) : Cell :=
  let n := 2 ^ esz
  let w := 32 / n
  let es := (List.range n).map fun k => match pick (n * l + k) with
    | some i => rd.elem esz i
    | none => (0, false)
  ⟨BitVec.ofNat 32 ((es.zipIdx).foldl (fun v ek => v + ek.1.1 * 2 ^ (w * ek.2)) 0), es.any Prod.snd, true⟩

/-! ## The frame (R202, R203) -/

/-- A Marver word: its sources, destinations, masks, what makes it illegal whatever its mask, and its own effect; with an empty mask it
does nothing and is not counted (R180, R310). -/
def marverWord (i : Instr) (f : LX) (srcs : List (Src × Nat)) (dsts : List (Dst × Nat)) (mrd mwr : List Nat)
    (eff : Issue → Pend → State → Issued) (s : State) (ok : Issue → State → Bool := fun _ _ => true) : Host.Outcome State Fault Refusal :=
  let u : Use := { srcs := srcs, dsts := dsts, mrd := mrd, mwr := mwr, gated := true }
  laneWord i (some f.msel.toNat) u
    (fun x s =>
      if !ok x s then .illegal
      else if x.act.isEmpty then .done s
      else if x.gang.full .gx then .wait
      else
        let (id, s) := s.newId
        eff x { x.pend u i .marver (some .gx) id with pins := [] } s) s

/-- A word whose results are known at issue: cells for a lane, and the lanes that are written (R202). -/
def moveWord (i : Instr) (f : LX) (srcs : List (Src × Nat)) (dsts : List (Dst × Nat)) (out : Issue → Nat → List Cell)
    (s : State) : Host.Outcome State Fault Refusal :=
  marverWord i f srcs dsts [] []
    (fun x p s => .done (s.addPend x.g ((x.act ++ x.help).foldl (fun p l => p.addResults l (out x l)) p))) s

/-- The lanes of a source operand. -/
def Issue.lanes (x : Issue) (a : Src) : Lanes := fun l k => x.cell l a k

/-! ## Patterns (R204-R209) -/

/-- The bytes of a held pattern image that a word uses: each is the held one, or, where memory no longer holds it, by a free
choice the one memory holds (R208). -/
def State.imageBytes (s : State) (e : PatEntry) : State × PatEntry :=
  let here := 4096 - e.va % 4096
  let t := (s.flushCells (e.pa / 256)).flushCells (e.pa2 / 256)
  let now := t.readPa e.pa (min 256 here) ++ t.readPa (e.pa2 + 1 - (256 - min 256 here)) (256 - min 256 here)
  if now = e.bytes then (s, e)
  else ({ s with fresh := s.fresh + 1 },
    { e with bytes := (e.bytes.zip now).zipIdx.map fun x => if Config.newByte s.fresh x.2 then x.1.2 else x.1.1 })

/-- The entry of a pattern image on a core, moved to the front; fetched through the constant path where absent
(R204, R205). -/
def State.pattern (s : State) (core asid addr : Nat) (ag : Agent) : State × Except FaultInfo PatEntry :=
  let gen := (s.ctx asid).gen
  let c := s.core core
  let is := fun e : PatEntry => decide (e.va = addr) && decide (e.asid = asid) && decide (e.gen = gen)
  match c.pats.find? is with
  | some e =>
    let (s, f) := s.imageBytes e
    (s.modCore core fun c => { c with pats := e :: c.pats.filter fun e => !is e }, .ok f)
  | none =>
    match s.pathReadMany (.const core) (clusterOf core) asid 3 addr 256 with
    | (s, .error f) => (s, .error f)
    | (s, .ok d) =>
      let (s, last) := match s.translate (clusterOf core) asid .read false (addr + 255) with
        | (s, .ok x) => (s, x.pa)
        | (s, .error _) => (s, d.pa)
      let e : PatEntry := ⟨addr, d.pa, last, asid, gen, d.bytes, d.bad⟩
      let s := s.metData (partOfVnum asid) d ag
      (s.modCore core fun c => { c with pats := (e :: c.pats).take 64 }, .ok e)

/-- Whether an entry is resident. -/
def State.hasPattern (s : State) (core asid addr : Nat) : Bool :=
  (s.core core).pats.any fun e => decide (e.va = addr) && decide (e.asid = asid) && decide (e.gen = (s.ctx asid).gen)

/-! ## Bindings (R205, R207, R208) -/

/-- Bind a pattern slot: the binding it replaces is still open to every other gang of the workgroup, and the binder itself sees
no older one (R208). -/
def Wg.bind (W : Wg) (slot addr g : Nat) : Wg :=
  let own := W.older.map fun o => if o.slot = slot then { o with seers := o.seers.filter (· ≠ g) } else o
  { W with slots := SMap.put slot addr W.slots,
           older := (⟨slot, SMap.find? slot W.slots, g, W.gangs.filter (· ≠ g), []⟩ :: own).filter fun o => !o.seers.isEmpty }

/-- What a gang may find a pattern slot bound to, the newest first (R208). -/
def Wg.bindings (W : Wg) (slot g : Nat) : List (Option Nat) :=
  SMap.find? slot W.slots :: (W.older.filter fun o => decide (o.slot = slot) && o.seers.contains g).map OldBinding.addr

/-- What a word of a gang finds a pattern slot bound to: one of the bindings it may see (R208). -/
def State.binding (s : State) (w slot g : Nat) : State × Option Nat :=
  match (s.wg? w).map fun W => W.bindings slot g with
  | none => (s, none)
  | some bs =>
    if bs.length = 1 then (s, bs.headD none)
    else ({ s with fresh := s.fresh + 1 }, bs.getD (Config.binding s.fresh % bs.length) none)

/-- Fetch the image of an XLDP. -/
def runXldp (_ : Nat) (G : Gang) (ag : Agent) (p : Pend) (ls : List Nat) (s : State) : Try :=
  match s.pattern G.place.core G.vnum p.pairA ag with
  | (s, .error e) => ⟨s, p, [(e, maskOf ls)]⟩
  | (s, .ok _) => ⟨s, p, []⟩

/-- XLDP (R207). -/
def execXldp (f : LX) (s : State) : Host.Outcome State Fault Refusal :=
  marverWord (.xldp f) f [(f.a, 2)] [] [] []
    (fun x p s =>
      if x.act.isEmpty then .done (s.addPend x.g { p with kind := .xldp })
      else
        let p := { p with kind := .xldp, ops := x.capture [(f.a, 2)],
                          pins := ({ srcs := [(f.a, 2)] } : Use).pins x.gang x.n }
        if p.pairA % 64 ≠ 0 then .illegal
        else if s.comesAfter x.gang x.gang.pend [(p.pairA, 256)] then .wait
        else
          let s := s.modWg x.gang.place.wg fun W => W.bind f.pat.toNat p.pairA x.g
          x.take s (runXldp x.g x.gang (s.laneAgent x.gang x.run.addr x.run.next) p x.act s)) s

/-- An XLDP of a gang of the workgroup whose entry for the slot is not loaded yet (R207). -/
def State.slotPending (s : State) (w slot : Nat) : Bool :=
  s.gangs.any fun kv => decide (kv.2.place.wg = w) && kv.2.pend.any fun x =>
    !x.done && (match x.word with
      | .xldp f => decide (f.pat.toNat = slot)
      | _ => false)

/-- A word's sources captured at every position, as the crossbar reads them (R201, R204). -/
def Issue.captureAll (x : Issue) (srcs : List (Src × Nat)) : SMap Cell :=
  ({ x with act := List.range 32, help := x.help } : Issue).capture srcs

/-- The cell XPAT leaves in a lane under a pattern image (R206, R209). -/
def xpatCell (f : LX) (img : List Byte) (rd : Lanes) (l : Nat) : Cell :=
  let esz := f.esz.toNat
  let n := 32 * 2 ^ esz
  let pick := fun i =>
    let b := (img.getD i 0).toNat
    if n ≤ 128 ∧ 128 ≤ b then none else some ((b % n + f.imm.toNat) % n)
  if f.fn = 0 then rd.permute esz l pick
  else
    match pick l with
    | none => ⟨0, false, true⟩
    | some i =>
      let e := rd.elem esz i
      let w := 32 / 2 ^ esz
      ⟨BitVec.ofNat 32 (if f.fn = 2 then wrap 32 (sext w e.1) else e.1), e.2, true⟩

/-- The results of an XPAT once its entry is there; a poisoned entry poisons every active lane's destination (R204). -/
def runXpat (f : LX) (_ : Nat) (G : Gang) (ag : Agent) (p : Pend) (ls : List Nat) (s : State) : Try :=
  match s.pattern G.place.core G.vnum p.base ag with
  | (s, .error e) => ⟨s, p, [(e, maskOf ls)]⟩
  | (s, .ok e) =>
    let act := setBits p.lanes
    let p := (act ++ G.helpers act).foldl (fun p l =>
      let c := xpatCell f e.bytes (fun l k => p.cell l 0 k) l
      p.addResults l [{ c with p := c.p || e.bad }]) p
    ⟨s, p, []⟩

/-- XPAT (R209). -/
def execXpat (f : LX) (s : State) : Host.Outcome State Fault Refusal :=
  marverWord (.xpat f) f [(f.a, 1)] [(f.dst, 1)] [] []
    (fun x p s =>
      match s.binding x.gang.place.wg f.pat.toNat x.g with
      | (_, none) => .illegal
      | (s, some addr) =>
        if s.slotPending x.gang.place.wg f.pat.toNat || s.comesAfter x.gang x.gang.pend [(addr, 256)] then .wait
        else
          let fetch := !s.hasPattern x.gang.place.core x.gang.vnum addr
          let p := { p with base := addr, ops := x.captureAll [(f.a, 1)],
                            pins := if fetch then ({ srcs := [(f.a, 1)] } : Use).pins x.gang x.n else [] }
          x.take s (runXpat f x.g x.gang (s.laneAgent x.gang x.run.addr x.run.next) p x.act s)) s
    (fun x s => (s.binding x.gang.place.wg f.pat.toNat x.g).2.isSome)

/-! ## Shift, broadcast, gather, quads (R210-R212) -/

/-- XSHF (R210). -/
def execXshf (f : LX) (s : State) : Host.Outcome State Fault Refusal :=
  let esz := f.esz.toNat
  let z := WF.segSize f (bits f.fn.toNat 4 2)
  let d := f.imm.toNat
  moveWord (.xshf f) f [(f.a, 1)] [(f.dst, 1)]
    (fun x l => [(x.lanes f.a).permute esz l fun i =>
      let base := z * (i / z)
      match f.fn.toNat % 4 with
      | 0 => if i < base + d then none else some (i - d)
      | 1 => if base + z ≤ i + d then none else some (i + d)
      | 2 => some (base + (i - base + d) % z)
      | _ => some (i ^^^ d)]) s

/-- XBCST (R210). -/
def execXbcst (f : LX) (s : State) : Host.Outcome State Fault Refusal :=
  let z := WF.segSize f (bits f.fn.toNat 4 2)
  moveWord (.xbcst f) f [(f.a, 1)] [(f.dst, 1)]
    (fun x l => [(x.lanes f.a).permute f.esz.toNat l fun i => some (z * (i / z) + f.imm.toNat)]) s

/-- XGATH: per-element indices in B (R211). -/
def execXgath (f : LX) (s : State) : Host.Outcome State Fault Refusal :=
  let esz := f.esz.toNat
  let n := 2 ^ esz
  let size := 32 * n * (if f.fn = 1 then 2 else 1)
  let nb := if f.esz = 3 then 2 else 1
  moveWord (.xgath f) f [(f.a, if f.fn = 1 then 2 else 1), (f.b, nb)] [(f.dst, 1)]
    (fun x l =>
      let idx := fun k => (x.cell l f.b (k / 4)).val.toNat / 256 ^ (k % 4) % 256
      let c := (x.lanes f.a).permute esz l fun i =>
        let b := idx (i % n)
        if size ≤ 128 ∧ 128 ≤ b then none else some (b % size)
      [{ c with p := c.p || (List.range nb).any fun k => (x.cell l f.b k).p }]) s

/-- QSWZ (R212). -/
def execQswz (f : LX) (s : State) : Host.Outcome State Fault Refusal :=
  moveWord (.qswz f) f [(f.a, 1)] [(f.dst, 1)]
    (fun x l => [x.cell (4 * (l / 4) + f.imm.toNat / 4 ^ (l % 4) % 4) f.a 0]) s

/-- QBCST (R212). -/
def execQbcst (f : LX) (s : State) : Host.Outcome State Fault Refusal :=
  moveWord (.qbcst f) f [(f.a, 1)] [(f.dst, 1)] (fun x l => [x.cell (4 * (l / 4) + f.imm.toNat % 4) f.a 0]) s

/-! ## Votes (R213) -/

/-- A vote: the result word of the ballot, and a lane's mask bit (R213). -/
def voteWord (i : Instr) (f : LX) (r : Issue → Nat → Nat) (bitOf : Nat → Nat → Bool) (s : State) :
    Host.Outcome State Fault Refusal :=
  let j := f.imm.toNat % 8
  let dsts := match f.dst.file with
    | .special => []
    | _ => [(f.dst, 1)]
  marverWord i f [(f.a, 1)] dsts [] (if j = 0 then [] else [j])
    (fun x p s =>
      let ballot := maskOf (x.act.filter fun l =>
        let c := x.cell l f.a 0
        decide (c.val ≠ 0) && !c.p)
      let v := r x ballot
      let pz := x.act.any fun l => (x.cell l f.a 0).p
      let p := if dsts.isEmpty then p
        else (x.act ++ x.help).foldl (fun p l => p.addResults l [⟨BitVec.ofNat 32 v, pz, true⟩]) p
      let masks := if j = 0 then [] else [(j, maskOf x.act, maskOf (x.act.filter (bitOf v)))]
      .done (s.addPend x.g { p with masks := masks })) s

/-- VBAL (R213). -/
def execVbal (f : LX) (s : State) : Host.Outcome State Fault Refusal := voteWord (.vbal f) f (fun _ b => b) (fun v l => bit v l) s

/-- VANY (R213). -/
def execVany (f : LX) (s : State) : Host.Outcome State Fault Refusal :=
  voteWord (.vany f) f (fun _ b => if b ≠ 0 then 1 else 0) (fun v _ => decide (v = 1)) s

/-- VALL (R213). -/
def execVall (f : LX) (s : State) : Host.Outcome State Fault Refusal :=
  voteWord (.vall f) f (fun x b => if b = maskOf x.act then 1 else 0) (fun v _ => decide (v = 1)) s

/-! ## Scans (R214) -/

/-- The identity of a scan's operation (R214). -/
def scanIdentity (op : Nat) : Nat :=
  [0, 0x80000000, 0x7FFFFFFF, 0x80000000, 0xFFFFFFFF, 0, 0x7FC00000, 0x7FC00000].getD op 0

/-- One step of a scan: the new value and its causes (R214). -/
def scanStep (op rnd acc x : Nat) : Elem :=
  let fl := fun (g : Num → Num → Num) =>
    (⟨(binary32.conv 0 false 0 (g (binary32.decode acc) (binary32.decode x))).code, {}⟩ : Elem)
  match op with
  | 0 => ⟨(acc + x) % 2 ^ 32, {}⟩
  | 1 => binary32.round rnd false 0 (Num.sum [binary32.decode acc, binary32.decode x] (decide (rnd = 2)))
  | 2 => ⟨if sext 32 acc ≤ sext 32 x then acc else x, {}⟩
  | 3 => ⟨if sext 32 acc ≤ sext 32 x then x else acc, {}⟩
  | 4 => ⟨min acc x, {}⟩
  | 5 => ⟨max acc x, {}⟩
  | 6 => fl Num.minOf
  | _ => fl Num.maxOf

/-- A scan in progress: the accumulator, the poison of what entered it, and what each lane has received. -/
structure Scan where
  acc   : Nat
  p     : Bool
  out   : List (Nat × Cell)
  conds : List (Nat × Cond)

/-- One lane of a scan (R214). -/
def scanLane (x : Issue) (f : LX) (sc : Scan) (l : Nat) : Scan :=
  let op := f.fn.toNat % 8
  let ex := bit f.fn.toNat 6
  if x.act.contains l then
    let a := x.cell l f.a 0
    let r := scanStep op (bits f.fn.toNat 5 3) sc.acc a.val.toNat
    let p := sc.p || a.p
    let o : Cell := if ex then ⟨BitVec.ofNat 32 sc.acc, sc.p, true⟩ else ⟨BitVec.ofNat 32 r.code, p, true⟩
    ⟨r.code, p, sc.out ++ [(l, o)], sc.conds ++ [(l, if p then {} else r.cond)]⟩
  else if x.help.contains l then { sc with out := sc.out ++ [(l, ⟨BitVec.ofNat 32 sc.acc, sc.p, true⟩)] }
  else sc

/-- XSCAN (R214). -/
def execXscan (f : LX) (s : State) : Host.Outcome State Fault Refusal :=
  let z := if f.imm.toNat % 4 = 0 then 32 else 2 * 2 ^ (f.imm.toNat % 4)
  marverWord (.xscan f) f [(f.a, 1)] [(f.dst, 1)] [] []
    (fun x p s =>
      let segs := (List.range (32 / z)).map fun i =>
        ((List.range z).map fun k => z * i + k).foldl (scanLane x f) ⟨scanIdentity (f.fn.toNat % 8), false, [], []⟩
      let p := (segs.flatMap Scan.out).foldl (fun p lc => p.addResults lc.1 [lc.2]) p
      .done (s.addPend x.g { p with conds := condRecords (segs.flatMap Scan.conds) })) s

/-! ## Top-k and sort (R215-R217) -/

/-- The order of keys as a number: unsigned, signed, or binary32 with −0 below +0 and NaN above all (R215). -/
def rankKey (ty k : Nat) : Int :=
  match ty with
  | 0 => k
  | 1 => sext 32 k
  | _ =>
    if (binary32.decode k).isNan then 2 ^ 33
    else if 2 ^ 31 ≤ k then -((k - 2 ^ 31 : Nat) : Int) - 1 else k

/-- A ranking word over segments of `z` lanes, keeping the best `k` (R215-R217). -/
def rankWord (i : Instr) (f : LX) (k : Nat) (s : State) : Host.Outcome State Fault Refusal :=
  let z := WF.rankSeg f
  let ty := f.fn.toNat % 4
  let asc := bit f.fn.toNat 2
  marverWord i f [(f.a, 1), (f.b, 1)] [(f.dst, 2)] [] []
    (fun x p s =>
      let p := (List.range (32 / z)).foldl (fun p seg =>
        let ls := x.act.filter fun l => decide (l / z = seg)
        let es := ls.map fun l => (x.cell l f.a 0, x.cell l f.b 0)
        let key := fun (e : Cell × Cell) => rankKey ty e.1.val.toNat
        let ranked := sortBy (fun a b => if asc then decide (key a ≤ key b) else decide (key b ≤ key a)) es
        let pz := es.any fun e => e.1.p || e.2.p
        ((ls.zip ranked).take k).foldl (fun p le =>
          p.addResults le.1 [{ le.2.1 with p := pz }, { le.2.2 with p := pz }]) p) p
      .done (s.addPend x.g p)) s

/-- TOPK (R216). -/
def execTopk (f : LX) (s : State) : Host.Outcome State Fault Refusal := rankWord (.topk f) f (f.imm.toNat % 64) s

/-- XSORT (R217). -/
def execXsort (f : LX) (s : State) : Host.Outcome State Fault Refusal := rankWord (.xsort f) f 32 s

/-! ## The stream decoder (R218, R219) -/

/-- One lane's decoding step: value, reservoir, count after, and whether it claims a word; `w` is the word it would claim
(R218). -/
def sdecStep (res cnt wid w : Nat) : Nat × Nat × Nat :=
  let wid := min (wid % 64) 32
  let n := min (cnt % 64) 32
  let r := res % 2 ^ n
  if wid ≤ n then (r % 2 ^ wid, r / 2 ^ wid, n - wid)
  else
    let t := w * 2 ^ n + r
    (t % 2 ^ wid, t / 2 ^ wid % 2 ^ 32, n + 32 - wid)

/-- Whether a lane claims a word. -/
def sdecClaims (cnt wid : Nat) : Bool := decide (min (cnt % 64) 32 < min (wid % 64) 32)

/-- The sources of SDEC. -/
def sdecSrcs (f : LX) : List (Src × Nat) := [(f.a, 2), (f.b, 1), (f.c, 2)]

/-- Read the claimed words of a stream; faults of every word are found. -/
def State.streamWords (s : State) (G : Gang) (ag : Agent) : Nat → Nat → State × List FaultInfo × List (Nat × Bool)
  | 0, _ => (s, [], [])
  | n + 1, va =>
    let k := clusterOf G.place.core
    match s.pathRead (.stream k) k G.vnum va 4 with
    | (s, .error f) =>
      let r := s.streamWords G ag n (va + 4)
      (r.1, f :: r.2.1, (0, false) :: r.2.2)
    | (s, .ok d) =>
      let s := s.metData (partOfVnum G.vnum) d ag
      let r := s.streamWords G ag n (va + 4)
      (r.1, r.2.1, (ofBytes d.bytes, d.bad) :: r.2.2)

/-- The results of SDEC once its words have arrived: a poisoned word poisons the results of every active lane; a helper lane
claims nothing, and a claimed word's poison is in its shadow results too (R204, R218). -/
def runSdec (f : LX) (_ : Nat) (G : Gang) (ag : Agent) (p : Pend) (ls : List Nat) (s : State) : Try :=
  match ls with
  | [] => ⟨s, p, []⟩
  | _ =>
    let cur0 := p.value p.first 2 0 true
    let cursor := cur0.1 / 4 * 4
    let claims := fun l => sdecClaims (p.cell l 0 1).val.toNat (p.cell l 1 0).val.toNat
    let claimers := ls.filter claims
    match s.streamWords G ag claimers.length cursor with
    | (s, fs@(_ :: _), _) => ⟨s, p, fs.map fun e => (e, maskOf ls)⟩
    | (s, [], ws) =>
      let bad := ws.any Prod.snd
      let next := cursor + 4 * claimers.length
      let one := fun (l w : Nat) (bad : Bool) =>
        let wid := (p.cell l 1 0).val.toNat
        let o := sdecStep (p.cell l 0 0).val.toNat (p.cell l 0 1).val.toNat wid w
        let pz := (p.cell l 0 0).p || (p.cell l 0 1).p || (p.cell l 1 0).p || cur0.2 || bad
        let v := if f.fn = 1 ∧ min (wid % 64) 32 ≠ 0 then wrap 32 (sext (min (wid % 64) 32) o.1) else o.1
        let c := fun (n : Nat) => (⟨BitVec.ofNat 32 n, pz, true⟩ : Cell)
        [c v, c o.2.1, c o.2.2] ++ cells true next pz
      let p := ls.foldl (fun p l =>
        let w := if claims l then (ws.getD (claimers.filter fun k => decide (k < l)).length (0, false)).1 else 0
        p.addResults l (one l w bad)) p
      let p := (G.helpers (setBits p.lanes)).foldl (fun p l => p.addResults l (one l 0 bad)) p
      ⟨s, p, []⟩

/-- SDEC (R218, R219). -/
def execSdec (f : LX) (s : State) : Host.Outcome State Fault Refusal :=
  marverWord (.sdec f) f (sdecSrcs f) [(f.dst, 1), (⟨f.a.file, f.a.idx⟩, 2), (⟨f.c.file, f.c.idx⟩, 2)] [] []
    (fun x p s =>
      let p := { p with ops := x.captureAll (sdecSrcs f), pins := ({ srcs := sdecSrcs f } : Use).pins x.gang x.n }
      if s.comesAfter x.gang x.gang.pend (p.reach x.act) then .wait
      else x.take s (runSdec f x.g x.gang (s.laneAgent x.gang x.run.addr x.run.next) p x.act s)) s

/-! ## Cross-cluster exchange (R220-R223) -/

/-- Whether the workgroup at the same offset of the partner cohort exists (R13, R220). -/
def partnerNum (D : Grid) (num : Nat) : Option Nat :=
  if !D.cpair || decide (D.coh = 0) then none
  else
    let n := ((num / D.coh) ^^^ 1) * D.coh + num % D.coh
    if n < D.w then some n else none

/-- The partner gang: same GIDX in the partner workgroup (R220). -/
def State.partner (s : State) (G : Gang) (num : Nat) : Option Nat :=
  (List.find? (fun kv => decide (kv.2.place.gidx = G.place.gidx) && decide (kv.2.grid = G.grid)
    && (s.wg? kv.2.place.wg).any fun W => W.child.isNone && decide (W.num = num)) s.gangs).map Prod.fst

/-- A gang's k-th exchange, if it is outstanding. -/
def Gang.exchange (G : Gang) (k : Nat) : Option Pend :=
  G.pend.find? fun x => match x.kind with
    | .xxch n _ _ _ => decide (n = k)
    | _ => false

/-- What a pend sends. -/
def Pend.sent (p : Pend) : List (Nat × Cell) :=
  match p.kind with
  | .xxch _ _ sent _ => sent
  | _ => []

/-- The tag of an exchange. -/
def Pend.tag (p : Pend) : Nat :=
  match p.word with
  | .xxch f => f.fn.toNat
  | _ => 0

/-- Give an exchange what its partner sends: the receiving positions that the partner sends to get a result (R221). -/
def Pend.receive (p : Pend) (sent : List (Nat × Cell)) : Pend :=
  match p.kind with
  | .xxch n _ out lanes =>
    let got := sent.filter fun lc => bit lanes lc.1
    { p with kind := .xxch n true out lanes, results := got.map fun lc => p.result lc.1 0 lc.2 }
  | _ => p

/-- Exchanges that a gang may have outstanding (R222). -/
def maxExchanges : Nat := 4

/-- Outstanding exchanges of a gang. -/
def Gang.exchanges (G : Gang) : Nat :=
  (G.pend.filter fun x => match x.kind with
    | .xxch _ _ _ _ => !x.done
    | _ => false).length

/-- XXCH (R220-R223). -/
def execXxch (f : LX) (s : State) : Host.Outcome State Fault Refusal :=
  let k := f.imm.toNat % 8
  let u : Use := { srcs := [(f.a, 1)], dsts := [(f.dst, 1)], mrd := [k], gated := true }
  laneWord (.xxch f) (some f.msel.toNat) u
    (fun x s =>
      let G := x.gang
      let counted := decide (G.mreg f.msel.toNat ≠ 0)
      let partner := match s.wg? G.place.wg, s.grid? G.grid with
        | some W, some D => if W.child.isSome then none else (partnerNum D W.num).map fun n => (W.lone, n)
        | _, _ => none
      match partner with
      | none => .illegal
      | some (lone, num) =>
        if maxExchanges ≤ G.exchanges || (counted && G.full .gx) then .wait
        else
          let recv := G.active k
          let sent := x.act.map fun l => (l, x.cell l f.a 0)
          let (id, s) := s.newId
          let n := G.eng.xxch
          let p := { x.pend u (.xxch f) (.xxch n lone sent (maskOf recv)) (if counted then some .gx else none) id with
                     pins := [], lanes := maskOf recv }
          let put := fun (s : State) (p : Pend) =>
            (s.addPend x.g p).modGang x.g fun G => { G with eng := { G.eng with xxch := n + 1 } }
          match (s.partner G num).bind fun h => ((s.gang? h).bind fun H => H.exchange n).map fun q => (h, q) with
          | none => .done (put s p)
          | some (h, q) =>
            if q.tag ≠ f.fn.toNat then .illegal
            else
              let s := s.modGang h fun H => { H with pend := H.pend.map fun y => if y.id = q.id then y.receive sent else y }
              .done (put s (p.receive q.sent))) s

/-! ## Completions -/

/-- MARVER_WORD_COMPLETE (R203). -/
def execMarverWordComplete (g op : Nat) (s : State) : Host.Outcome State Fault Refusal :=
  .next (match s.ripe g op with
    | some (_, p) => if p.kind = .marver then s.complete g p else s
    | none => s)

/-- PATTERN_ENTRY_LOADED: the entry of an XLDP is loaded (R203, R207). -/
def execPatternEntryLoaded (g op : Nat) (s : State) : Host.Outcome State Fault Refusal :=
  .next (match s.ripe g op with
    | some (_, p) => if p.kind = .xldp then s.complete g p else s
    | none => s)

/-- XXCH_EXCHANGE_COMPLETE: an exchange whose partner has issued its own, or was killed, completes (R221, R223). -/
def execXxchExchangeComplete (g op : Nat) (s : State) : Host.Outcome State Fault Refusal :=
  .next (match s.ripe g op with
    | some (_, p) =>
      match p.kind with
      | .xxch _ paired _ _ => if paired then s.complete g p else s
      | _ => s
    | none => s)

/-- A killed workgroup's partner: pending exchanges pair with no send (R223). -/
def State.leaveAlone (s : State) (w : Nat) : State :=
  match s.wg? w with
  | none => s
  | some W =>
    (W.gangs.foldl (fun s g => s.modGang g fun G => { G with pend := G.pend.map fun p =>
      match p.kind with
      | .xxch _ false _ _ => p.receive []
      | _ => p }) s).modWg w fun W => { W with lone := true }

end Sys2Proof.Machine
end

