-- ==== Sys2Proof/Machine/Ladles.lean ====
section
/-! DEFINITION. The Ladles: the body of a block, the four spaces, and the operations, one destination line at a time
(R285-R294). -/

namespace Sys2Proof.Machine

/-! ## The body of a block (R285, R287, R288) -/

structure LadleBody where
  op   : Nat
  ssp  : Nat
  dsp  : Nat
  src  : Nat
  dst  : Nat
  sf   : Nat
  df   : Nat
  rows : Nat
  cols : Nat
  sstr : Nat
  dstr : Nat
  rnd  : Nat

def ladleBody (ws : List Nat) : LadleBody :=
  let w := fun i => ws.getD i 0
  { op := bits (w 0) 59 56, ssp := bits (w 0) 47 46, dsp := bits (w 0) 45 44, src := bits (w 4) 56 0, dst := bits (w 5) 56 0,
    sf := bits (w 6) 63 40, df := bits (w 6) 39 16, rows := bits (w 6) 15 0 + 1, cols := bits (w 7) 63 44,
    sstr := bits (w 7) 43 24, dstr := bits (w 7) 23 4, rnd := bits (w 7) 3 1 }

/-- Elements of a format in one line (R287). -/
def Fmt.perLine (F : Fmt) : Nat := if F.width = 6 then 320 else 2048 / max F.width 1

def LadleBody.sFmt (b : LadleBody) : Fmt := Fmt.ofEntry b.sf
def LadleBody.dFmt (b : LadleBody) : Fmt := Fmt.ofEntry b.df

/-- QUANT, DEQUANT, RESCALE. -/
def LadleBody.converts (b : LadleBody) : Bool := decide (2 ≤ b.op) && decide (b.op ≤ 4)

/-- Lines of a source row and of a destination row, and the number of each (R287, R288). -/
def LadleBody.srcLines (b : LadleBody) : Nat := if b.converts || decide (b.op = 5) then b.cols / b.sFmt.perLine else b.cols
def LadleBody.dstLines (b : LadleBody) : Nat :=
  if b.converts then b.cols / b.dFmt.perLine else if b.op = 5 then b.rows / b.sFmt.perLine else b.cols
def LadleBody.dstRows (b : LadleBody) : Nat := if b.op = 5 then b.cols else b.rows

/-- Destination lines of the whole block. -/
def LadleBody.units (b : LadleBody) : Nat := b.dstRows * b.dstLines

/-- Address of a line of a source or destination row (R285). -/
def LadleBody.srcAddr (b : LadleBody) (i k : Nat) : Nat := b.src + 256 * i * b.sstr + 256 * k
def LadleBody.dstAddr (b : LadleBody) (i k : Nat) : Nat := b.dst + 256 * i * b.dstr + 256 * k

/-- A float format of width 32 or 16 without blocks (R288). -/
def wideFmt (F : Fmt) : Bool := F.sc && (decide (F.width = 32) || decide (F.width = 16))

/-- Size of a space for a chain (R286). -/
def State.spaceSize (s : State) (c : Chain) (sp : Nat) : Nat :=
  let W := c.owner.wg.bind s.wg?
  match sp with
  | 0 => 2 ^ 57
  | 1 => W.elim 0 s.scratchSize
  | 2 => 4096 * W.elim 0 fun W => if W.child.isSome then 0 else (s.grid? W.grid).elim 0 Grid.tiles
  | _ => 65536

/-- Whether the lines of some rows leave their space or are not aligned (R286). -/
def badExtentOf (size base rows stride lines : Nat) : Bool :=
  decide (base % 256 ≠ 0) || (decide (0 < rows) && decide (size < base + 256 * (rows - 1) * stride + 256 * lines))

/-- The checks of a Ladle block's body for an operation (R278, R285-R288). -/
def State.ladleBad (s : State) (c : Chain) : Option Nat :=
  let ws := c.words
  let b := ladleBody ws
  let owned := c.owner.wg.isSome
  let S := b.sFmt
  let D := b.dFmt
  let common := [badField (decide (6 < b.op)) 0 56, resvBit ws 4 63 57, resvBit ws 5 63 57, badField (decide (5 < b.rnd)) 7 1,
    resvBit ws 7 0 0]
  if b.op = 0 then
    firstBad (common ++ [badField (decide (b.ssp ≠ 0)) 0 46, badField (decide (b.dsp ≠ 0)) 0 44, badField (decide (b.src ≠ 0)) 4 0,
      badField (decide (b.dst ≠ 0)) 5 0, badField (decide (b.sf ≠ 0)) 6 40, badField (decide (b.df ≠ 0)) 6 16,
      badField (decide (b.rows ≠ 1)) 6 0, badField (decide (b.cols ≠ 0)) 7 44, badField (decide (b.sstr ≠ 0)) 7 24,
      badField (decide (b.dstr ≠ 0)) 7 4, badField (decide (b.rnd ≠ 0)) 7 1])
  else
    let spaces := [badField ((decide (b.ssp = 1) || decide (b.ssp = 2)) && !owned) 0 46,
      badField ((decide (b.dsp = 1) || decide (b.dsp = 2)) && !owned) 0 44]
    let formats :=
      if b.converts then
        [badField (!(if b.op = 2 then wideFmt S else S.b)) 6 40, badField (!(if b.op = 3 then wideFmt D else D.b)) 6 16,
         badField (S.b && decide (b.ssp = 1)) 0 46, badField (D.b && decide (b.dsp = 1)) 0 44,
         badField (decide (b.cols % S.perLine ≠ 0) || decide (b.cols % D.perLine ≠ 0)) 7 44]
      else if b.op = 5 then
        [badField (!(S.sc && (decide (S.width = 8) || decide (S.width = 16) || decide (S.width = 32)))) 6 40,
         badField (decide (b.df ≠ b.sf)) 6 16, badField (decide (b.rows % S.perLine ≠ 0)) 6 0,
         badField (decide (b.cols % S.perLine ≠ 0)) 7 44, badField (decide (b.rnd ≠ 0)) 7 1]
      else
        [badField (decide (b.sf ≠ 0)) 6 40, badField (decide (b.df ≠ 0)) 6 16, badField (decide (b.rnd ≠ 0)) 7 1,
         badField (decide (b.op = 6) && (decide (b.cols = 0) || decide (4096 < b.cols))) 7 44]
    let source :=
      if b.op = 6 then
        [badField (decide (1 < b.ssp)) 0 46,
         badField (decide (b.src % 8 ≠ 0) || decide (s.spaceSize c b.ssp < b.src + 8 * b.rows)) 4 0]
      else [badField (badExtentOf (s.spaceSize c b.ssp) b.src b.rows b.sstr b.srcLines) 4 0]
    firstBad (common ++ spaces ++ formats ++ source
      ++ [badField (badExtentOf (s.spaceSize c b.dsp) b.dst b.dstRows b.dstr b.dstLines) 5 0])

/-! ## The spaces (R286, R291) -/

/-- The side of the owner core in its workgroup. -/
def ownerSide (W : Wg) (c : Chain) : Nat := c.owner.core.elim 0 fun k => k - W.core

/-- Sectors of a line whose bits are set, from a test by offset. -/
def sectorMask (f : Nat → Bool) : Nat := maskOf ((List.range 4).filter f)

/-- Read a line of a space: its bytes, scale bytes with the tag, poisoned sectors and scale bytes (R286). -/
def State.ladleRead (s : State) (e : Nat) (c : Chain) (sp a : Nat) : State × Except FaultInfo PathLine :=
  let zeros := List.replicate 17 (0 : Byte)
  match sp with
  | 0 =>
    match s.chainXlat e c .read false a with
    | (s, .error f) => (s, .error f)
    | (s, .ok x) =>
      let (s, l) := s.pathLine (.tile (e / 2)) (chainReq e c) x.pa x.sem
      (s, .ok l)
  | 1 =>
    match c.owner.wg.bind s.wg? with
    | some W => (s, .ok ⟨0, Memory.read W.scratch a 256, zeros, sectorMask fun i => W.scrPoison (a + 64 * i) 64, false⟩)
    | none => (s, .ok ⟨0, [], zeros, 0, false⟩)
  | 2 =>
    match c.owner.wg.bind s.wg? with
    | some W => (s, .ok (W.getLine (ownerSide W c) (a / 4096) (a / 256 % 16)))
    | none => (s, .ok ⟨0, [], zeros, 0, false⟩)
  | _ =>
    let E := s.engine e
    if c.holdBuf && E.bufWr.contains (a / 256) then
      (s, .ok ⟨0, Memory.read E.buf a 256, Memory.read E.bufSc (a / 16) 16,
        sectorMask fun i => E.bufBad.contains (a / 64 + i), false⟩)
    else
      ({ s with fresh := s.fresh + 1 },
        .ok ⟨0, (List.range 256).map (Config.undefByte s.fresh), (List.range 16).map fun j => Config.undefByte s.fresh (256 + j),
          0, false⟩)

/-- Write a line to memory at its home, and into the tile cache's copy (R250, R286). -/
def State.ladleStore (s : State) (e : Nat) (c : Chain) (pa : Nat) (o : LineOut) : State :=
  let line := pa / 256 * 256
  let upd := fun (x : PathLine) =>
    if x.pa = line then
      { x with bytes := o.bytes, bad := o.bad, scBad := o.scBad.getD x.scBad,
               scales := o.scales.foldl (fun l jb => l.set jb.1 jb.2) x.scales }
    else x
  (s.putHomeLine (chainReq e c) pa o).modCluster (e / 2) fun K => { K with tile := K.tile.map upd }

/-- Write a line of a space (R286, R289). Scale bytes of the chain buffer that the chain has not written are undefined (R291). The poison
of a copied sidecar goes no further than memory: tile slots and the buffer keep none of it (log entry 90). -/
def State.ladleWrite (s : State) (e : Nat) (c : Chain) (sp a : Nat) (o : LineOut) : State × Option FaultInfo :=
  match sp with
  | 0 =>
    match s.chainXlat e c .write false a with
    | (s, .error f) => (s, some f)
    | (s, .ok x) => (s.ladleStore e c x.pa o, none)
  | 1 =>
    let put := fun (W : Wg) (i : Nat) => W.scrWrite (a + 64 * i) ((o.bytes.drop (64 * i)).take 64) (bit o.bad i)
    (s.modWg (c.owner.wg.getD 0) fun W => (List.range 4).foldl put W, none)
  | 2 =>
    let put := fun (W : Wg) =>
      let side := ownerSide W c
      let key := tileKey side (a / 4096) (a % 4096)
      let sc := (o.scales.filter fun jb => decide (jb.1 < 16)).foldl
        (fun m jb => Memory.setByte m (tileScKey side (a / 4096) (a / 256 % 16) jb.1) jb.2) W.tileSc
      let W := { W with tile := Memory.write W.tile key o.bytes, tileSc := sc }
      (List.range 4).foldl (fun (W : Wg) i => W.setTilePoison (key + 64 * i) (bit o.bad i)) W
    (s.modWg (c.owner.wg.getD 0) put, none)
  | _ =>
    let put := fun (E : Engine) =>
      let old := if E.bufWr.contains (a / 256) then E.bufSc
        else Memory.write E.bufSc (a / 16) ((List.range 16).map (Config.undefByte s.fresh))
      let sc := (o.scales.filter fun jb => decide (jb.1 < 16)).foldl (fun m jb => Memory.setByte m (a / 16 + jb.1) jb.2) old
      let bad := (List.range 4).foldl (fun l i => if bit o.bad i then insNat (a / 64 + i) l else l.erase (a / 64 + i)) E.bufBad
      { E with buf := Memory.write E.buf a o.bytes, bufSc := sc, bufBad := bad, bufWr := insNat (a / 256) E.bufWr }
    (({ s with fresh := s.fresh + 1 } : State).modEngine e put |>.modChain e c.id fun c => { c with holdBuf := true }, none)

/-- Note the poison of a line that a block has read at an address of a space: its data's and its scale bytes' (R284, R289), counted
under the structure that holds them, with the physical address, or the scratch word or tile slot, where it stands (R392, R394). The
chain buffer is none of the structures. -/
def State.ladlePoison (s : State) (e : Nat) (c : Chain) (sp a : Nat) (l : PathLine) (data scale : Bool) : State :=
  let ag := s.chainAgent e c
  let p := c.owner.part
  if !(data || scale) then s
  else
    let s := s.modChain e c.id fun c => { c with flags := c.flags ||| 2 ^ 28 }
    match sp with
    | 0 => if data then s.uncorrectable p (s.lineStruct l) l.pa ag else s.uncorrectable p 11 l.pa ag
    | 1 => s.uncorrectableIn p 2 a ag 0
    | 2 => s.uncorrectableIn p 4 (a / 4096) ag 0
    | _ => s

/-! ## Elements of a line (R97, R287, R289) -/

/-- The code of an element of a line. -/
def lineCode (F : Fmt) (l : PathLine) (j : Nat) : Nat := ofBytes l.bytes / 2 ^ (F.width * j) % 2 ^ F.width

/-- The scale byte of an element of a line. -/
def lineScale (F : Fmt) (l : PathLine) (j : Nat) : Nat := ((l.scales.getD (j / F.blockLen) 0).toNat)

/-- The exact value of an element of a line (R83, R85). -/
def lineValue (F : Fmt) (l : PathLine) (j : Nat) : Num :=
  if F.b then blockValue F (lineCode F l j) (lineScale F l j) else F.decode (lineCode F l j)

/-- Whether an element of a line touches a poisoned sector (R289). -/
def lineBad (F : Fmt) (l : PathLine) (j : Nat) : Bool :=
  bit l.bad (F.width * j / 512) || bit l.bad ((F.width * j + F.width - 1) / 512)

/-- A line of codes. -/
def packLine (F : Fmt) (codes : List Nat) : List Byte :=
  toBytes 256 (codes.zipIdx.foldl (fun n ci => n + ci.1 * 2 ^ (F.width * ci.2)) 0)

/-- The generator word of an element of a block (R290, R464). -/
def blockRb (c : Chain) (r col : Nat) : Nat := genWord ((c.block / 64 % 2 ^ 32) * 2 ^ 32 + r) col c.seed.toNat

/-- Encode a line's elements into a format: a chosen scale for each block of a block format (R102, R103, R289). `old`
gives an element's code and scale where the source has the same format. -/
def encodeLine (F : Fmt) (rnd : Nat) (rb : Nat → Nat) (old : Nat → Option (Nat × Nat)) (vs : List Num) :
    List Elem × List (Nat × Byte) :=
  if F.b then
    let n := F.blockLen
    let scs := (List.range (vs.length / n)).map fun j => chooseScale F ((vs.drop (n * j)).take n)
    let one := fun (vi : Num × Nat) =>
      let sc := scs.getD (vi.2 / n) 0
      match (old vi.2).filter fun o => decide (o.2 = sc) with
      | some o => (⟨o.1, {}⟩ : Elem)
      | none => F.round rnd false (rb vi.2) (if sc = 0xFF then .nan else vi.1.scale2 (127 - (sc : Int)), false)
    (vs.zipIdx.map one, scs.zipIdx.map fun sj => (sj.2, BitVec.ofNat 8 sj.1))
  else (vs.zipIdx.map fun vi => F.round rnd false (rb vi.2) (vi.1, false), [])

/-- Causes as bits: 1 invalid, 2 overflow (R101). -/
def causeBits (c : Cond) : Nat := c.inv.toNat + 2 * c.ov.toNat

/-! ## Acceptance (R291, R292) -/

/-- The tile slots that some rows touch. -/
def tileSlots (base rows stride lines : Nat) : List Nat :=
  (List.range rows).foldl (fun l i =>
    let a := base + 256 * i * stride
    if lines = 0 then l
    else (List.range ((a + 256 * lines - 1) / 4096 + 1 - a / 4096)).foldl (fun l k => insNat (a / 4096 + k) l) l) []

/-- The tile slots that a block reads and writes, as keys of the workgroup's list of slots in use (R249, R292). -/
def ladleSlots (W : Wg) (c : Chain) : List Nat × List Nat :=
  let b := ladleBody c.words
  let key := fun z => ownerSide W c * 96 + z
  (if b.ssp = 2 ∧ b.op ≠ 6 then (tileSlots b.src b.rows b.sstr b.srcLines).map key else [],
   if b.dsp = 2 then (tileSlots b.dst b.dstRows b.dstr b.dstLines).map key else [])

/-- An entry of a gather list, read in its space (R288). -/
def State.gatherEntry (s : State) (e : Nat) (c : Chain) (i : Nat) : State × Except FaultInfo Nat :=
  let b := ladleBody c.words
  let a := b.src + 8 * i
  match s.ladleRead e c b.ssp (a / 256 * 256) with
  | (s, .error f) => (s, .error f)
  | (s, .ok l) =>
    (s.ladlePoison e c b.ssp a l (bit l.bad (a % 256 / 64)) false, .ok (ofBytes ((l.bytes.drop (a % 256)).take 8)))

/-- The entries of a gather list. -/
def State.gatherList (s : State) (e : Nat) (c : Chain) : Nat → Nat → State × Except FaultInfo (List Nat)
  | 0, _ => (s, .ok [])
  | n + 1, i =>
    match s.gatherEntry e c i with
    | (s, .error f) => (s, .error f)
    | (s, .ok x) =>
      match s.gatherList e c n (i + 1) with
      | (s, .error f) => (s, .error f)
      | (s, .ok xs) => (s, .ok (x :: xs))

/-- Bits of a list entry that must be zero (R288). -/
def entryBad (x : Nat) : Bool := decide (bits x 63 57 ≠ 0) || decide (bits x 7 1 ≠ 0)

/-- The lines of a source or destination extent. -/
def extentLines (base rows stride lines : Nat) : List Nat :=
  (List.range rows).flatMap fun i => (List.range lines).map fun k => base + 256 * i * stride + 256 * k

/-- Whether a block's source and destination extents overlap; a gather's list is part of its source (R287, R288). -/
def overlaps (b : LadleBody) (entries : List Nat) : Bool :=
  let dst := extentLines b.dst b.dstRows b.dstr b.dstLines
  if b.op = 6 then
    (decide (b.dsp = 0) && entries.any fun x => !bit x 0 && (List.range b.cols).any fun k => dst.contains (bits x 56 8 * 256 + 256 * k))
    || (decide (b.ssp = b.dsp) && (List.range (b.src % 256 / 8 + b.rows)).any fun i => dst.contains (b.src / 256 * 256 + 8 * i / 256 * 256))
  else decide (b.ssp = b.dsp) && (extentLines b.src b.rows b.sstr b.srcLines).any dst.contains

/-- The rank of a Ladle's tile use among those of one clk: the quarters come first (R249). -/
def ladleRank (e : Nat) : Nat := 4 + e % 2

/-- Accept a block: check its body and a gather's list; its acceptance is its tile time, from which on its uses of tile slots are
listed (R249, R278, R292). -/
def State.ladleAccept (s : State) (e : Nat) (c : Chain) : State :=
  let b := ladleBody c.words
  match s.ladleBad c with
  | some d => s.malformed e c c.block d
  | none =>
    match if b.op = 6 then s.gatherList e c b.rows 0 else (s, .ok []) with
    | (s, .error f) => s.chainFault e c f
    | (s, .ok xs) =>
      if xs.any entryBad then s.malformed e c c.block 256
      else
        let s := match c.owner.wg with
          | some w => s.modWg w fun W =>
              let sl := ladleSlots W c
              (W.hold c.id s.now (ladleRank e) false sl.1).hold c.id s.now (ladleRank e) true sl.2
          | none => s
        s.modChain e c.id fun c => { c with
          stage := .working, prog := 0, accept := s.now, park := none, undef := overlaps b xs, paid := decide (b.units = 0),
          flags := if b.dsp = 2 then c.flags ||| 2 ^ 32 else c.flags }

/-- A working block waits for the earlier uses of its tile slots (R249, R263, R292). -/
def State.ladleWaits (s : State) (c : Chain) : Bool :=
  (c.owner.wg.bind s.wg?).any fun W =>
    let sl := ladleSlots W c
    W.slotWaits c.id s.now false sl.1 || W.slotWaits c.id s.now true sl.2

/-! ## Moving and converting, line by line (R288, R289, R293, R294) -/

/-- Read the lines at a list of addresses. -/
def State.ladleReads (s : State) (e : Nat) (c : Chain) (sp : Nat) : List Nat → State × Except FaultInfo (List PathLine)
  | [] => (s, .ok [])
  | a :: t =>
    match s.ladleRead e c sp a with
    | (s, .error f) => (s, .error f)
    | (s, .ok l) =>
      match s.ladleReads e c sp t with
      | (s, .error f) => (s, .error f)
      | (s, .ok ls) => (s, .ok (l :: ls))

/-- A copied line: its tag goes along from memory to memory, and is 0 out of scratch (R286, R288). -/
def copyOut (ssp dsp : Nat) (l : PathLine) : LineOut :=
  let n := if dsp = 0 ∧ 1 < ssp then 16 else 17
  ⟨l.bytes, (List.range n).map fun j => (j, l.scales.getD j 0), l.bad, some l.scBad⟩

/-- The whole line is poisoned when any of its elements is; with it the scale bytes of a block format (R289). -/
def convOut (F : Fmt) (es : List Elem) (scs : List (Nat × Byte)) (bad : Bool) : LineOut :=
  ⟨packLine F (es.map Elem.code), if F.b then scs ++ [(16, BitVec.ofNat 8 (formatTag F.raw))] else [], if bad then 15 else 0,
    if F.b then some bad else none⟩

/-- The outcome of a line's work: the line, for each source line whether poisoned data and poisoned scale bytes were read of it, and
the causes raised. -/
structure LineWork where
  out    : LineOut
  met    : List (Bool × Bool)
  causes : Nat

/-- Destination line `k` of row `i` of QUANT, DEQUANT or RESCALE, from the source lines that hold its elements (R289). -/
def convertLine (b : LadleBody) (c : Chain) (i k : Nat) (ls : List PathLine) : LineWork :=
  let S := b.sFmt
  let D := b.dFmt
  let first := k * D.perLine / S.perLine
  let at' := fun (m : Nat) =>
    let j := k * D.perLine + m
    ((ls.getD (j / S.perLine - first) ⟨0, [], [], 0, false⟩), j % S.perLine)
  let vs := (List.range D.perLine).map fun m => lineValue S (at' m).1 (at' m).2
  let met := ls.zipIdx.map fun lx =>
    let of := (List.range D.perLine).filter fun m => decide ((k * D.perLine + m) / S.perLine - first = lx.2)
    (of.any fun m => lineBad S lx.1 (at' m).2, S.b && lx.1.scBad && !of.isEmpty)
  let bad := met.any fun x => x.1 || x.2
  let same := decide (b.op = 4) && decide (b.sf % 2 ^ 23 = b.df % 2 ^ 23)
  let old := fun (m : Nat) => if same then some (lineCode S (at' m).1 (at' m).2, lineScale S (at' m).1 (at' m).2) else none
  let r := encodeLine D b.rnd (fun m => blockRb c i (k * D.perLine + m)) old vs
  ⟨convOut D r.1 r.2 bad, met, causeBits (r.1.foldl (fun x el => x.or el.cond) {})⟩

/-- Line `k` of destination row `i` of TRANSPOSE: element i of source rows k·e to k·e + e − 1 (R288). -/
def transposeLine (b : LadleBody) (i : Nat) (ls : List PathLine) : LineWork :=
  let S := b.sFmt
  let j := i % S.perLine
  let met := ls.map fun l => (lineBad S l j, false)
  ⟨⟨packLine S (ls.map fun l => lineCode S l j), [], if met.any Prod.fst then 15 else 0, none⟩, met, 0⟩

/-- Where a block's next destination line comes from: the space and addresses of its source lines, or none for a row that
a gather skips. -/
def LadleBody.sources (b : LadleBody) (i k entry : Nat) : Nat × List Nat :=
  if b.op = 6 then (0, [bits entry 56 8 * 256 + 256 * k])
  else if b.op = 5 then
    let n := b.sFmt.perLine
    (b.ssp, (List.range n).map fun r => b.srcAddr (k * n + r) (i / n))
  else if b.converts then
    let d := b.dFmt.perLine
    let n := b.sFmt.perLine
    let first := k * d / n
    (b.ssp, (List.range (((k + 1) * d - 1) / n + 1 - first)).map fun x => b.srcAddr i (first + x))
  else (b.ssp, [b.srcAddr i k])

/-- Undefined bytes in place of a line's, where source and destination overlap (R287). -/
def undefLine (fresh : Nat) (o : LineOut) : LineOut :=
  { o with bytes := (List.range 256).map (Config.undefByte fresh),
           scales := o.scales.map fun jb => (jb.1, Config.undefByte fresh (256 + jb.1)) }

/-- The log records of a block's causes: at most one for each (R289, R412). -/
def State.logCauses (s : State) (e : Nat) (c : Chain) (src : Nat) : State :=
  let s := if bit c.causes 0 then s.logChain e c 0x01 src else s
  if bit c.causes 1 then s.logChain e c 0x03 src else s

/-- Finish a block: its slots are free, its causes are logged (R289, R292). -/
def State.ladleDone (s : State) (e : Nat) (c : Chain) : State :=
  let s := match c.owner.wg with
    | some w => s.modWg w fun W => W.release c.id
    | none => s
  (s.logCauses e c 0x02).modChain e c.id Chain.performed

/-- Clocks that a destination line occupies the Ladle: 128 source bytes or 64 elements each (R294). -/
def LadleBody.clocks (b : LadleBody) (sources : Nat) : Nat :=
  if b.converts then max (2 * sources) (b.dFmt.perLine / 64) else 2

/-- Destination lines of a piece of output: 4 KB (R294). -/
def pieceLines : Nat := 16

/-- Clocks that the next piece of a block's output occupies the Ladle (R294). -/
def Chain.pieceClocks (c : Chain) : Nat :=
  let b := ladleBody c.words
  ((List.range pieceLines).map fun j =>
    let u := c.prog + j
    if u < b.units then b.clocks (b.sources (u / b.dstLines) (u % b.dstLines) 0).2.length else 0).foldl (· + ·) 0

/-- What a block makes of the source lines of a destination line (R288, R289). -/
def lineWork (b : LadleBody) (c : Chain) (sp i k : Nat) (ls : List PathLine) : LineWork :=
  if b.converts then convertLine b c i k ls
  else if b.op = 5 then transposeLine b i ls
  else
    let l := ls.headD ⟨0, [], [], 0, false⟩
    ⟨copyOut sp b.dsp l, [(decide (l.bad ≠ 0), l.scBad)], 0⟩

/-- Move or convert the next destination line of the block, whose piece has been paid for. -/
def State.ladleLine (s : State) (e : Nat) (c : Chain) : State :=
  let b := ladleBody c.words
  let i := c.prog / b.dstLines
  let k := c.prog % b.dstLines
  match if b.op = 6 then s.gatherEntry e c i else (s, .ok 0) with
  | (s, .error f) => s.chainFault e c f
  | (s, .ok entry) =>
    let next := fun (s : State) (causes : Nat) =>
      let n := c.prog + 1
      s.modChain e c.id fun c => { c with
        prog := n, park := none, causes := c.causes ||| causes, paid := decide (n % pieceLines ≠ 0) || decide (b.units ≤ n) }
    if b.op = 6 ∧ bit entry 0 then next s 0
    else
      let (sp, addrs) := b.sources i k entry
      match s.ladleReads e c sp addrs with
      | (s, .error f) => s.chainFault e c f
      | (s, .ok ls) =>
        let w := lineWork b c sp i k ls
        let s := ((addrs.zip ls).zip w.met).foldl (fun s x => s.ladlePoison e c sp x.1.1 x.1.2 x.2.1 x.2.2) s
        let o := if c.undef then undefLine s.fresh w.out else w.out
        let s := if c.undef then { s with fresh := s.fresh + 1 } else s
        match s.ladleWrite e c b.dsp (b.dstAddr i k) o with
        | (s, some f) => s.chainFault e c f
        | (s, none) => next s w.causes

/-- A step of a working block: it waits for its tile slots, begins its next piece of output, moves a line, or ends (R249, R294). -/
def State.ladleUnit (s : State) (e : Nat) (c : Chain) : State :=
  if (ladleBody c.words).units ≤ c.prog then (if s.ladleWaits c then s else s.ladleDone e c)
  else if s.ladleWaits c then s
  else if c.paid then s.ladleLine e c
  else
    match s.beginPiece e c c.pieceClocks with
    | (s, true) => s.ladleLine e c
    | (s, false) => s

/-- A step of the block that a Ladle performs, when its OP is the one named (R275, R288). -/
def ladleStep (op e : Nat) (s : State) : Host.Outcome State Fault Refusal :=
  .next (s.onChain e fun c s =>
    if engKind e ≠ 1 then s
    else match c.stage with
      | .perform =>
        if op = bits (c.words.getD 0 0) 59 56 ∨ (op = 0 ∧ 6 < bits (c.words.getD 0 0) 59 56) then s.ladleAccept e c else s
      | .working => if op = bits (c.words.getD 0 0) 59 56 then s.ladleUnit e c else s
      | _ => s)

/-- NOP: nothing but the test and the signal; a block whose OP is none of the table's is found malformed here (R278,
R288). -/
def execLadleNop (e : Nat) (s : State) : Host.Outcome State Fault Refusal := ladleStep 0 e s
/-- COPY (R288). -/
def execCopy (e : Nat) (s : State) : Host.Outcome State Fault Refusal := ladleStep 1 e s
/-- QUANT (R288, R289). -/
def execQuant (e : Nat) (s : State) : Host.Outcome State Fault Refusal := ladleStep 2 e s
/-- DEQUANT (R288, R289). -/
def execDequant (e : Nat) (s : State) : Host.Outcome State Fault Refusal := ladleStep 3 e s
/-- RESCALE (R103, R288, R289). -/
def execRescale (e : Nat) (s : State) : Host.Outcome State Fault Refusal := ladleStep 4 e s
/-- TRANSPOSE (R288). -/
def execTranspose (e : Nat) (s : State) : Host.Outcome State Fault Refusal := ladleStep 5 e s
/-- GATHER (R288). -/
def execGather (e : Nat) (s : State) : Host.Outcome State Fault Refusal := ladleStep 6 e s

end Sys2Proof.Machine
end

