-- ==== Sys2Proof/Machine/Sprues.lean ====
section
/-! DEFINITION. Sprues and query handles: QPOST, QTAKE, PLQ, PLFUSE, PLNEXT and PLCLOSE (R303-R307, R416-R421). -/

namespace Sys2Proof.Machine

/-! ## Entries of a sprue (R303, R306) -/

/-- Append entries to a sprue. -/
def State.postEntries (s : State) (p sid : Nat) (b : Binder) (es : List (Word × Word × Bool × Bool)) : State :=
  s.modSprue p sid fun q => { q with entries := q.entries ++ es, producer := some b }

/-- How many entries a take of `n` gets: up to and with the first marked one; none while they have not all come (R306). -/
def takeCount (n : Nat) (es : List (Word × Word × Bool × Bool)) : Option Nat :=
  match (es.take n).findIdx? fun x => x.2.2.1 with
  | some i => some (i + 1)
  | none => if n ≤ es.length then some n else none

/-- Whether entries hold a marked one. -/
def anyMark (es : List (Word × Word × Bool × Bool)) : Bool := es.any fun x => x.2.2.1

/-! ## QPOST and QTAKE (R305, R306) -/

/-- The sprue a word names. -/
def sprueId (f : L3) : Nat := f.aux.toNat % 256

/-- The checks of a sprue word that has an active lane (R305): the id, the assignment. -/
def State.sprueFault (s : State) (x : Issue) (sid acc : Nat) : Option Issued :=
  if 143 < sid then some .illegal
  else if SMap.find? sid (s.part (partOfVnum x.gang.vnum)).sprues ≠ some x.gang.vnum then
    some (.stop (x.halt (plainFault 0x10 0 acc 7) (maskOf x.act) s))
  else none

/-- A sprue word at issue: checked, bound, counted and outstanding (R305, R307). -/
def sprueWord (i : Instr) (f : L3) (u : Use) (post : Bool) (fill : Issue → Pend → Pend) (s : State) :
    Host.Outcome State Fault Refusal :=
  laneWord i (some f.msel.toNat) u
    (fun x s =>
      let sid := sprueId f
      let p := partOfVnum x.gang.vnum
      let b := Binder.gang x.g x.gang.place.wg
      if x.act.isEmpty then .done s
      else
        match s.sprueFault x sid (if post then 1 else 0) with
        | some r => r
        | none =>
          let s := s.freeProducer p sid
          let q := s.sprue p sid
          if boundToOther (if post then q.producer else q.consumer) b then .illegal
          else if x.gang.full .pl then .wait
          else
            let s := s.modSprue p sid fun q => if post then { q with producer := some b } else { q with consumer := some b }
            let (id, s) := s.newId
            .done (s.addPend x.g (fill x { x.pend u i .sprue (some .pl) id with pins := [] }))) s

/-- QPOST: the entries are formed as the word issues (R305). -/
def execQpost (f : L3) (s : State) : Host.Outcome State Fault Refusal :=
  sprueWord (.qpost f) f { srcs := [(f.a, 1), (f.b, 1)], gated := true } true
    (fun x p => { p with ops := SMap.putAll (x.act.flatMap fun l => [(2 * l, x.cell l f.a 0), (2 * l + 1, x.cell l f.b 0)]) [] }) s

/-- The masks that a take writes: J, and K if it is not 0 (R306). -/
def takeMasksOf (f : L3) : List Nat := if f.fn.toNat / 8 = 0 then [f.fn.toNat % 8] else [f.fn.toNat % 8, f.fn.toNat / 8]

/-- A take as it issues: the registers of every active lane and the masks are outstanding. -/
def takePend (f : L3) (x : Issue) (p : Pend) : Pend :=
  { p with results := x.act.flatMap fun l => x.result f.dst l (cells true 0 false),
           masks := (takeMasksOf f).map fun k => (k, 0, 0) }

def takeUse (f : L3) : Use := { dsts := [(f.dst, 2)], mwr := takeMasksOf f, gated := true }

/-- QTAKE (R306). -/
def execQtake (f : L3) (s : State) : Host.Outcome State Fault Refusal :=
  sprueWord (.qtake f) f (takeUse f) false (takePend f) s

/-- What a take delivers: the i-th entry to the i-th active lane, and the mask bits of the active lanes (R306). -/
def Pend.taken (p : Pend) (f : L3) (es : List (Word × Word × Bool × Bool)) : Pend :=
  let lanes := setBits p.lanes
  let got := lanes.zip es
  let val := fun (kc : Nat × Cell) (n : Nat) =>
    (got.find? fun g => decide (g.1 = kc.1 / 1024)).map fun g =>
      (kc.1, (⟨if n % 2 = 0 then g.2.1 else g.2.2.1, g.2.2.2.2, true⟩ : Cell))
  let m := maskOf (got.map Prod.fst)
  let marked := maskOf ((got.filter fun g => g.2.2.2.1).map Prod.fst)
  { p with results := p.results.zipIdx.filterMap fun kn => val kn.1 kn.2,
           masks := (takeMasksOf f).zipIdx.map fun ki => (ki.1, p.lanes, if ki.2 = 0 then m else marked) }

/-- No older sprue word of the gang is outstanding on the same sprue. -/
def Gang.firstOnSprue (G : Gang) (p : Pend) (sid : Nat) : Bool :=
  (G.pend.takeWhile fun x => decide (x.id ≠ p.id)).all fun x =>
    match x.word with
    | .qpost f | .qtake f => x.done || decide (sprueId f ≠ sid)
    | _ => true

/-- SPRUE_WORD_COMPLETE: a post whose room, or a take whose entries, are there; a query take that issued (R305-R307,
R420). -/
def execSprueWordComplete (g op : Nat) (s : State) : Host.Outcome State Fault Refusal :=
  .next (match s.gang? g, s.pend? g op with
    | some G, some p =>
      let part := partOfVnum G.vnum
      let b := Binder.gang g G.place.wg
      if p.kind ≠ .sprue || p.done || s.stopped part || !(decide (s.wgStage G = some .running) || decide (s.wgStage G = some .saving)) then s
      else match p.word with
        | .qpost f =>
          let q := s.sprue part (sprueId f)
          let lanes := setBits p.lanes
          if !G.firstOnSprue p (sprueId f) || decide (sprueSize < q.entries.length + lanes.length) then s
          else
            let cell := fun k => SMap.getD k ⟨0, false, true⟩ p.ops
            let es := lanes.zipIdx.map fun li =>
              ((cell (2 * li.1)).val, (cell (2 * li.1 + 1)).val, bit f.fn.toNat 0 && decide (li.2 + 1 = lanes.length),
                (cell (2 * li.1)).p || (cell (2 * li.1 + 1)).p)
            (s.postEntries part (sprueId f) b es).complete g p
        | .qtake f =>
          let q := s.sprue part (sprueId f)
          match takeCount (setBits p.lanes).length q.entries with
          | none => s
          | some t =>
            if !G.firstOnSprue p (sprueId f) then s
            else if boundToOther q.consumer b then
              s.halt part (s.laneAgent G p.runAddr p.widx) (plainFault 0x13 0 0 (laneWord.wordsNat (encode p.word) / 2 ^ 32)) p.lanes
            else
              let es := q.entries.take t
              let s := s.modSprue part (sprueId f) fun q =>
                { q with entries := q.entries.drop t, consumer := if anyMark es then none else some b }
              (s.freeProducer part (sprueId f)).complete g (p.taken f es)
        | .plnext _ => s.complete g p
        | _ => s
    | _, _ => s)

/-! ## Query handles (R416-R421) -/

def Gang.handle? (G : Gang) (h : Nat) : Option Handle := SMap.find? h G.eng.handles

def State.setHandle (s : State) (g h : Nat) (H : Handle) : State :=
  s.modGang g fun G => { G with eng := { G.eng with handles := SMap.put h H G.eng.handles } }

/-- PLQ: open a handle and start a chain on the cluster's posting-list engine (R418). -/
def execPlq (f : L3) (s : State) : Host.Outcome State Fault Refusal :=
  laneWord (.plq f) (some f.msel.toNat) { srcs := [(f.a, 2)], gated := true }
    (fun x s =>
      match x.act with
      | [] => .done s
      | l :: _ =>
        let h := f.aux.toNat % 4
        let a := (x.word l f.a true).1
        let k := clusterOf x.gang.place.core
        let e := engineOf k 2
        if (x.gang.handle? h).isSome then .illegal
        else if a % 64 ≠ 0 then .stop (x.halt (misaligned a 0 64) (2 ^ l) s)
        else if inWindow a then .stop (x.halt (protection a 0 5) (2 ^ l) s)
        else if s.engineFull e || x.gang.releaseWaits then .wait
        else
          let s := s.release x.gang 3
          let id := s.nextId
          let s := s.addChain e a x.gang.sp.seed
            ⟨some x.gang.vnum, some x.gang.place.wg, some x.gang.place.core, some x.g, h, some h, none,
              partOfVnum x.gang.vnum, k⟩
          .done (s.setHandle x.g h ⟨e, id, bit f.fn.toNat 0, [], [], false, none⟩)) s

/-- PLFUSE (R419). -/
def execPlfuse (f : L3) (s : State) : Host.Outcome State Fault Refusal :=
  laneWord (.plfuse f) (some f.msel.toNat) { srcs := [(f.a, 1), (f.b, 1)], gated := true }
    (fun x s =>
      let h := f.aux.toNat % 4
      if x.act.isEmpty then .done s
      else match x.gang.handle? h with
        | none => .illegal
        | some H =>
          if fusionSize < H.fusion.length + x.act.length then .wait
          else
            let es := x.act.zipIdx.map fun li =>
              ((x.cell li.1 f.a 0).val, (x.cell li.1 f.b 0).val, bit f.fn.toNat 0 && decide (li.2 + 1 = x.act.length),
                (x.cell li.1 f.a 0).p || (x.cell li.1 f.b 0).p)
            .done (s.setHandle x.g h { H with fusion := H.fusion ++ es })) s

/-- PLNEXT: the entries are taken once they are there, or once the chain has ended; what it delivers completes later
(R420). -/
def execPlnext (f : L3) (s : State) : Host.Outcome State Fault Refusal :=
  laneWord (.plnext f) (some f.msel.toNat) (takeUse f)
    (fun x s =>
      let h := f.aux.toNat % 4
      if x.act.isEmpty then .done s
      else match x.gang.handle? h with
        | none => .illegal
        | some H =>
          let n := match takeCount x.act.length H.output with
            | some t => some t
            | none => if H.status.isSome then some H.output.length else none
          match n with
          | none => .wait
          | some t =>
            let s := s.setHandle x.g h { H with output := H.output.drop t }
            let (id, s) := s.newId
            let p := takePend f x { x.pend (takeUse f) (.plnext f) .sprue none id with pins := [] }
            .done (s.addPend x.g (p.taken f (H.output.take t)))) s

/-- PLCLOSE: from its first try the chain's entries are discarded; it is done once the chain has ended (R421). -/
def execPlclose (f : L3) (s : State) : Host.Outcome State Fault Refusal :=
  laneWord (.plclose f) (some f.msel.toNat) { dsts := [(f.dst, 1)], gated := true }
    (fun x s =>
      let h := f.aux.toNat % 4
      if x.act.isEmpty then .done s
      else match x.gang.handle? h with
        | none => .illegal
        | some H =>
          let earlier := x.gang.pend.any fun p => match p.word with
            | .plnext n => decide (n.aux.toNat % 4 = h)
            | _ => false
          if earlier then .wait
          else match H.status with
            | none => if H.closing then .wait else .stop (s.setHandle x.g h { H with closing := true, output := [] })
            | some st =>
              let s := s.acquire x.gang 3
              let s := s.modGang x.g fun G => { G with eng := { G.eng with handles := SMap.erase h G.eng.handles } }
              .done (({ x with help := [] } : Issue).finish f.dst (fun _ => { vals := if f.dst.file = .special then [] else [⟨st, false, true⟩] }) s)) s

end Sys2Proof.Machine
end

