-- ==== Sys2Proof/Machine/Postings.lean ====
section
/-! DEFINITION. Posting-list engines: query blocks and descriptors, posting lists, matching, scoring, fusion, pruning, ranking
and output (R395-R415). A query advances by small events: one posting block, one document, one entry at a time. -/

namespace Sys2Proof.Machine

/-! ## The query block (R396, R397) -/

def queryWord (c : Chain) (n : Nat) : Nat := c.words.getD n 0
def omode (c : Chain) : Nat := bits (queryWord c 5) 63 62
def keepCount (c : Chain) : Nat := bits (queryWord c 5) 61 51 + 1
def timeBudget (c : Chain) : Nat := bits (queryWord c 5) 39 24
def descriptorAddr (c : Chain) : Nat := bits (queryWord c 4) 56 0
def outputAddr (c : Chain) : Nat := bits (queryWord c 6) 56 0

/-- The checks of a query block (R278, R396, R397). -/
def State.queryBad (s : State) (c : Chain) : Option Nat :=
  let ws := c.words
  let w := queryWord c
  let op := bits (w 0) 59 56
  let sid := chainSprue c
  let common := [badField (decide (1 < op)) 0 56, resvBit ws 0 47 46, resvBit ws 0 45 44, resvBit ws 4 63 57, resvBit ws 5 50 48,
    resvBit ws 5 23 0, resvBit ws 6 63 57, resvBit ws 7 63 0]
  if op = 0 then
    firstBad (common ++ [badField (decide (w 4 ≠ 0)) 4 0, badField (decide (omode c ≠ 0)) 5 62,
      badField (decide (keepCount c ≠ 1)) 5 51, badField (decide (sid ≠ 0)) 5 40, badField (decide (timeBudget c ≠ 0)) 5 24,
      badField (decide (w 6 ≠ 0)) 6 0])
  else
    let assigned := SMap.find? sid (s.part c.owner.part).sprues
    firstBad (common ++ [badField (decide (w 4 % 64 ≠ 0) || inWindow (descriptorAddr c)) 4 0,
      badField (decide (omode c = 3) || (decide (omode c = 1) && c.owner.query.isNone)) 5 62,
      badField (decide (1024 < keepCount c)) 5 51,
      badField (if omode c = 0 then decide (143 < sid) || assigned.isNone || decide (assigned ≠ c.owner.vnum) else decide (sid ≠ 0)) 5 40,
      badField (if omode c = 2 then decide (w 6 % 256 ≠ 0) || inWindow (outputAddr c) else decide (w 6 ≠ 0)) 6 0])

/-! ## The descriptor (R398-R400) -/

def qd (d : List Nat) (n : Nat) : Nat := d.getD n 0
def slotCount (d : List Nat) : Nat := bits (qd d 0) 4 0
def nodeCount (d : List Nat) : Nat := bits (qd d 0) 11 8
def fuseMode (d : List Nat) : Nat := bits (qd d 0) 17 16
def fuseJoin (d : List Nat) : Bool := bit (qd d 0) 18
def pruned (d : List Nat) : Bool := bit (qd d 0) 19
def termWord (d : List Nat) (t i : Nat) : Nat := qd d (8 + 4 * t + i)
def listAddr (d : List Nat) (t : Nat) : Nat := bits (termWord d t 0) 56 0
def skipAddr (d : List Nat) (t : Nat) : Nat := bits (termWord d t 1) 56 0
def termWeight (d : List Nat) (t : Nat) : Num := binary32.decode (bits (termWord d t 2) 63 32)
def blockCount (d : List Nat) (t : Nat) : Nat := bits (termWord d t 2) 31 0
def nodeOp (d : List Nat) (j : Nat) : Nat := bits (qd d (72 + 2 * j)) 33 32
def nodeKids (d : List Nat) (j : Nat) : List Nat := (List.range 15).filter fun i => bit (qd d (72 + 2 * j)) (16 + i)
def nodeSlots (d : List Nat) (j : Nat) : List Nat := (List.range 16).filter fun t => bit (qd d (72 + 2 * j)) t
def nodeThr (d : List Nat) (j : Nat) : Num := binary32.decode (bits (qd d (73 + 2 * j)) 31 0)
def alphaOf (d : List Nat) : Num := binary32.decode (bits (qd d 4) 31 0)
def vdefOf (d : List Nat) : Num := binary32.decode (bits (qd d 4) 63 32)
def vmaxOf (d : List Nat) : Num := binary32.decode (bits (qd d 5) 31 0)

/-- Negative or NaN (R400). -/
def badWeight (x : Num) : Bool := x.isNan || (x.sign && !x.isZero)

/-- The checks of a term slot (R397, R399, R400). -/
def slotBad (d : List Nat) (t : Nat) : Option Nat :=
  let n := 8 + 4 * t
  firstBad [resvBit d n 63 57, badField (decide (listAddr d t % 256 ≠ 0) || inWindow (listAddr d t)) n 0, resvBit d (n + 1) 63 57,
    badField (decide (skipAddr d t % 8 ≠ 0) || inWindow (skipAddr d t)) (n + 1) 0,
    badField (pruned d && badWeight (termWeight d t)) (n + 2) 32,
    badField (decide (blockCount d t = 0) || decide (2 ^ 24 < blockCount d t)) (n + 2) 0, resvBit d (n + 3) 63 0]

/-- The checks of a node (R400). -/
def nodeBad (d : List Nat) (j : Nat) : Option Nat :=
  let n := 72 + 2 * j
  firstBad [resvBit d n 63 34, badField (decide (nodeOp d j = 3)) n 32, resvBit d n 31 31,
    badField ((nodeKids d j).any fun i => decide (j ≤ i)) n 16, badField ((nodeSlots d j).any fun t => decide (slotCount d ≤ t)) n 0,
    badField ((nodeKids d j).isEmpty && (nodeSlots d j).isEmpty) n 0, resvBit d (n + 1) 63 32,
    badField (decide (nodeOp d j ≠ 2) && decide (bits (qd d (n + 1)) 31 0 ≠ 0)) (n + 1) 0]

/-- Every slot, and every node but the root, is named once (R400). -/
def treeBad (d : List Nat) : Option Nat :=
  let nodes := List.range (nodeCount d)
  let twice := fun (f : Nat → Bool) => decide ((nodes.filter f).length ≠ 1)
  firstBad (((List.range (slotCount d)).map fun t => badField (twice fun j => (nodeSlots d j).contains t) 72 t)
    ++ (List.range (nodeCount d - 1)).map fun i => badField (twice fun j => (nodeKids d j).contains i) 72 (16 + i))

/-- The checks of a descriptor; `handle`: the chain was started by PLQ (R397-R400). -/
def descriptorBad (d : List Nat) (handle : Bool) : Option Nat :=
  firstBad ([resvBit d 0 63 20, badField (decide (fuseMode d = 3) || (decide (fuseMode d = 2) && !handle)) 0 16, resvBit d 0 15 12,
      badField (decide (nodeCount d = 0)) 0 8, resvBit d 0 7 5, badField (decide (slotCount d = 0) || decide (16 < slotCount d)) 0 0,
      resvBit d 1 63 57, badField (inWindow (bits (qd d 1) 56 0)) 1 0, resvBit d 2 63 57,
      badField (decide (bits (qd d 2) 56 0 % 4096 ≠ 0) || inWindow (bits (qd d 2) 56 0)) 2 0, resvBit d 3 63 57,
      badField (if fuseMode d = 1 then decide (bits (qd d 3) 56 0 % 4 ≠ 0) || inWindow (bits (qd d 3) 56 0)
        else decide (bits (qd d 3) 56 0 ≠ 0)) 3 0,
      badField (pruned d && badWeight (vdefOf d)) 4 32, badField (pruned d && badWeight (alphaOf d)) 4 0, resvBit d 5 63 32,
      badField (pruned d && badWeight (vmaxOf d)) 5 0, resvBit d 6 63 0, resvBit d 7 63 0]
    ++ (List.range (slotCount d)).map (slotBad d) ++ (List.range (nodeCount d)).map (nodeBad d) ++ [treeBad d])

/-! ## Reading through the stream path (R411) -/

/-- Read bytes for a query; poison is noted (R407, R411). -/
def State.streamRead (s : State) (e : Nat) (c : Chain) (va n : Nat) : State × Except FaultInfo (List Byte × Bool) :=
  match s.pathReadMany (.stream (e - 216)) (e - 216) (c.owner.vnum.getD 0) 5 va n with
  | (s, .error f) => (s, .error f)
  | (s, .ok d) => (if d.bad then s.chainPoison e c (if d.unit ≠ 0 then d.unit else s.structAt d.pa) d.pa else s, .ok (d.bytes, d.bad))

/-- The command-block fault of a descriptor or posting block: VA names the line that holds the bad bit (R278, R402). -/
def State.badStructure (s : State) (e : Nat) (c : Chain) (base bit : Nat) : State :=
  let va := base + bit / 8
  s.malformed e c (va / 256 * 256) ((va % 256) * 8 + bit % 8)

/-! ## Posting blocks (R401, R402) -/

/-- The documents of a posting block with their frequencies. -/
def postings (bs : List Byte) : List (Nat × Nat) :=
  let at' := fun i => ((bs.getD i 0)).toNat
  let count := at' 8
  let dw := at' 9 % 32
  let fw := at' 10 % 32
  let pay := ofBytes (bs.drop 32)
  let docs := (List.range (count - 1)).foldl (fun (l : List Nat) i =>
    l ++ [l.getLastD 0 + pay / 2 ^ (dw * i) % 2 ^ dw + 1]) [ofBytes (bs.take 4)]
  docs.zipIdx.map fun di => (di.1, pay / 2 ^ (dw * (count - 1) + fw * di.2) % 2 ^ fw + 1)

/-- The checks of a posting block against its skip entry's LAST and the first id it may hold (R402). -/
def postingBad (bs : List Byte) (last lo : Nat) : Option Nat :=
  let ws := words64 (bs.take 32)
  let at' := fun i => ((bs.getD i 0)).toNat
  let lastDoc := ((postings bs).getLastD (0, 0)).1
  firstBad [badField (decide (at' 8 = 0) || decide (128 < at' 8)) 1 0, resvBit ws 1 15 13, resvBit ws 1 23 21,
    badField (decide (16 < at' 10 % 32)) 1 16, resvBit ws 1 63 24, resvBit ws 2 63 0, resvBit ws 3 63 0,
    badField (decide (1792 < (at' 8 - 1) * (at' 9 % 32) + at' 8 * (at' 10 % 32))) 1 8,
    badField (decide (lastDoc ≠ ofBytes ((bs.drop 4).take 4)) || decide (0xFFFFFFFE < lastDoc)) 0 32,
    badField (decide (ofBytes ((bs.drop 4).take 4) ≠ last)) 0 32, badField (decide (ofBytes (bs.take 4) < lo)) 0 0]

/-! ## Matching and scores (R403-R406) -/

/-- A rounded value with its causes. -/
structure Scored where
  v      : Num
  causes : Nat := 0

/-- Round to binary32 (R405, R409). -/
def Scored.of (mode : Nat) (r : Num × Bool) (old : Nat) : Scored :=
  let e := binary32.round mode false 0 r
  ⟨binary32.decode e.code, old ||| causeBits e.cond⟩

/-- A sum of slot scores in ascending order, each rounded (R405). -/
def sumScores (xs : List Num) (old : Nat) : Scored :=
  xs.foldl (fun a x => Scored.of 0 (Num.sum [a.v, x] false) a.causes) ⟨Num.zero, old⟩

/-- A node's answer for a document: whether it matches, the matching slots of its subtree whose path up to it matches, and
the causes raised (R404). `ts` gives the slots that match, with their scores. -/
structure NodeEval where
  ok     : Bool
  slots  : List Nat
  causes : Nat

/-- Evaluate a node; structural on the depth of the tree. -/
def evalNode (d : List Nat) (ts : List (Nat × Num)) : Nat → Nat → NodeEval
  | 0, _ => ⟨false, [], 0⟩
  | fuel + 1, j =>
    let own := (nodeSlots d j).map fun t => (ts.any fun x => decide (x.1 = t), [t])
    let kids := (nodeKids d j).map fun i => evalNode d ts fuel i
    let all := own ++ kids.map fun k => (k.ok, k.slots)
    let got := ((all.filter Prod.fst).flatMap Prod.snd).foldl (fun l t => insNat t l) []
    let causes := kids.foldl (fun c k => c ||| k.causes) 0
    match nodeOp d j with
    | 0 => ⟨all.all Prod.fst, got, causes⟩
    | 1 => ⟨all.any Prod.fst, got, causes⟩
    | _ =>
      let sum := sumScores (got.filterMap fun t => (ts.find? fun x => decide (x.1 = t)).map Prod.snd) causes
      let thr := nodeThr d j
      ⟨all.any Prod.fst && !sum.v.isNan && !thr.isNan && !sum.v.lt thr, got, sum.causes⟩

/-- Keep a document among the best `k`, equal scores in order of arrival (R407). -/
def insertRanked (k : Nat) (x : Nat × Nat) (h : List (Nat × Nat)) : List (Nat × Nat) :=
  (h.takeWhile (fun y => decide (rankKey 2 x.2 ≤ rankKey 2 y.2)) ++ [x]
    ++ h.dropWhile (fun y => decide (rankKey 2 x.2 ≤ rankKey 2 y.2))).take k

/-- The scores of the matching slots of a document (R403, R405): the norm byte and the table entries are read. -/
def State.slotScores (s : State) (e : Nat) (c : Chain) (d : List Nat) (nb : Nat) :
    List (Nat × Nat) → State × Except FaultInfo (List (Nat × Num) × Nat × Bool)
  | [] => (s, .ok ([], 0, false))
  | (t, f) :: rest =>
    match s.streamRead e c (bits (qd d 2) 56 0 + 4 * (32 * (min f 32 - 1) + nb)) 4 with
    | (s, .error x) => (s, .error x)
    | (s, .ok (bs, p)) =>
      match s.slotScores e c d nb rest with
      | (s, .error x) => (s, .error x)
      | (s, .ok (ts, cs, q)) =>
        let r := Scored.of 0 ((termWeight d t).mul (binary32.decode (ofBytes bs))) cs
        (s, .ok ((t, r.v) :: ts, r.causes, p || q))

/-! ## The time of a query (R414, R415) -/

/-- Clocks that a query's start occupies the engine. -/
def startClocks : Nat := 48

/-- A posting block is decoded: 4 clk for up to four of them at once (R414). -/
def Grant.block (g : Grant) : Grant := { g with ends := if g.blocks % 4 = 0 then g.ends + 4 else g.ends, blocks := g.blocks + 1 }

/-- A candidate is scored, or a fusion entry taken: eight for a clk (R414). -/
def Grant.cand (g : Grant) : Grant := { g with ends := if g.cands % 8 = 0 then g.ends + 1 else g.ends, cands := g.cands + 1 }

/-! ## The traversal (R401, R406, R407, R409) -/

/-- A cursor whose list is over. -/
def Cursor.ended (k : Cursor) (d : List Nat) (t : Nat) : Bool := decide (blockCount d t ≤ k.blk)

def Traversal.cursor (t : Traversal) (i : Nat) : Cursor := SMap.getD i ⟨0, 0, none, none⟩ t.cursors

def Traversal.setCursor (t : Traversal) (i : Nat) (k : Cursor) : Traversal := { t with cursors := SMap.put i k t.cursors }

/-- The slots whose lists are not over, ascending. -/
def Traversal.live (t : Traversal) : List Nat := (List.range (slotCount t.desc)).filter fun i => !(t.cursor i).ended t.desc i

/-- LAST and BMAX of the block a cursor stands at. -/
def Cursor.last (k : Cursor) : Nat := (k.skip.getD (0, 0)).1
def Cursor.bmax (k : Cursor) : Num := binary32.decode (k.skip.getD (0, 0)).2

/-- θ: the worst kept score once K are kept (R409). -/
def Traversal.theta (t : Traversal) (k : Nat) : Num :=
  if t.heap.length < k then .inf true else binary32.decode ((t.heap.getLastD (0, 0)).2)

/-- Slots whose current block's skip range holds the next id (R409). -/
def Traversal.inRange (t : Traversal) : List Nat :=
  t.live.filter fun i => decide ((t.cursor i).lo ≤ t.next) && decide (t.next ≤ (t.cursor i).last)

/-- B of the next id, with its causes (R409). -/
def Traversal.bound (t : Traversal) : Scored :=
  let bl := t.inRange.foldl (fun (a : Scored) i =>
    let m := Scored.of 3 ((termWeight t.desc i).mul (t.cursor i).bmax) a.causes
    Scored.of 3 (Num.sum [a.v, m.v] false) m.causes) ⟨Num.zero, 0⟩
  if fuseMode t.desc = 0 then bl
  else
    let vm := vmaxOf t.desc
    let vd := vdefOf t.desc
    Scored.of 3 (Num.dot [(alphaOf t.desc, bl.v)] [if vm.lt vd then vd else vm] false) bl.causes

/-- The lowest document not yet handled that a read block holds, up to a limit. -/
def Traversal.nextDoc (t : Traversal) (limit : Option Nat) : Option Nat :=
  let ds := t.live.filterMap fun i =>
    (((t.cursor i).docs.getD []).find? fun x => decide (t.next ≤ x.1) && limit.all fun e => decide (x.1 ≤ e)).map Prod.fst
  ds.foldl (fun (a : Option Nat) d => some (match a with
    | some b => min b d
    | none => d)) none

/-- Store a query's progress. -/
def State.setTrav (s : State) (e : Nat) (c : Chain) (t : Traversal) : State :=
  s.modChain e c.id fun c => { c with trav := some t, park := none }

/-- Add status bits and arithmetic causes to a chain. -/
def State.noteChain (s : State) (e : Nat) (c : Chain) (flags causes : Nat) : State :=
  s.modChain e c.id fun c => { c with flags := c.flags ||| flags, causes := c.causes ||| causes }

/-- The query waits until the fusion queue holds `n` entries or the last one (R406): the engine turns to another chain. -/
def State.needFusion (s : State) (e : Nat) (c : Chain) (t : Traversal) (n : Nat) : State :=
  s.setTrav e c { t with need := some n }

/-- Take the head of the fusion queue (R406). -/
def State.popFusion (s : State) (c : Chain) (H : Handle) : State :=
  match c.owner.gang, c.owner.query with
  | some g, some h => s.setHandle g h { H with fusion := H.fusion.drop 1 }
  | _, _ => s

/-- Drop the entry behind the head of the fusion queue: its id is not above the head's (R406). -/
def State.dropSecond (s : State) (c : Chain) (H : Handle) : State :=
  match c.owner.gang, c.owner.query with
  | some g, some h => s.setHandle g h { H with fusion := H.fusion.take 1 ++ H.fusion.drop 2 }
  | _, _ => s

/-- The status bits (R413). -/
def tbxBit : Nat := 2 ^ 27
def fordBit : Nat := 2 ^ 26
def nansBit : Nat := 2 ^ 25
def prunedBit : Nat := 2 ^ 24

/-- Score a document and keep it if it ranks (R404-R407): `f` is its fusion entry's score, and `fin` takes the entry, once no read has
faulted (R411). -/
def State.handleDoc (s : State) (e : Nat) (c : Chain) (t : Traversal) (d : Nat) (f : Option Nat) (fin : State → State) : State :=
  let D := t.desc
  let m := t.live.filterMap fun i =>
    (((t.cursor i).docs.getD []).find? fun x => decide (x.1 = d)).map fun x => (i, x.2)
  let norm := bits (qd D 1) 56 0
  match if m.isEmpty ∨ norm = 0 then (s, .ok ([0], false)) else s.streamRead e c (norm + d) 1 with
  | (s, .error x) => s.chainFault e c x
  | (s, .ok (nb, p0)) =>
    match s.slotScores e c D ((nb.getD 0 0).toNat / 8) m with
    | (s, .error x) => s.chainFault e c x
    | (s, .ok (ts, cs, p1)) =>
      let ev := if m.isEmpty then ⟨false, [], 0⟩ else evalNode D ts 16 (nodeCount D - 1)
      let ranks := if fuseMode D = 2 then (if fuseJoin D then ev.ok && f.isSome else ev.ok || f.isSome) else ev.ok
      let lex := if ev.ok then sumScores (ev.slots.filterMap fun i => (ts.find? fun x => decide (x.1 = i)).map Prod.snd) 0
        else ⟨Num.zero, 0⟩
      match if ranks && decide (fuseMode D = 1) then s.streamRead e c (bits (qd D 3) 56 0 + 4 * d) 4 else (s, .ok ([], false)) with
      | (s, .error x) => s.chainFault e c x
      | (s, .ok (vb, p2)) =>
        let s := (fin s).occupy e Grant.cand
        let v := if fuseMode D = 1 then binary32.decode (ofBytes vb)
          else (f.map binary32.decode).getD (vdefOf D)
        let sc := if fuseMode D = 0 then lex else Scored.of 0 (Num.dot [(alphaOf D, lex.v)] [v] false) lex.causes
        let t := { t with next := d + 1, need := none, bad := t.bad || p0 || p1 || p2 }
        let causes := cs ||| ev.causes ||| (if ranks then sc.causes else 0)
        if !ranks then (s.setTrav e c t).noteChain e c 0 causes
        else if sc.v.isNan then (s.setTrav e c t).noteChain e c nansBit causes
        else
          let code := (binary32.conv 0 false 0 sc.v).code
          (s.setTrav e c { t with heap := insertRanked (keepCount c) (d, code) t.heap }).noteChain e c 0 causes

/-- Go on without fusion input: the next document, the next region, or no more of them (R407, R409). -/
def State.advanceDoc (s : State) (e : Nat) (c : Chain) (t : Traversal) (dp limit : Option Nat) : State :=
  match dp, limit with
  | some d, _ => s.handleDoc e c t d none id
  | none, some l => s.setTrav e c { t with next := l + 1, need := none }
  | none, none => s.setTrav e c { t with done := true, need := none }

/-- The next step of a query with fusion input (R406): the head of the stream is dropped, ranked or awaited. -/
def State.fusionDoc (s : State) (e : Nat) (c : Chain) (t : Traversal) (H : Handle) (dp limit : Option Nat) : State :=
  match H.fusion with
  | [] => s.needFusion e c t 1
  | (id, sc, last, p) :: _ =>
    let x := id.toNat
    let pop := fun (t : Traversal) => { t with fdone := last, bad := t.bad || p, need := none }
    if x = 0xFFFFFFFF ∨ t.prev.any (fun y => decide (x ≤ y)) then
      (((s.popFusion c H).setTrav e c (pop t)).noteChain e c (fordBit ||| (if p then 2 ^ 28 else 0)) 0)
    else if x < t.next then
      (((s.popFusion c H).setTrav e c (pop { t with prev := some x })).noteChain e c (if p then 2 ^ 28 else 0) 0)
    else
      let passed := match dp, limit with
        | some d, _ => decide (d < x)
        | none, some l => decide (l < x)
        | none, none => false
      if passed then s.advanceDoc e c t dp limit
      else
        let ready := H.fusion.any fun y => y.2.2.1 || decide (x < y.1.toNat)
        if !ready then
          match H.fusion.drop 1 with
          | [] => s.needFusion e c t 2
          | y :: _ =>
            ((s.dropSecond c H).setTrav e c { t with bad := t.bad || y.2.2.2, need := none }).noteChain e c
              (fordBit ||| (if y.2.2.2 then 2 ^ 28 else 0)) 0
        else
          let take := fun (s : State) => (s.popFusion c H).noteChain e c (if p then 2 ^ 28 else 0) 0
          let t := pop { t with prev := some x }
          if dp = some x ∨ !fuseJoin t.desc then s.handleDoc e c t x (some sc.toNat) take
          else (take s).setTrav e c t

/-- Handle the next document in ascending order (R406, R407). -/
def State.stepDoc (s : State) (e : Nat) (c : Chain) (t : Traversal) (dp limit : Option Nat) : State :=
  if fuseMode t.desc ≠ 2 ∨ t.fdone then s.advanceDoc e c t dp limit
  else
    match s.handleOf c with
    | some H => s.fusionDoc e c t H dp limit
    | none => s.advanceDoc e c t dp limit

/-- Read and check the posting block that a cursor stands at (R401, R402); documents below the next id are passed over
(R409). -/
def State.readPosting (s : State) (e : Nat) (c : Chain) (t : Traversal) (i : Nat) : State :=
  let k := t.cursor i
  let va := listAddr t.desc i + 256 * k.blk
  match s.streamRead e c va 256 with
  | (s, .error f) => s.chainFault e c f
  | (s, .ok (bs, p)) =>
    match postingBad bs k.last k.lo with
    | some b => s.malformed e c va b
    | none =>
      let docs := postings bs
      ((s.occupy e Grant.block).setTrav e c { (t.setCursor i { k with docs := some docs }) with bad := t.bad || p }).noteChain e c
        (if docs.any fun x => decide (x.1 < t.next) then prunedBit else 0) 0

/-- Read the skip entry of the block a cursor stands at (R401). -/
def State.readSkip (s : State) (e : Nat) (c : Chain) (t : Traversal) (i : Nat) : State :=
  let k := t.cursor i
  match s.streamRead e c (skipAddr t.desc i + 8 * k.blk) 8 with
  | (s, .error f) => s.chainFault e c f
  | (s, .ok (bs, p)) =>
    let w := ofBytes bs
    s.setTrav e c { (t.setCursor i { k with skip := some (w % 2 ^ 32, w / 2 ^ 32) }) with bad := t.bad || p }

/-- Leave a block whose skip range is over; a query whose budget is over ends here, and after a posting block that has been read the engine
asks for its time anew (R410, R415, R445). -/
def State.leaveBlock (s : State) (e : Nat) (c : Chain) (t : Traversal) (i : Nat) : State :=
  let k := t.cursor i
  let t' := t.setCursor i ⟨k.blk + 1, k.last + 1, none, none⟩
  let s := (s.setTrav e c { t' with done := t.done || c.stopped }).noteChain e c
    ((if k.docs.isNone then prunedBit else 0) ||| (if c.stopped then tbxBit else 0)) 0
  s.modChain e c.id fun c => { c with
    prog := if k.docs.isSome then c.prog + 1 else c.prog, paid := c.paid && k.docs.isNone }

/-- The traversal is over: the remaining fusion entries are consumed, then the kept documents are emitted (R407, R408,
R410, R412). -/
def State.finishQuery (s : State) (e : Nat) (c : Chain) (t : Traversal) : State :=
  let wait := decide (fuseMode t.desc = 2) && !t.fdone
  match if wait then s.handleOf c else none with
  | some H =>
    match H.fusion with
    | [] => s.needFusion e c t 1
    | (id, _, last, p) :: _ =>
      let ford := decide (id = 0xFFFFFFFF) || t.prev.any fun y => decide (id.toNat ≤ y)
      ((s.popFusion c H).setTrav e c
          { t with fdone := last, bad := t.bad || p, need := none, prev := if ford then t.prev else some id.toNat }
        ).noteChain e c ((if ford then fordBit else 0) ||| (if p then 2 ^ 28 else 0)) 0
  | none =>
    let empty : Nat × Nat := (0xFFFFFFFF, 0xFF800000)
    let kept := if t.heap.isEmpty then [empty] else t.heap
    let n := kept.length
    let es := kept.zipIdx.map fun xi =>
      ((BitVec.ofNat 32 xi.1.1 : Word), (BitVec.ofNat 32 xi.1.2 : Word), decide (xi.2 + 1 = n), t.bad)
    let pad := if omode c = 2 then
        List.replicate (keepCount c - n) ((0xFFFFFFFF : Word), (0xFF800000 : Word), false, t.bad)
      else []
    (s.logCauses e c 0x03).modChain e c.id fun c => { c with stage := .emitting, out := es ++ pad, sent := 0, park := none, paid := false }

/-- An unread block that a cursor stands at holds a document: what it holds is passed over, and what a read of it would meet has no
effect (R409). None: its page gives no bytes, so that nothing says what it holds. -/
def State.holdsUnread (s : State) (e : Nat) (c : Chain) (t : Traversal) (d i : Nat) : Option Bool :=
  let k := t.cursor i
  if k.docs.isSome || decide (d < k.lo) || decide (k.last < d) then some false
  else match (s.streamRead e c (listAddr t.desc i + 256 * k.blk) 256).2 with
    | .ok (bs, _) => some ((postings bs).any fun x => decide (x.1 = d))
    | .error _ => none

/-- Whether a document of a region that is passed over is a candidate in a block of it: in one that has been read, or in an unread one;
free where only blocks without bytes could hold it (R409). -/
def State.passedOver (s : State) (e : Nat) (c : Chain) (t : Traversal) (limit : Option Nat) (d : Nat) : State × Bool :=
  if d < t.next || limit.any fun l => decide (l < d) then (s, false)
  else
    let read := t.live.any fun i => ((t.cursor i).docs.getD []).any fun x => decide (x.1 = d)
    let unread := t.live.map (s.holdsUnread e c t d)
    if read || unread.contains (some true) then (s, true)
    else if unread.contains none then ({ s with fresh := s.fresh + 1 }, Config.heldUnread s.fresh)
    else (s, false)

/-- A region that is passed over: its documents are not scored; fusion entries of other documents still rank (R406,
R409). -/
def State.stepOver (s : State) (e : Nat) (c : Chain) (t : Traversal) (limit here : Option Nat) : State :=
  let s := if here.isSome then s.noteChain e c prunedBit 0 else s
  let H := s.handleOf c
  match H.bind fun H => H.fusion.head? with
  | some x =>
    let (s, held) := if fuseMode t.desc = 2 ∧ !t.fdone then s.passedOver e c t limit x.1.toNat else (s, false)
    if fuseMode t.desc = 2 ∧ !t.fdone ∧ held ∧ x.1 ≠ 0xFFFFFFFF ∧ !t.prev.any (fun y => decide (x.1.toNat ≤ y)) then
      match H with
      | some H => ((s.popFusion c H).setTrav e c
          { t with fdone := x.2.2.1, bad := t.bad || x.2.2.2, need := none, prev := some x.1.toNat }).noteChain e c
          (prunedBit ||| (if x.2.2.2 then 2 ^ 28 else 0)) 0
      | none => s
    else s.stepDoc e c t none limit
  | none => s.stepDoc e c t none limit

/-- One event of a query's traversal. -/
def State.stepQuery (s : State) (e : Nat) (c : Chain) (t : Traversal) : State :=
  let D := t.desc
  if t.done then s.finishQuery e c t
  else if c.expired then (s.setTrav e c { t with done := true, need := none }).noteChain e c tbxBit 0
  else
    match t.live.find? fun i => (t.cursor i).skip.isNone with
    | some i => s.readSkip e c t i
    | none =>
      let unread := fun i => (t.cursor i).docs.isNone
      if !pruned D then
        match t.live.find? unread with
        | some i => s.readPosting e c t i
        | none =>
          match t.live.find? fun i => decide ((t.cursor i).last < t.next) with
          | some i => s.leaveBlock e c t i
          | none => s.stepDoc e c t (t.nextDoc none) none
      else
        match t.live.find? fun i => decide ((t.cursor i).last < t.next) with
        | some i => s.leaveBlock e c t i
        | none =>
          let limit := (t.live.map fun i => (t.cursor i).last).foldl (fun (a : Option Nat) d => some (match a with
            | some b => min b d
            | none => d)) none
          let b := t.bound
          let past := !t.live.isEmpty && !b.v.isNan && !(t.theta (keepCount c)).lt b.v
          let s := s.noteChain e c 0 b.causes
          if past then
            let here := t.nextDoc limit
            s.stepOver e c t limit here
          else
            match t.inRange.find? unread with
            | some i => s.readPosting e c t i
            | none => s.stepDoc e c t (t.nextDoc limit) limit

/-- Accept a query block: check it, read and check its descriptor (R396-R400); its time budget runs from here, also where the read of the
descriptor parks (R410). -/
def State.queryAccept (s : State) (e : Nat) (c : Chain) : State :=
  match s.queryBad c with
  | some b => s.malformed e c c.block b
  | none =>
    if bits (queryWord c 0) 59 56 = 0 then s.modChain e c.id fun c => Chain.performed { c with park := none }
    else
      let begun := if c.park.isNone then s.now else c.accept
      let s := s.modChain e c.id fun c => { c with accept := begun }
      match s.streamRead e c (descriptorAddr c) 816 with
      | (s, .error f) => s.chainFault e c f
      | (s, .ok (bs, p)) =>
        let d := words64 bs
        match descriptorBad d c.owner.query.isSome with
        | some b => s.badStructure e c (descriptorAddr c) b
        | none =>
          let t : Traversal := ⟨d, 0, [], [], none, false, none, false, p⟩
          s.modChain e c.id fun c =>
            { c with stage := .working, prog := 0, stopped := false, park := none, trav := some t, paid := false }

/-- A step of a query block (R395): its acceptance, or the next event of its traversal. -/
def queryStep (op e : Nat) (s : State) : Host.Outcome State Fault Refusal :=
  .next (s.onChain e fun c s =>
    let o := bits (queryWord c 0) 59 56
    if engKind e ≠ 2 then s
    else match c.stage with
      | .perform => if op = o ∨ (op = 0 ∧ 1 < o) then s.queryAccept e c else s
      | .working =>
        match c.trav with
        | some t =>
          if op ≠ 1 then s
          else if c.paid then s.stepQuery e c t
          else
            match s.beginPiece e c (if t.cursors.isEmpty then startClocks else 0) with
            | (s, true) => s.stepQuery e c t
            | (s, false) => s
        | none => s
      | _ => s)

/-- PLE_NOP; a block whose OP is none of the table's is found malformed here (R278, R396). -/
def execPleNop (e : Nat) (s : State) : Host.Outcome State Fault Refusal := queryStep 0 e s
/-- QUERY (R395-R409). -/
def execQuery (e : Nat) (s : State) : Host.Outcome State Fault Refusal := queryStep 1 e s

/-- PLE_TIME_BUDGET_EXPIRY: the traversal ends after its current posting block (R410). -/
def execPleTimeBudgetExpiry (e : Nat) (s : State) : Host.Outcome State Fault Refusal :=
  .next (s.modEngine e fun E => { E with chains := E.chains.map fun c =>
    let budget := (s.handleOf c).any fun h => h.budget
    if c.stage = .working ∧ budget ∧ timeBudget c ≠ 0 ∧ c.accept + 1024 * timeBudget c ≤ s.now ∧ !s.stopped c.owner.part
    then { c with stopped := true } else c })

/-! ## Output (R408) -/

/-- An entry is out; the engine's time is asked for anew (R414, R445). -/
def State.entrySent (s : State) (e : Nat) (c : Chain) : State :=
  s.modChain e c.id fun c => { c with out := c.out.drop 1, sent := c.sent + 1, park := none, paid := false }

/-- What a chain has written at a home reaches its cluster's stream cache, so that its later blocks see it, the poison too (R234, R279). -/
def State.seenByStream (s : State) (k pa : Nat) (bs : List Byte) (p : Bool) : State :=
  let off := pa % 256
  s.modCluster k fun K => { K with stream := K.stream.map fun x =>
    if x.pa = pa / 256 * 256 then
      { x with bytes := x.bytes.take off ++ bs ++ x.bytes.drop (off + bs.length),
               bad := if p then x.bad ||| maskOf ((List.range 4).filter fun i => decide (off / 64 ≤ i) && decide (i ≤ (off + bs.length - 1) / 64))
                 else x.bad }
    else x }

/-- Put the next entry out to the sprue, the direct output or memory (R408). -/
def State.emitEntry (s : State) (e : Nat) (c : Chain) (x : Word × Word × Bool × Bool) : State :=
  match omode c with
  | 0 => (s.postEntries c.owner.part (chainSprue c) (.chain e c.id) [x]).entrySent e c
  | 1 =>
    match c.owner.gang, c.owner.query, s.handleOf c with
    | some g, some h, some H => (if H.closing then s else s.setHandle g h { H with output := H.output ++ [x] }).entrySent e c
    | _, _, _ => s.entrySent e c
  | _ =>
    match s.chainXlat e c .write false (outputAddr c + 8 * c.sent) with
    | (s, .error f) => s.chainFault e c f
    | (s, .ok y) =>
      let bs := toBytes 4 x.1.toNat ++ toBytes 4 x.2.1.toNat
      ((s.homeWrite (chainReq e c) y.pa bs x.2.2.2).seenByStream (e - 216) y.pa bs x.2.2.2).entrySent e c

/-- PLE_EMIT_ENTRY: the next entry goes out, which takes the engine one clk; after the last the block is done. A sprue that another
has bound is found before anything is posted (R305, R408, R414). -/
def execPleEmitEntry (e : Nat) (s : State) : Host.Outcome State Fault Refusal :=
  .next (s.onChain e fun c s =>
    if c.stage ≠ .emitting ∨ engKind e ≠ 2 then s
    else match c.out with
      | [] => s.modChain e c.id Chain.performed
      | x :: _ =>
        let s := if omode c = 0 then s.freeProducer c.owner.part (chainSprue c) else s
        if omode c = 0 && boundToOther (s.sprue c.owner.part (chainSprue c)).producer (.chain e c.id) then s.malformed e c c.block 360
        else if c.paid then s.emitEntry e c x
        else
          match s.beginPiece e c 1 with
          | (s, true) => s.emitEntry e c x
          | (s, false) => s)

end Sys2Proof.Machine
end

