-- ==== Sys2Proof/Machine/Runners.lean ====
section
/-! DEFINITION. UALink and the Runners: export windows and inbound requests, group tables, and the operations of a block,
chunk by chunk (R458-R465). -/

namespace Sys2Proof.Machine

/-! ## Export windows and inbound requests (R453, R459) -/

/-- The virtual address of an offset of an export window, where the window and its rights allow it (R459). -/
def State.windowVa (s : State) (v w off : Nat) (rd wr : Bool) : Option Nat :=
  let V := s.vdev v
  let ctl := (SMap.getD w 0 V.wctl).toNat
  if v < 96 ∧ (s.entry v).en = true ∧ off < bits ctl 47 16 * 65536 ∧ (!rd || bit ctl 63) = true ∧ (!wr || bit ctl 62) = true
  then some (SMap.getD w 0 V.wbase + off) else none

/-- What an inbound request moves: its bytes, and what it needs. -/
def peerSize : PeerOp → Nat
  | .read n => n
  | .write bs => bs.foldl (fun m x => max m (x.1 + 1)) 0
  | .add _ => 8
  | .getLine | .putLine .. => 256

def peerAcc : PeerOp → Acc
  | .read _ | .getLine => .read
  | .write _ | .putLine .. => .write
  | .add _ => .rmw

/-- The alignment that a request needs: the word of an add, the line of a line's transfer. -/
def peerAlign : PeerOp → Nat
  | .add _ => 8
  | .getLine | .putLine .. => 256
  | _ => 1

/-- Translate the lines of an inbound request at the partition's cluster 0 (R459): at most two. -/
def State.inboundXlat (s : State) (v va n : Nat) (acc : Acc) : State × Except FaultInfo (Nat × Nat) :=
  let k := 9 * partOfVnum v
  match s.translate k v acc false va with
  | (s, .error f) => (s, .error f)
  | (s, .ok x) =>
    if va / 256 = (va + n - 1) / 256 then (s, .ok (x.pa, x.pa / 256 * 256 + 256))
    else
      match s.translate k v acc false ((va / 256 + 1) * 256) with
      | (s, .error f) => (s, .error f)
      | (s, .ok y) => (s, .ok (x.pa, y.pa))

/-- The whole of a line with its scale bytes and tag. -/
def wholeLine (l : PathLine) : LineOut := ⟨l.bytes, (List.range 17).map fun j => (j, l.scales.getD j 0), l.bad, some l.scBad⟩

/-- Write bytes of one line at its home, by their offsets from an address: a sector that the write covers is written as one (R234). -/
def State.homeMasked (s : State) (r : Req) (pa : Nat) (bs : List (Nat × Byte)) : State :=
  if bs.isEmpty then s
  else
    let s := s.reachWrite r pa bs.length
    let l := if isHost pa then s.takeLost hostLink else (s, false)
    if l.2 then l.1.dropStore r pa
    else
      ((List.range 4).foldl (fun s i =>
        let sec := pa / 256 * 256 + 64 * i
        let here := bs.filter fun x => decide ((pa + x.1) / 64 * 64 = sec)
        let m := here.foldl (fun m x => Memory.setByte m (pa + x.1 - sec) x.2) []
        if (List.range 64).all fun j => here.any fun x => decide (pa + x.1 = sec + j) then s.writePa sec (Memory.read m 0 64) false
        else here.foldl (fun s x => s.writePa (pa + x.1) [x.2] false) s) l.1).writeThrough r pa bs.length

/-- What a packet of a line weighs on a link, in beats: its data, and one beat more for a tagged line's scale bytes and tag (R462). -/
def lineBeats (l : PathLine) : Nat := if l.scales.getD 16 0 = 0 then 4 else 5

/-- A packet between a crossbar and a peer, over the port by which the peer is reached; direction 0 leaves the device (R442, R458). -/
def State.peerPacket (s : State) (r : Req) (acc dir n : Nat) : State :=
  let port := Config.uaPort acc % 16
  let s := s.chargeLink port dir r.holder n
  if dir = 0 then s.chargeRing r.holder r.sector (linkSector port) n else s.chargeRing r.holder (linkSector port) r.sector n

/-- The poison of a line that a peer reads is counted (R392, R394). -/
def State.foundLine (s : State) (p : Nat) (l : PathLine) : State :=
  let s := (List.range 4).foldl (fun s i => s.foundBad p (l.pa + 64 * i) (bit l.bad i)) s
  if l.scBad then { s with found := s.found ++ [(p, 11, l.pa)] } else s

/-- Perform an inbound request at the home slice, at system scope (R459): at the physical addresses of its lines, the first of which
holds `here` of its bytes. Its response is charged to the target. -/
def State.inboundPerform (s : State) (q : PeerRequest) (v va : Nat) (pas : Nat × Nat) : State :=
  let n := peerSize q.op
  let here := min n (256 - va % 256)
  let port := Config.uaPort q.acc % 16
  let r := Req.chiplet (some v) (partOfVnum v) (port / 8)
  let answer := fun (s : State) (k : Nat) (o : Out) => (s.chargeLink port 0 r.holder k).emit o
  match q.op with
  | .read _ =>
    let a := s.homeRead r pas.1 here true
    let b := if here < n then a.1.homeRead r pas.2 (n - here) true else (a.1, [], false)
    answer (b.1.foundBad r.part pas.1 (a.2.2 || b.2.2)) (beats n) (.peerData q.acc (a.2.1 ++ b.2.1) (a.2.2 || b.2.2))
  | .write bs =>
    let s := s.homeMasked r pas.1 (bs.filter fun x => decide (x.1 < here))
    answer (s.homeMasked r pas.2 ((bs.filter fun x => decide (here ≤ x.1)).map fun x => (x.1 - here, x.2))) 1 (.peerDone q.acc)
  | .add x =>
    let a := s.semUpdate r pas.1 true x.toNat
    answer (a.1.foundBad r.part pas.1 a.2) 1 (.peerDone q.acc)
  | .getLine =>
    let a := s.homeLine r pas.1 true
    answer (a.1.foundLine r.part a.2) (lineBeats a.2) (.peerLine q.acc a.2.bytes a.2.scales a.2.bad a.2.scBad)
  | .putLine bytes scales bad scBad => answer (s.putHomeLine r pas.1 (wholeLine ⟨pas.1, bytes, scales, bad, scBad⟩)) 1 (.peerDone q.acc)

/-- Serve an inbound request: an error response, charged to the target as any response, a park, or its access (R459). `old` is the number of a request that is
being replayed. -/
def State.inboundServe (s : State) (r : PeerRequest) (old : Option (Nat × Park)) : State :=
  let v := bits r.addr 54 48
  let w := bits r.addr 47 44
  let off := bits r.addr 43 0
  let n := peerSize r.op
  let rd := decide (peerAcc r.op ≠ .write)
  let wr := decide (peerAcc r.op ≠ .read)
  let clear := fun (s : State) => match old with
    | some (id, _) => { s with inbound := SMap.erase id s.inbound }
    | none => s
  let ok := decide (n ≤ 256) && decide (0 < n) && decide (off % peerAlign r.op = 0)
  let error := fun (s : State) =>
    (if v < 96 then s.chargeLink (Config.uaPort r.acc % 16) 0 v 1 else s).emit (.peerError r.acc)
  match if ok then s.windowVa v w off rd wr else none with
  | none => error (clear s)
  | some va =>
    match s.inboundXlat v va n (peerAcc r.op) with
    | (s, .ok pas) => (clear s).inboundPerform r v va pas
    | (s, .error f) =>
      if f.cause = 0x10 then error (clear s)
      else if f.halts then (clear s).halt (partOfVnum v) { Agent.none with asid := v } f 0
      else
        let f := { f with detail := f.detail + 2 ^ 63 + r.acc % 1024 * 2 ^ 16 }
        let (id, s) := match old with
          | some (id, _) => (id, s)
          | none => s.newId
        let park := Park.mk' 0 [(f, 0)] (old.map Prod.snd)
        ({ s with inbound := SMap.put id ⟨r, partOfVnum v, park⟩ s.inbound }).queueGroup (partOfVnum v) (.inbound id)

/-- UALINK_INBOUND_REQUEST (R459); the ports are trained only in a full start (R476). -/
def execUalinkInboundRequest (r : PeerRequest) (s : State) : Host.Outcome State Fault Refusal :=
  .next (if s.pkg.power = .running then s.inboundServe r none else s)

/-! ## The body of a Runner block (R461, R462) -/

structure RunnerBody where
  op   : Nat
  src  : Nat
  dst  : Nat
  sf   : Nat
  df   : Nat
  mode : Nat
  rnd  : Nat
  nl   : Nat
  peer : Nat
  grp  : Nat

def runnerBody (ws : List Nat) : RunnerBody :=
  let w := fun i => ws.getD i 0
  { op := bits (w 0) 59 56, src := bits (w 4) 56 0, dst := bits (w 5) 56 0, sf := bits (w 6) 63 40, df := bits (w 6) 39 16,
    mode := bits (w 6) 15 14, rnd := bits (w 6) 11 9, nl := bits (w 7) 63 44 + 1, peer := bits (w 7) 43 34, grp := bits (w 7) 33 30 }

def RunnerBody.sFmt (b : RunnerBody) : Fmt := Fmt.ofEntry b.sf
def RunnerBody.dFmt (b : RunnerBody) : Fmt := Fmt.ofEntry b.df

/-- Source lines of a chunk (R463), and the chunks of a block. -/
def chunkLines : Nat := 64
def RunnerBody.chunks (b : RunnerBody) : Nat := if b.op = 4 then 1 else (b.nl + chunkLines - 1) / chunkLines

/-- A format that REDUCE takes (R462). -/
def reduceFmt (F : Fmt) : Bool := wideFmt F || F.b

/-- The spaces of an operation (R462). -/
def runnerSpaces (op : Nat) : Nat × Nat := match op with
  | 0 => (0, 0)
  | 1 | 4 => (0, 1)
  | _ => (1, 0)

/-- The checks of a Runner block's body (R278, R461, R462). -/
def runnerBad (ws : List Nat) : Option Nat :=
  let w := fun i => ws.getD i 0
  let b := runnerBody ws
  let S := b.sFmt
  let D := b.dFmt
  let sp := runnerSpaces b.op
  let common := [badField (decide (4 < b.op)) 0 56, badField (decide (bits (w 0) 47 46 ≠ sp.1)) 0 46,
    badField (decide (bits (w 0) 45 44 ≠ sp.2)) 0 44, resvBit ws 4 63 57, resvBit ws 5 63 57]
  let rest := [resvBit ws 6 13 12, resvBit ws 6 8 0, resvBit ws 7 29 0]
  match b.op with
  | 0 => firstBad (common ++ [resvBit ws 4 63 0, resvBit ws 5 63 0, resvBit ws 6 63 0, resvBit ws 7 63 0])
  | 3 =>
    firstBad (common ++ [badField (decide (b.src % 256 ≠ 0)) 4 0, badField (decide (b.dst % 256 ≠ 0)) 5 0,
      badField (!reduceFmt S) 6 40, badField (!reduceFmt D) 6 16, badField (decide (1 < b.mode)) 6 14, badField (decide (5 < b.rnd)) 6 9]
      ++ rest ++ [badField (decide (b.nl * S.perLine % D.perLine ≠ 0)) 7 44, badField (decide (b.peer ≠ 0)) 7 34])
  | op =>
    firstBad (common ++ [
      badField (if op = 4 then decide (b.src ≠ 0) else decide (b.src % 256 ≠ 0)) 4 0,
      badField (if op = 4 then decide (b.dst % 8 ≠ 0) else decide (b.dst % 256 ≠ 0)) 5 0,
      badField (decide (b.sf ≠ 0)) 6 40, badField (decide (b.df ≠ 0)) 6 16, badField (decide (b.mode ≠ 0)) 6 14,
      badField (decide (b.rnd ≠ 0)) 6 9] ++ rest
      ++ [badField (decide (op = 4) && decide (b.nl ≠ 1)) 7 44, badField (decide (op = 4) && decide (bits (w 0) 50 49 ≠ 0)) 0 49])

/-! ## Group tables (R460) -/

/-- The entries of a group table: rank `r`'s words from the table's address. -/
def State.groupEntries (s : State) (e : Nat) (c : Chain) (base : Nat) : Nat → Nat → State × Except FaultInfo (List Nat)
  | 0, _ => (s, .ok [])
  | n + 1, r =>
    match s.chainRead e c (base + 64 + 8 * r) 8 with
    | (s, .error f) => (s, .error f)
    | (s, .ok (bs, _)) =>
      match s.groupEntries e c base n (r + 1) with
      | (s, .error f) => (s, .error f)
      | (s, .ok xs) => (s, .ok (ofBytes bs :: xs))

/-- The bad bit of a table: a reserved bit, or SELF at or beyond NR (R460). -/
def groupBad (head : List Nat) (ranks : List Nat) : Option Nat :=
  let w0 := head.getD 0 0
  firstBad ([resvBit head 0 63 26, resvBit head 0 15 10, badField (decide (ranks.length ≤ bits w0 25 16)) 0 16]
    ++ (List.range 7).map (fun i => resvBit head (i + 1) 63 0)
    ++ ranks.zipIdx.map fun er => (resvBit [er.1] 0 63 21).map fun b => 512 + 64 * er.2 + b)

/-! ## Lines, at home and at peers (R459, R462, R463) -/

/-- A zero line. -/
def noLine : PathLine := ⟨0, [], [], 0, false⟩

/-- The fields of a rank's entry: the accelerator, the virtual device there, its window (R460). -/
def rankAcc (x : Nat) : Nat := bits x 9 0
def rankVn (x : Nat) : Nat := bits x 16 10
def rankWin (x : Nat) : Nat := bits x 20 17

/-- Key of a peer's window. -/
def peerKey (x : Nat) : Nat := rankAcc x * 2048 + rankVn x * 16 + rankWin x

/-- What a peer request answers: done, an error response, or a fault of this device's own window. -/
inductive PeerAnswer (α : Type) where
  | ok (a : α)
  | fail
  | fault (f : FaultInfo)

/-- This device's own window as a rank reaches it (R459, R460). -/
def State.ownWindow (s : State) (x off : Nat) (acc : Acc) : State × PeerAnswer Nat :=
  match s.windowVa (rankVn x) (rankWin x) off (decide (acc ≠ .write)) (decide (acc ≠ .read)) with
  | none => (s, .fail)
  | some va =>
    match s.translate (9 * partOfVnum (rankVn x)) (rankVn x) acc false va with
    | (s, .ok y) => (s, .ok y.pa)
    | (s, .error f) => (s, if f.cause = 0x10 then .fail else .fault f)

/-- The window of a peer that answers, where it holds the offset and gives the right; none in minimal mode (R476). -/
def State.peerWindow (s : State) (x off : Nat) (acc : Acc) : Option PeerWin :=
  if s.pkg.power = .minimal then none
  else (SMap.find? (peerKey x) s.peers).filter fun P =>
    decide (off < P.len) && (decide (acc = .write) || P.rd) && (decide (acc = .read) || P.wr)

/-- Read a line of a rank's window, for a chain that makes the request. -/
def State.rankRead (s : State) (r : Req) (x off : Nat) : State × PeerAnswer PathLine :=
  if rankAcc x = s.pkg.accId then
    match s.ownWindow x off .read with
    | (s, .ok pa) =>
      let a := s.homeLine r pa true
      (a.1, .ok a.2)
    | (s, .fail) => (s, .fail)
    | (s, .fault f) => (s, .fault f)
  else
    let s := s.peerPacket r (rankAcc x) 0 1
    match s.peerWindow x off .read with
    | none => (s, .fail)
    | some P =>
      let l : PathLine := ⟨0, Memory.read P.mem off 256, Memory.read P.side (off / 8) 17,
        sectorMask fun i => P.bad.contains (off / 64 + i), P.badSc.contains (off / 256)⟩
      (s.peerPacket r (rankAcc x) 1 (lineBeats l), .ok l)

/-- Put a line into a peer's window. -/
def PeerWin.putLine (P : PeerWin) (off : Nat) (o : LineOut) : PeerWin :=
  let side := o.scales.foldl (fun m jb => Memory.setByte m (off / 8 + jb.1) jb.2) P.side
  let bad := (List.range 4).foldl (fun l i => if bit o.bad i then insNat (off / 64 + i) l else l.erase (off / 64 + i)) P.bad
  { P with mem := Memory.write P.mem off o.bytes, side := side, bad := bad,
           badSc := if o.scBad = some true then insNat (off / 256) P.badSc else P.badSc.erase (off / 256) }

/-- Write a line of a rank's window. -/
def State.rankWrite (s : State) (r : Req) (x off : Nat) (o : LineOut) : State × PeerAnswer Unit :=
  if rankAcc x = s.pkg.accId then
    match s.ownWindow x off .write with
    | (s, .ok pa) => (s.putHomeLine r pa o, .ok ())
    | (s, .fail) => (s, .fail)
    | (s, .fault f) => (s, .fault f)
  else
    let n := if (o.scales.find? fun jb => decide (jb.1 = 16)).any fun jb => decide (jb.2 ≠ 0) then 5 else 4
    let s := s.peerPacket r (rankAcc x) 0 n
    match s.peerWindow x off .write with
    | none => (s, .fail)
    | some P => (({ s with peers := SMap.put (peerKey x) (P.putLine off o) s.peers } : State).peerPacket r (rankAcc x) 1 1, .ok ())

/-- Add to an 8-byte word of a rank's window (R462). -/
def State.rankAdd (s : State) (r : Req) (x off v : Nat) : State × PeerAnswer Unit :=
  if rankAcc x = s.pkg.accId then
    match s.ownWindow x off .rmw with
    | (s, .ok pa) =>
      let a := s.semUpdate r pa true v
      (a.1.foundBad r.part pa a.2, .ok ())
    | (s, .fail) => (s, .fail)
    | (s, .fault f) => (s, .fault f)
  else
    let s := s.peerPacket r (rankAcc x) 0 1
    match s.peerWindow x off .rmw with
    | none => (s, .fail)
    | some P =>
      let w := (ofBytes (Memory.read P.mem off 8) + v) % 2 ^ 64
      (({ s with peers := SMap.put (peerKey x) { P with mem := Memory.write P.mem off (toBytes 8 w) } s.peers } : State).peerPacket r
        (rankAcc x) 1 1, .ok ())

/-- The physical line of a virtual address, where it is mapped. -/
def State.lineOf (s : State) (k asid va : Nat) : Option Nat :=
  match (s.translate k asid .read false va).2 with
  | .ok x => some (x.pa / 256)
  | .error _ => none

/-- A reduction's destination overlaps the source range that one of its ranks exports of this device (R287, R462). -/
def State.reduceOverlaps (s : State) (e : Nat) (c : Chain) : Bool :=
  let b := runnerBody c.words
  let dst := (List.range (b.nl * b.sFmt.perLine / b.dFmt.perLine)).filterMap fun k =>
    s.lineOf (chainCluster e c) (c.owner.vnum.getD 0) (b.dst + 256 * k)
  c.ranks.any fun x => decide (rankAcc x = s.pkg.accId) && (List.range b.nl).any fun k =>
    ((s.windowVa (rankVn x) (rankWin x) (b.src + 256 * k) true false).bind
      (s.lineOf (9 * partOfVnum (rankVn x)) (rankVn x))).any dst.contains

/-- Accept a Runner block: check it, read and check its group's table (R460, R462). -/
def State.runnerAccept (s : State) (e : Nat) (c : Chain) : State :=
  let b := runnerBody c.words
  match runnerBad c.words with
  | some d => s.malformed e c c.block d
  | none =>
    if b.op = 0 then s.modChain e c.id fun c => Chain.performed { c with park := none }
    else
      let base := (s.vdev (c.owner.vnum.getD 0)).gtBase + 65536 * b.grp
      match s.chainRead e c base 64 with
      | (s, .error f) => s.chainFault e c f
      | (s, .ok (hs, _)) =>
        let head := words64 hs
        match s.groupEntries e c base (bits (head.getD 0 0) 9 0 + 1) 0 with
        | (s, .error f) => s.chainFault e c f
        | (s, .ok ranks) =>
          match groupBad head ranks with
          | some d => s.malformed e c base d
          | none =>
            if b.op ≠ 3 ∧ ranks.length ≤ b.peer then s.malformed e c c.block (64 * 7 + 34)
            else
              let s := s.modChain e c.id fun c => { c with ranks := ranks }
              let overlap := decide (b.op = 3) && s.reduceOverlaps e { c with ranks := ranks }
              s.modChain e c.id fun c => { c with stage := .working, prog := 0, sent := 0, accept := s.now, park := none,
                                                  failed := none, undef := overlap }

/-! ## Chunks (R463-R465) -/

/-- How a chunk ends: transferred with the causes raised, failed at a rank, or stopped by a fault. -/
inductive ChunkEnd where
  | done (causes : Nat)
  | failed (rank : Nat)
  | fault (f : FaultInfo)

/-- Take an answer of rank `r`. -/
def onAnswer {α : Type} (sa : State × PeerAnswer α) (r : Nat) (f : State → α → State × ChunkEnd) : State × ChunkEnd :=
  match sa with
  | (s, .ok a) => f s a
  | (s, .fail) => (s, .failed r)
  | (s, .fault x) => (s, .fault x)

/-- Undefined bytes for a line of a failing chunk (R465). -/
def failedLine (fresh k : Nat) : LineOut := ⟨(List.range 256).map fun i => Config.undefByte fresh (256 * k + i), [], 0, none⟩

/-- Note the poison of a line that a Runner has read: at home, or marked by the peer that sent it (R284, R392, R464). -/
def State.runnerPoison (s : State) (e : Nat) (c : Chain) (own : Bool) (l : PathLine) (data scale : Bool) : State :=
  if !(data || scale) then s
  else s.chainPoison e c (if !own then 10 else if data then s.lineStruct l else 11) l.pa

/-- PUT: the lines of a chunk, one after another. -/
def State.putLines (s : State) (e : Nat) (c : Chain) (b : RunnerBody) (x : Nat) : List Nat → State × ChunkEnd
  | [] => (s, .done 0)
  | k :: t =>
    match s.chainXlat e c .read false (b.src + 256 * k) with
    | (s, .error f) => (s, .fault f)
    | (s, .ok y) =>
      let (s, l) := s.homeLine (chainReq e c) y.pa true
      let s := s.runnerPoison e c true l (decide (l.bad ≠ 0)) l.scBad
      onAnswer (s.rankWrite (chainReq e c) x (b.dst + 256 * k) (wholeLine l)) b.peer fun s _ => s.putLines e c b x t

/-- GET: the lines of a chunk, one after another. -/
def State.getLines (s : State) (e : Nat) (c : Chain) (b : RunnerBody) (x : Nat) : List Nat → State × ChunkEnd
  | [] => (s, .done 0)
  | k :: t =>
    onAnswer (s.rankRead (chainReq e c) x (b.src + 256 * k)) b.peer fun s l =>
      match s.chainXlat e c .write false (b.dst + 256 * k) with
      | (s, .error f) => (s, .fault f)
      | (s, .ok y) =>
        let s := s.runnerPoison e c (decide (rankAcc x = s.pkg.accId)) l (decide (l.bad ≠ 0)) l.scBad
        (s.putHomeLine (chainReq e c) y.pa (wholeLine l)).getLines e c b x t

/-- Read some source lines of every rank: by rank, the lines (R464). -/
def State.rankLines (s : State) (r : Req) (b : RunnerBody) (lines : List Nat) :
    List (Nat × Nat) → State × PeerAnswer (List (List PathLine)) × Nat
  | [] => (s, .ok [], 0)
  | (x, rank) :: t =>
    let rec' := lines.foldl (fun (a : State × PeerAnswer (List PathLine)) k =>
      match a with
      | (s, .ok ls) =>
        (match s.rankRead r x (b.src + 256 * k) with
         | (s, .ok l) => (s, .ok (ls ++ [l]))
         | (s, .fail) => (s, .fail)
         | (s, .fault f) => (s, .fault f))
      | a => a) (s, .ok [])
    match rec' with
    | (s, .fail) => (s, .fail, rank)
    | (s, .fault f) => (s, .fault f, rank)
    | (s, .ok ls) =>
      match s.rankLines r b lines t with
      | (s, .ok rs, n) => (s, .ok (ls :: rs), n)
      | a => a

/-- A rank's element as binary32, with its causes (R100, R464). -/
def rankElem (S : Fmt) (l : PathLine) (j : Nat) : Num × Nat :=
  let e := binary32.conv 0 false 0 (lineValue S l j)
  (binary32.decode e.code, e.inv.toNat + 2 * e.ov.toNat)

/-- The value of an element over its ranks: summed exactly and rounded once, or step by step (R464). -/
def reduceValue (mode : Nat) (xs : List Num) : Num × Nat :=
  if mode = 0 then
    let v := (xs.foldl Exact.add Exact.zero).value
    let e := binary32.round 0 false 0 v
    (binary32.decode e.code, causeBits e.cond)
  else
    match xs with
    | [] => (Num.zero, 0)
    | x :: t =>
      let r := t.foldl (fun (a : Num × Nat) y =>
        let e := binary32.round 0 false 0 (Num.sum [a.1, y] false)
        (binary32.decode e.code, a.2 ||| causeBits e.cond)) (x, 0)
      r

/-- The order of the ranks of a per-step reduction (R9, R464): by rank, or as they arrive with determinism off. -/
def State.rankOrder (s : State) (c : Chain) (b : RunnerBody) : List Nat × Bool :=
  let n := c.ranks.length
  let free := decide (b.mode = 1) && (c.owner.vnum.any fun v => !(s.entry v).det)
  if free then
    let o := (Config.arrival s.fresh).foldl (fun l r => if r < n ∧ !l.contains r then l ++ [r] else l) []
    (o ++ (List.range n).filter (fun r => !o.contains r), true)
  else (List.range n, false)

/-- Destination line `k` of a REDUCE (R464). -/
def State.reduceLine (s : State) (e : Nat) (c : Chain) (b : RunnerBody) (order : List Nat) (k : Nat) : State × ChunkEnd :=
  let S := b.sFmt
  let D := b.dFmt
  let d := D.perLine
  let n := S.perLine
  let first := k * d / n
  let lines := (List.range (((k + 1) * d - 1) / n + 1 - first)).map fun i => first + i
  match s.rankLines (chainReq e c) b lines (order.map fun r => (c.ranks.getD r 0, r)) with
  | (s, .fail, r) => (s, .failed r)
  | (s, .fault f, _) => (s, .fault f)
  | (s, .ok rs, _) =>
    let at' := fun (m : Nat) (ls : List PathLine) =>
      let j := k * d + m
      (ls.getD (j / n - first) noLine, j % n)
    let els := (List.range d).map fun m =>
      let xs := rs.map fun ls => rankElem S (at' m ls).1 (at' m ls).2
      let y := reduceValue b.mode (xs.map Prod.fst)
      (y.1, xs.foldl (fun a x => a ||| x.2) y.2)
    let met := rs.map fun ls => ls.zipIdx.map fun lx =>
      let of := (List.range d).filter fun m => decide ((k * d + m) / n - first = lx.2)
      (lx.1, of.any fun m => lineBad S lx.1 (at' m ls).2, S.b && lx.1.scBad && !of.isEmpty)
    let bad := met.any fun ls => ls.any fun x => x.2.1 || x.2.2
    let r := encodeLine D b.rnd (fun m => blockRb c k m) (fun _ => none) (els.map Prod.fst)
    let causes := els.foldl (fun a x => a ||| x.2) (causeBits (r.1.foldl (fun x el => x.or el.cond) {}))
    match s.chainXlat e c .write false (b.dst + 256 * k) with
    | (s, .error f) => (s, .fault f)
    | (s, .ok y) =>
      let s := (order.zip met).foldl (fun s rx => rx.2.foldl (fun s x =>
        s.runnerPoison e c (decide (rankAcc (c.ranks.getD rx.1 0) = s.pkg.accId)) x.1 x.2.1 x.2.2) s) s
      let o := convOut D r.1 r.2 bad
      let o := if c.undef then undefLine s.fresh o else o
      let s := if c.undef then { s with fresh := s.fresh + 1 } else s
      (s.putHomeLine (chainReq e c) y.pa o, .done causes)

/-- The destination lines of a chunk of a REDUCE, one after another. -/
def State.reduceLines (s : State) (e : Nat) (c : Chain) (b : RunnerBody) (order : List Nat) : List Nat → Nat → State × ChunkEnd
  | [], causes => (s, .done causes)
  | k :: t, causes =>
    match s.reduceLine e c b order k with
    | (s, .done x) => s.reduceLines e c b order t (causes ||| x)
    | r => r

/-- Destination lines of chunk `q`. -/
def RunnerBody.chunkDst (b : RunnerBody) (q : Nat) : List Nat :=
  let per := fun x => if b.op = 3 then x * b.sFmt.perLine / b.dFmt.perLine else x
  let lo := per (min b.nl (chunkLines * q))
  (List.range (per (min b.nl (chunkLines * (q + 1))) - lo)).map fun i => lo + i

/-- Set status bits of a chain. -/
def State.noteChainBits (s : State) (e : Nat) (c : Chain) (flags : Nat) : State :=
  s.modChain e c.id fun c => { c with flags := c.flags ||| flags }

/-- Transfer chunk `q` of a block. -/
def State.runChunk (s : State) (e : Nat) (c : Chain) (b : RunnerBody) (q : Nat) : State × ChunkEnd :=
  match b.op with
  | 1 => s.putLines e c b (c.ranks.getD b.peer 0) (b.chunkDst q)
  | 2 => s.getLines e c b (c.ranks.getD b.peer 0) (b.chunkDst q)
  | 3 =>
    let o := s.rankOrder c b
    let s := if o.2 then { s.noteChainBits e c (2 ^ 26) with fresh := s.fresh + 1 } else s
    s.reduceLines e c b o.1 (b.chunkDst q) 0
  | _ => onAnswer (s.rankAdd (chainReq e c) (c.ranks.getD b.peer 0) b.dst (bits (c.words.getD 0 0) 43 32)) b.peer fun s _ => (s, .done 0)

/-- The word that a failed NOTIFY was to add to is undefined (R465). -/
def State.failedWord (s : State) (r : Req) (x off : Nat) : State :=
  let bs := (List.range 8).map (Config.undefByte s.fresh)
  if rankAcc x = s.pkg.accId then
    match s.ownWindow x off .rmw with
    | (s, .ok pa) => s.homeWrite r pa bs false
    | (s, _) => s
  else match s.peerWindow x off .rmw with
    | none => s
    | some P => { s with peers := SMap.put (peerKey x) { P with mem := Memory.write P.mem off bs } s.peers }

/-- A peer request has failed: the chunk's destination is undefined, the failure is counted, and the chain is to end after
the chunk (R465). -/
def State.chunkFailed (s : State) (e : Nat) (c : Chain) (rank : Nat) : State :=
  let b := runnerBody c.words
  let x := c.ranks.getD b.peer 0
  let s := (b.chunkDst c.prog).foldl (fun s k =>
    let o := failedLine s.fresh k
    match b.op with
    | 1 => (s.rankWrite (chainReq e c) x (b.dst + 256 * k) o).1
    | 4 => s.failedWord (chainReq e c) x b.dst
    | _ => match s.chainXlat e c .write false (b.dst + 256 * k) with
      | (s, .ok y) => s.putHomeLine (chainReq e c) y.pa o
      | (s, .error _) => s) s
  let s := ({ s with fresh := s.fresh + 1 } : State).count c.owner.part (0x008 + 16 * 10)
  let flags := if bit c.flags 27 then c.flags else c.flags ||| 2 ^ 27 ||| rank % 1024 * 2 ^ 16
  s.modChain e c.id fun c => { c with sent := c.prog + 1, failed := some rank, park := none, flags := flags }

/-- A step of a Runner's block: its acceptance, or the transfer of its next chunk (R463). -/
def runnerStep (op e : Nat) (s : State) : Host.Outcome State Fault Refusal :=
  .next (s.onChain e fun c s =>
    let b := runnerBody c.words
    if engKind e ≠ 3 then s
    else match c.stage with
      | .perform => if op = b.op ∨ (op = 0 ∧ 4 < b.op) then s.runnerAccept e c else s
      | .working =>
        if op ≠ b.op ∨ c.sent ≠ c.prog then s
        else match s.runChunk e c b c.prog with
          | (s, .fault f) => s.chainFault e c f
          | (s, .failed r) => s.chunkFailed e c r
          | (s, .done causes) => s.modChain e c.id fun c => { c with sent := c.sent + 1, causes := c.causes ||| causes, park := none }
      | _ => s)

/-- NOP; a block whose OP is none of the table's is found malformed here (R278, R462). -/
def execRunnerNop (e : Nat) (s : State) : Host.Outcome State Fault Refusal := runnerStep 0 e s
/-- PUT (R462). -/
def execPut (e : Nat) (s : State) : Host.Outcome State Fault Refusal := runnerStep 1 e s
/-- GET (R462). -/
def execGet (e : Nat) (s : State) : Host.Outcome State Fault Refusal := runnerStep 2 e s
/-- REDUCE (R464). -/
def execReduce (e : Nat) (s : State) : Host.Outcome State Fault Refusal := runnerStep 3 e s
/-- NOTIFY (R462, R463). -/
def execNotify (e : Nat) (s : State) : Host.Outcome State Fault Refusal := runnerStep 4 e s

/-- A chain's bucket is empty at one of the arbiters that its chunks pass: the ports by which its ranks are reached, and the ring stop
of its Runner (R465, R476). -/
def State.runnerShort (s : State) (e : Nat) (c : Chain) : Bool :=
  let b := runnerBody c.words
  let ranks := (if b.op = 3 then c.ranks else [c.ranks.getD b.peer 0]).filter fun x => decide (rankAcc x ≠ s.pkg.accId)
  let stop := 6000 + 2 * (chainReq e c).sector
  let arbs := [stop, stop + 1] ++ ranks.flatMap fun x => [7000 + 2 * (Config.uaPort (rankAcc x) % 16), 7001 + 2 * (Config.uaPort (rankAcc x) % 16)]
  arbs.any fun a => !s.affords ⟨a, c.holder, 1⟩

/-- RUNNER_CHUNK_DONE: a transferred chunk counts as done; after the last the block is done; after a failed one the chain
ends (R463, R465). -/
def execRunnerChunkDone (e : Nat) (s : State) : Host.Outcome State Fault Refusal :=
  .next (s.onChain e fun c s =>
    if engKind e ≠ 3 ∨ c.stage ≠ .working ∨ c.sent ≤ c.prog then s
    else if c.failed.isSome then (s.logCauses e c 0x04).modChain e c.id fun c => { c with stage := .ending }
    else if c.prog + 1 < (runnerBody c.words).chunks then
      let s := s.modChain e c.id fun c => { c with prog := c.prog + 1, accept := s.now }
      if s.runnerShort e c then
        match s.turnsTo e c with
        | some x => s.turnTo e x.id
        | none => s
      else s
    else (s.logCauses e c 0x04).modChain e c.id fun c => Chain.performed { c with prog := c.sent })

/-- A rank of a chunk whose request fails from outside: the PEER, or any rank of a reduction (R465). -/
def State.failingRank (s : State) (c : Chain) : Nat :=
  let b := runnerBody c.words
  if b.op = 3 then Config.failedRank s.fresh % max c.ranks.length 1 else b.peer

/-- A request of the chunk in progress fails. -/
def State.peerFails (s : State) (e : Nat) (c : Chain) : State :=
  if engKind e ≠ 3 ∨ c.stage ≠ .working ∨ c.sent ≠ c.prog then s
  else ({ s with fresh := s.fresh + 1 }).chunkFailed e c (s.failingRank c)

/-- PEER_REQUEST_TIMEOUT: no response within 2^20 clk (R465). -/
def execPeerRequestTimeout (e : Nat) (s : State) : Host.Outcome State Fault Refusal :=
  .next (s.onChain e fun c s => if c.accept + 2 ^ 20 ≤ s.now then s.peerFails e c else s)

/-- PEER_ERROR_RESPONSE (R465). -/
def execPeerErrorResponse (e : Nat) (s : State) : Host.Outcome State Fault Refusal :=
  .next (s.onChain e fun c s => s.peerFails e c)

end Sys2Proof.Machine
end

