-- ==== Sys2Proof/Machine/SpecialRegs.lean ====
section
/-! DEFINITION. GETSR and SETSR of every special register (R10, R11, R53, R54, R86-R91, R123, R170, R197, R313, R368, R439,
R451). -/

namespace Sys2Proof.Machine

/-! ## Values -/

/-- %gang (R11, R340). -/
def State.gangWordOf (s : State) (G : Gang) : Nat :=
  let n := (s.wg? G.place.wg).elim 1 fun W => W.gangs.length
  G.place.role * 2 ^ 30 + G.place.side * 2 ^ 29 + G.place.qtr * 2 ^ 27 + (n - 1) % 64 * 2 ^ 16 + G.place.gidx % 64

/-- %cohort (R10, R340). -/
def State.cohortOf (s : State) (G : Gang) : Nat :=
  let wg := (s.gangIds G).2
  match s.grid? G.grid, s.wg? G.place.wg with
  | some D, some W => if W.child.isSome || decide (D.coh = 0) then wg else wg / D.coh
  | _, _ => wg

/-- %vdev (R439). -/
def State.vdevWord (s : State) (v : Nat) : Nat :=
  (s.entry v).det.toNat * 2 ^ 15 + v % 8 * 2 ^ 12 + v / 8 * 2 ^ 8 + v

/-- %clk of a core (R170). -/
def State.clkOf (s : State) (core : Nat) : Nat := (s.now - (s.core core).clkBase) % 2 ^ 64

/-- %ctr (R313). -/
def Gang.ctr (G : Gang) : Nat :=
  G.count .pl * 2 ^ 30 + G.count .gx * 2 ^ 24 + G.count .tl * 2 ^ 18 + G.count .cp * 2 ^ 12 + G.count .st * 2 ^ 6 + G.count .ld

/-- %gmode (R54). -/
def Gang.gmode (G : Gang) : Nat := G.sp.win.toNat * 2 + G.sp.lutrap.toNat

/-- The arbiter whose bucket %bktN reads (R451); index 1 has none. -/
def bktArb (G : Gang) (n : Nat) : Nat :=
  let k := clusterOf G.place.core
  match n with
  | 0 => 4 * G.place.core + G.place.qtr
  | 2 => 4000 + partOfVnum G.vnum
  | 3 => 5000 + k
  | 4 => 2000 + 2 * k
  | 5 => 3000 + k
  | _ => 7000 + 2 * 20

/-- Lines that a virtual device holds in the eight slices of a partition (R451). -/
def State.linesHeld (s : State) (p v : Nat) : Nat :=
  let mine := (List.range 8).map fun j => s.physSlice (p / 2) (8 * (p % 2) + j)
  s.slices.foldl (fun n kv => if mine.contains (kv.1 / 1024) then n + heldLines (some v) kv.2 else n) 0

/-- %bkt0-%bkt6 (R451). -/
def State.bktOf (s : State) (G : Gang) (n : Nat) : Nat :=
  if n = 1 then
    s.linesHeld (partOfVnum G.vnum) G.vnum % 2 ^ 20 * 2 ^ 32 + s.quota (partOfVnum G.vnum) (some G.vnum) * 2 ^ 16
      + bits (s.rate G.vnum 1) 35 32
  else
    let b := s.bucket (bktArb G n) G.vnum
    b.level / 2 ^ 20 % 2 ^ 20 * 2 ^ 32 + b.refill / 2 ^ 20 % 2 ^ 16 * 2 ^ 16 + min b.last 4095 * 2 ^ 4 + b.burst

/-- The value of a special register at issue (R53). -/
def State.special (s : State) (G : Gang) (n : Nat) : Nat :=
  match n with
  | 0x002 => s.gangWordOf G
  | 0x003 => (s.gangIds G).2
  | 0x004 => s.cohortOf G
  | 0x005 => (s.gangIds G).1
  | 0x006 => s.vdevWord G.vnum
  | 0x007 => 0
  | 0x008 => s.clkOf G.place.core
  | 0x009 => G.sp.seed.toNat
  | 0x00A => G.sp.lsbase.toNat
  | 0x00B => G.sp.fmtbase.toNat
  | 0x00C => G.ctr
  | 0x00D => G.gmode
  | _ => if n < 0x040 then s.bktOf G (n - 0x020) else (SMap.getD (n - 0x040) 0 G.sp.fmt).toNat

/-- A special register is 64 bits wide (R53). -/
def specialWide (n : Nat) : Bool := (WF.special n).any fun x => x.1

/-- GETSR: a read of %pcm waits for parked words and then gives 0 (R197, R368). -/
def execGetsr (d : BitVec 7) (n : BitVec 12) (s : State) : Host.Outcome State Fault Refusal :=
  scalarWord (.getsr d n) { swr := if specialWide n.toNat then pairOf d.toNat else [d.toNat] }
    (fun g G s =>
      if n.toNat = 0x007 ∧ G.parkedWord then .wait
      else
        let v := s.special G n.toNat
        let G' := if specialWide n.toNat then G.setPair d.toNat (BitVec.ofNat 64 v) else G.setS d.toNat (BitVec.ofNat 32 v)
        .done (s.putGang g G'.next)) s

/-! ## Writes -/

/-- Read a format image through the constant path and write the table (R90). `bad` is the answer when a word fails
R89. -/
def State.loadFormats (s : State) (g : Nat) (G : Gang) (va : Nat) (bad : State → State) : Issued :=
  match s.pathReadMany (.const G.place.core) (clusterOf G.place.core) G.vnum 2 va 128 with
  | (s, .error f) => .stop (s.scalarFault g G f)
  | (s, .ok d) =>
    let s := s.metData (partOfVnum G.vnum) d (s.scalarAgent G 1 G.pc)
    let ws := (List.range 16).map fun i => (i, ofBytes ((d.bytes.drop (8 * i)).take 8))
    if ws.all fun w => entryOk w.2 then
      .done (s.modGang g fun G => { G with sp := { G.sp with
        fmt := ws.map fun w => (w.1, BitVec.ofNat 64 w.2), fmtbase := BitVec.ofNat 64 va } })
    else .stop (bad s)

/-- SETSR (R42, R54, R89-R91, R123, R197). -/
def execSetsr (a : BitVec 7) (n : BitVec 12) (s : State) : Host.Outcome State Fault Refusal :=
  scalarWord (.setsr a n) { gated := decide (n.toNat = 0x00B) }
    (fun g G s =>
      let illegal := s.illegalScalar G ((encode (.setsr a n)).headD 0).toNat
      let v := G.spair a.toNat
      let set := fun (f : Specials → Specials) => Issued.done (s.putGang g { G.next with sp := f G.sp })
      match n.toNat with
      | 0x009 => if !G.runsIssued then .wait else set fun p => { p with seed := v }
      | 0x00A => if v.toNat % 16 ≠ 0 then .stop illegal else set fun p => { p with lsbase := v }
      | 0x00B =>
        if !G.runsIssued then .wait
        else if v.toNat % 64 ≠ 0 then .stop illegal
        else if s.comesAfter G G.pend [(v.toNat, 128)] then .wait
        else
          match s.loadFormats g G v.toNat (fun t => t.illegalScalar G ((encode (.setsr a n)).headD 0).toNat) with
          | .done t => .done (t.modGang g Gang.next)
          | r => r
      | 0x00D =>
        let w := (G.sreg a.toNat).toNat
        let win := bit w 1
        if !G.runsIssued then .wait
        else if 4 ≤ w ∨ (win = true ∧ s.regsOf G < 16) ∨ (win = false ∧ G.sp.win = true ∧ G.sp.wb ≠ 0) then .stop illegal
        else set fun p => if win && !p.win then { p with win := true, lutrap := bit w 0, wb := 0, low := 0 }
          else { p with win := win, lutrap := bit w 0 }
      | k =>
        if !G.runsIssued then .wait
        else if entryOk v.toNat then set fun p => { p with fmt := SMap.put (k - 0x040) v p.fmt }
        else .stop illegal) s

/-- The launch record's format image: the gang begins as if its first word were a SETSR of %fmtbase (R87). -/
def State.formatImage (s : State) (g : Nat) (G : Gang) : State :=
  match s.loadFormats g G G.sp.fmtbase.toNat (fun t => t.haltScalar G (plainFault 0x13 0 0 0)) with
  | .done t => t.modGang g fun G => { G with wait := .none, park := none }
  | .stop t => t
  | .wait | .illegal => s

/-- A scalar turn of a gang whose format image is not loaded yet: while its workgroup runs and its partition is not
halted, it loads the image. -/
def State.birthImage (s : State) (g : Nat) (G : Gang) : State :=
  if decide (s.wgStage G = some .running) && !s.stopped (partOfVnum G.vnum) then s.formatImage g G else s

end Sys2Proof.Machine
end

