-- ==== Sys2Proof/Machine/Halts.lean ====
section
/-! DEFINITION. The fault record queue as groups enter it, and the halt of a partition: how each engine stops and what it
records (R369, R379-R384). -/

namespace Sys2Proof.Machine

/-! ## Groups of fault records (R369) -/

/-- The Gaffer has consumed some of the outstanding records: how many is free (R369). -/
def State.gafferConsumes (s : State) (p : Nat) : State :=
  let P := s.part p
  let out := P.fqProd - P.fqCons
  let s := s.modPart p fun P => { P with fqCons := P.fqCons + Config.consumed s.fresh % (out + 1) }
  { s with fresh := s.fresh + 1 }

/-- FAULT_RECORD_GROUP_WRITE: records that have waited for any room at all are written first; then the oldest waiting group of a
partition, once the queue has room for it and the reserve (R369, R373). -/
def execFaultRecordGroupWrite (p : Nat) (s : State) : Host.Outcome State Fault Refusal :=
  .next (
    let s := if (s.part p).backlog.isEmpty then s else (s.gafferConsumes p).drainBacklog p (s.part p).backlog.length
    if s.stopped p then s
    else
      match (s.part p).groups with
      | [] => s
      | a :: rest =>
        match s.parkOf a with
        | none => s.modPart p fun P => { P with groups := rest }
        | some k =>
          let s := s.gafferConsumes p
          let P := s.part p
          let fs := pageGroups k.faults
          if !P.backlog.isEmpty || decide (queueSize < P.fqProd - P.fqCons + fs.length + queueReserve) then s
          else
            let s := s.modPart p fun P => { P with groups := rest }
            let r := s.writeGroup p (s.parkedAgent a) k.recs fs []
            r.1.setPark a (some { k with written := true, recs := r.2 ++ k.recs }))

/-! ## Engines stop (R380-R384) -/

/-- What a stop record says of its engine (R384). -/
structure StopInfo where
  type  : Nat
  skid  : Nat
  abnd  : Nat
  pos   : Nat
  prog  : Nat
  owner : Nat
  clk   : Nat

/-- The number of an engine in its cluster or die, as the records give it (R370). -/
def engField (e : Nat) : Nat := if e < 216 then e % 2 else if e < 324 then 0 else (e - 324) % 4

/-- The owner field of an engine without a current chain: CORE 0x1FF, and the engine's number (R384). -/
def noOwner (e : Nat) : Nat := 0x1FF * 2 ^ 23 + engField e * 2 ^ 8

/-- The gangs in a core's slots: those whose workgroup is resident. -/
def State.residents (s : State) (core : Nat) : List Gang :=
  (SMap.vals s.gangs).filter fun G => decide (G.place.core = core) && decide (s.wgStage G ≠ some .saved)

/-- The lane pipes of a core: the gang slots with a run in progress, and the words not issued (R384). -/
def State.stopLanes (s : State) (core : Nat) : StopInfo :=
  let gs := s.residents core
  { type := 1, skid := Config.skid s.fresh % 65, prog := 0, owner := core * 2 ^ 23, clk := s.clkOf core,
    abnd := gs.foldl (fun n G => n + (G.runs.map fun r => r.len - r.next).sum) 0,
    pos := maskOf ((gs.filter fun G => (G.runs.head?).any fun r => decide (0 < r.next)).map fun G => G.place.slot) }

/-- K-steps of an operation (R254). -/
def MatOp.steps (o : MatOp) : Nat :=
  match o.contribs with
  | c :: _ => if (Fmt.ofEntry c.fa).b then 64 else 128
  | [] => 64

/-- The matrix array of a twin: the operation in progress and the K-steps it has done (R384). -/
def State.stopMatrix (s : State) (twin : Nat) : StopInfo :=
  let ops := SMap.getD twin [] s.twins
  let done := fun (o : MatOp) => s.now - o.started.getD s.now
  let run := (ops.find? fun o => o.started.isSome && decide (done o < o.steps)) <|> ops.find? fun o => o.started.isSome
  let number := fun (o : MatOp) => match o.contribs with
    | c :: _ => match (s.pend? c.gang c.pend).map Pend.kind with
      | some (.matrix k) => k
      | _ => 0
    | [] => 0
  { type := 2, skid := Config.skid s.fresh % 65, abnd := ops.length, pos := run.elim 0 number,
    prog := run.elim 0 fun o => min o.steps (done o), owner := 2 * twin * 2 ^ 23, clk := s.now }

/-- The chain of a partition that an engine performs. -/
def State.currentOf (s : State) (p e : Nat) : Option Chain :=
  let own := (s.engine e).chains.filter fun c => decide (c.owner.part = p)
  match own.find? fun c => decide ((s.engine e).cur = some c.id) with
  | some c => some c
  | none => if engKind e = 3 then own.head? else none

/-- The owner field of a chain's engine (R370, R384). -/
def State.ownerField (s : State) (e : Nat) (c : Chain) : Nat :=
  let a := s.chainAgent e { c with stage := .fetch }
  a.core * 2 ^ 23 + a.slot * 2 ^ 17 + a.gidx * 2 ^ 11 + a.eng * 2 ^ 8 + a.hnd % 256

/-- What a chain has done of its block: a Runner's chunk counts once it is transferred (R384, R463). -/
def chainProg (e : Nat) (c : Chain) : Nat := if engKind e = 3 ∧ c.stage = .working then c.sent else c.prog

/-- What an engine abandons of its current chain: its block or query, or the chunks of a Runner's block that are left, as far as the block
has been read; nothing of a chain that is over (R384). -/
def chainAbandoned (e : Nat) (c : Chain) : Nat :=
  if c.stage = .ending then 0
  else if engKind e = 3 then
    let n := if c.words.isEmpty then 0 else (runnerBody c.words).chunks
    match c.stage with
    | .working => n - c.sent
    | .signal => 0
    | _ => n
  else 1

/-- An engine that performs chains: its current block and how far it is (R384). -/
def State.stopChain (s : State) (type p e : Nat) : StopInfo :=
  let c := s.currentOf p e
  { type := type, skid := Config.skid s.fresh % 2 ^ 32, abnd := c.elim 0 (chainAbandoned e), pos := c.elim 0 Chain.block,
    prog := c.elim 0 fun c => chainProg e c % 2 ^ 32, owner := c.elim (noOwner e) (s.ownerField e), clk := s.now }

/-- The dispatcher: the record it stands at (R384). -/
def State.stopDispatcher (s : State) (p : Nat) : StopInfo :=
  let r := ((s.part p).rotor + 71) % 72
  { type := 6, skid := Config.skid s.fresh % 5, abnd := 0, pos := s.launchRecord (8 * p + r / 9 % 8) (r % 9), prog := 0,
    owner := 0x1FF * 2 ^ 23, clk := s.now }

/-- The engine number of an index of the stop area (R383). -/
def stopEngine (p index : Nat) : Nat :=
  if index < 72 then 18 * p + (index - 54) else if index < 81 then 216 + 9 * p + (index - 72) else 324 + (index - 81)

/-- What an engine's stop record says, by its index (R383). -/
def State.stopInfo (s : State) (p index : Nat) : StopInfo :=
  if index < 36 then s.stopLanes (36 * p + index)
  else if index < 54 then s.stopMatrix (18 * p + (index - 36))
  else if index < 72 then s.stopChain 3 p (stopEngine p index)
  else if index < 81 then s.stopChain 4 p (stopEngine p index)
  else if index < 89 then s.stopChain 5 p (stopEngine p index)
  else s.stopDispatcher p

/-- The words of a stop record (R384). -/
def StopInfo.words (i : StopInfo) (index hseq : Nat) : List Nat :=
  [i.type * 2 ^ 56 + index * 2 ^ 48 + hseq % 2 ^ 48, i.skid * 2 ^ 32 + i.abnd % 2 ^ 32, i.pos % 2 ^ 64,
    i.prog * 2 ^ 32 + i.owner, i.clk % 2 ^ 64, 0, 0, 0]

/-- Write a stop record into a partition's stop area (R383). -/
def State.writeStop (s : State) (p index hseq : Nat) (i : StopInfo) : State :=
  let s := s.homeWrite (Req.firmware p) (stackBase p + (s.part p).stopBase + 64 * index)
    (wordBytes (i.words index hseq)) false
  { s with fresh := s.fresh + 1 }

/-- Undefined bytes in a line of a chain's memory (R380). -/
def State.undefAt (s : State) (e : Nat) (c : Chain) (va : Nat) : State :=
  match s.chainXlat e c .write false va with
  | (s, .error _) => s
  | (s, .ok x) =>
    let line := x.pa / 256 * 256
    let s := s.writePa line ((List.range 256).map (Config.undefByte s.fresh)) false
    { s.writeSide (line / 256) 0 ((List.range 17).map fun j => Config.undefByte s.fresh (256 + j)) with fresh := s.fresh + 1 }

/-- Undefined bytes of memory at a virtual address, inside one line, that a chain would have written (R380). -/
def State.undefBytes (s : State) (e : Nat) (c : Chain) (va n : Nat) : State :=
  match s.chainXlat e c .write false va with
  | (s, .error _) => s
  | (s, .ok x) => { s.writePa x.pa ((List.range n).map (Config.undefByte s.fresh)) false with fresh := s.fresh + 1 }

/-- Undefined bytes of a rank's window that a chain would have written (R380). -/
def State.undefRank (s : State) (x off n : Nat) : State :=
  let bs := (List.range n).map (Config.undefByte s.fresh)
  let sc := (List.range 17).map fun j => Config.undefByte s.fresh (256 + j)
  let s := { s with fresh := s.fresh + 1 }
  if rankAcc x = s.pkg.accId then
    match s.ownWindow x off .write with
    | (s, .ok pa) => (if n = 256 then (s.writePa pa bs false).writeSide (pa / 256) 0 sc else s.writePa pa bs false)
    | (s, _) => s
  else match s.peerWindow x off .write with
    | none => s
    | some P =>
      let Q : PeerWin := { P with mem := Memory.write P.mem off bs, side := if n = 256 then Memory.write P.side (off / 8) sc else P.side }
      { s with peers := SMap.put (peerKey x) Q s.peers }

/-- The ranks of a Runner block's group: as they were read when the block was accepted, or as its table stands (R460). -/
def State.ranksOf (s : State) (e : Nat) (c : Chain) : List Nat :=
  if !c.ranks.isEmpty then c.ranks
  else
    let base := (s.vdev (c.owner.vnum.getD 0)).gtBase + 65536 * (runnerBody c.words).grp
    match s.chainRead e c base 64 with
    | (_, .error _) => []
    | (s, .ok (hs, _)) =>
      match (s.groupEntries e c base (bits ((words64 hs).getD 0 0) 9 0 + 1) 0).2 with
      | .error _ => []
      | .ok ranks => ranks

/-- What an abandoned block would have written in memory from its unit `from'` on, at home or at a peer, is undefined (R380). -/
def State.abandonBlock (s : State) (e : Nat) (c : Chain) (from' : Nat) : State :=
  match engKind e with
  | 1 =>
    let b := ladleBody c.words
    if b.dsp ≠ 0 ∨ b.op = 0 then s
    else (List.range (b.units - from')).foldl (fun s i =>
      let u := from' + i
      s.undefAt e c (b.dstAddr (u / b.dstLines) (u % b.dstLines))) s
  | 2 =>
    if omode c ≠ 2 ∨ bits (queryWord c 0) 59 56 ≠ 1 then s
    else (List.range (keepCount c - from')).foldl (fun s i => s.undefBytes e c (outputAddr c + 8 * (from' + i)) 8) s
  | _ =>
    let b := runnerBody c.words
    let lines := (List.range (b.chunks - from')).flatMap fun i => b.chunkDst (from' + i)
    match b.op with
    | 1 => ((s.ranksOf e c)[b.peer]?).elim s fun x => lines.foldl (fun s k => s.undefRank x (b.dst + 256 * k) 256) s
    | 4 => ((s.ranksOf e c)[b.peer]?).elim s fun x => if b.chunks ≤ from' then s else s.undefRank x b.dst 8
    | 2 | 3 => lines.foldl (fun s k => s.undefAt e c (b.dst + 256 * k)) s
    | _ => s

/-- The blocks that a chain goes to after a block: its next one, and the one of its failed test (R273, R275). -/
def Chain.nexts (c : Chain) : List Nat :=
  let w1 := c.words.getD 1 0
  let w0 := c.words.getD 0 0
  let next := if bits w1 63 32 = 0 then [] else [linkTo c.block (bits w1 63 32)]
  if bits w0 55 53 ≠ 0 ∧ bits w0 52 51 = 1 ∧ bits w1 31 0 ≠ 0 then linkTo c.block (bits w1 31 0) :: next else next

/-- The blocks that a chain may come to from the blocks at some addresses, whichever way their tests go; structural on their number. -/
def State.laterBlocks (s : State) (e : Nat) (c : Chain) : Nat → List Nat → List Nat → List Chain
  | 0, _, _ => []
  | _, [], _ => []
  | n + 1, va :: todo, seen =>
    if seen.contains va then s.laterBlocks e c n todo seen
    else match (s.chainRead e c va 64).2 with
      | .error _ => s.laterBlocks e c n todo (va :: seen)
      | .ok (bs, _) =>
        let d := { c with block := va, words := words64 bs, ranks := [] }
        if headerBad (engKind e) d.words ≠ none then s.laterBlocks e c n todo (va :: seen)
        else d :: s.laterBlocks e c n (d.nexts ++ todo) (va :: seen)

/-- Blocks of a chain that are followed for what they would have written. -/
def abandonedBlocks : Nat := 64

/-- What the rest of an abandoned block, and the blocks after it, would have written in memory is undefined (R380). -/
def State.abandon (s : State) (p e : Nat) : State :=
  match s.currentOf p e with
  | none => s
  | some c =>
    let starts := match c.stage with
      | .fetch | .testing => [c.block]
      | .ending => []
      | _ => c.nexts
    let later := s.laterBlocks e c abandonedBlocks starts []
    let s := match c.stage with
      | .perform => s.abandonBlock e { c with ranks := [] } 0
      | .working => s.abandonBlock e c (if engKind e = 2 then 0 else chainProg e c)
      | .emitting => s.abandonBlock e c c.sent
      | _ => s
    later.foldl (fun s d => s.abandonBlock e d 0) s

/-- A matrix array stops: the accumulators of each operation that it has begun hold the sum of the K-steps done, each of which adds the
terms of as many k, in order, as K holds for a step (R254, R260, R380). -/
def State.stopOperation (s : State) (twin : Nat) : State :=
  ((SMap.getD twin [] s.twins).filter fun o => o.started.isSome).foldl (fun s o =>
    match s.wg? o.wg with
    | none => s
    | some W =>
      let done := min o.steps (s.now - o.started.getD s.now)
      if done = 0 then s else s.putWg o.wg (o.performOf W fun k => decide (k * o.steps < done * o.depth)).1) s

/-- Accesses that had not left a core when it stopped are abandoned: the bytes that its outstanding stores would have written, and the
scale bytes of an STB, are undefined (R380). -/
def State.abandonStores (s : State) (core : Nat) : State :=
  (s.residents core).foldl (fun s G =>
    (G.pend.filter fun x => x.storing && decide (x.todo ≠ 0)).foldl (fun s x =>
      let es := x.reach (setBits x.todo)
      let side := match x.word with
        | .stb _ => true
        | _ => false
      (extentsBy x.oldLeaf es ++ s.physical (clusterOf core) G.vnum es).foldl (fun s e =>
        if 2 ^ 52 ≤ e.1 then s
        else
          let s := ({ s.writePa e.1 ((List.range e.2).map (Config.undefByte s.fresh)) false with fresh := s.fresh + 1 } : State)
          if side then { s.writeSide (e.1 / 256) 0 ((List.range 17).map (Config.undefByte s.fresh)) with fresh := s.fresh + 1 } else s) s) s) s

/-- A lane word that writes memory. -/
def writesMemory (i : Instr) : Bool :=
  match i with
  | .stg _ | .cstore _ | .stb _ | .atom _ | .redg _ | .atomxAdd _ | .atomxClr _ | .atomxRdclr _ | .tst _ => true
  | _ => false

/-- A gang has a lane word that has not issued and may write memory: of a run in progress or queued, fetched or not (R380). -/
def Gang.mayStore (G : Gang) : Bool :=
  G.runs.any fun r => r.words.isEmpty || ((r.words.take r.len).drop r.next).any fun w =>
    match decodeLane w with
    | .ok i => writesMemory i
    | .error _ => false

/-- Words that have not issued are abandoned: which bytes they would have written, and what stands there, is free, as far as their virtual
device may write (R380). -/
def State.abandonUnissued (s : State) (core : Nat) : State :=
  (s.residents core).foldl (fun s G =>
    if !G.mayStore then s
    else (Config.abandoned s.fresh).foldl (fun s x =>
      match (s.translate (clusterOf core) G.vnum .write false x.1).2 with
      | .ok y => s.writePa y.pa [x.2] false
      | .error _ => s) { s with fresh := s.fresh + 1 }) s

/-- A posting-list engine stops after its current posting block (R380, R415). -/
def State.stopsLater (s : State) (p index : Nat) : Bool :=
  decide (72 ≤ index) && decide (index < 81)
    && (s.currentOf p (stopEngine p index)).any fun c => s.inBlock (stopEngine p index) c && s.canProceed (stopEngine p index) c

/-- ENGINE_STOP: an engine of a partition whose halt line is raised has stopped and writes its stop record; after the last
record the partition is halted (R379, R380, R383). -/
def execEngineStop (p index : Nat) (s : State) : Host.Outcome State Fault Refusal :=
  .next (
    if !(s.part p).halting || !(s.part p).toStop.contains index || s.stopsLater p index then s
    else
      let i := s.stopInfo p index
      let s := if index < 36 then (s.abandonStores (36 * p + index)).abandonUnissued (36 * p + index)
        else if index < 54 then s.stopOperation (18 * p + (index - 36))
        else if index < 89 then s.abandon p (stopEngine p index) else s
      let s := s.writeStop p index (s.part p).hseq i
      s.modPart p fun P =>
        let left := P.toStop.erase index
        { P with toStop := left, halted := P.halted || left.isEmpty })

end Sys2Proof.Machine
end

