-- ==== Sys2Proof/Machine/Placement.lean ====
section
/-! DEFINITION. Placement: what a place has free, the waiting order, the units placed, ways converted, workgroups that start
and retire, grids that complete (R15-R29, R226, R227, R332, R337-R344). -/

namespace Sys2Proof.Machine

/-! ## Needs and rooms (R14-R18) -/

/-- What a workgroup needs on each of its cores: gangs by quarter, granules of a gang, ways, barriers, tile slots. -/
structure Need where
  gangs : List Nat
  gran  : Nat
  ways  : Nat
  bars  : Nat
  tiles : Nat

/-- Gangs of `n` on one core by quarter: the j-th goes to quarter j mod 4 (R18). -/
def byQuarter (n : Nat) : List Nat := (List.range 4).map fun q => (n + 3 - q) / 4

/-- The need of a workgroup of a grid, or of a child task (R16, R340). -/
def Grid.need (D : Grid) (child : Bool) : Need :=
  if child then ⟨byQuarter 1, D.regs / 8, 0, 0, 0⟩
  else ⟨byQuarter (if D.mt = 0 then D.ngang else D.ngang / 2), D.regs / 8, D.scr, D.bars, D.tiles⟩

/-- What a core has free: slots and granules by quarter, ways, barriers, tile slots. -/
structure Room where
  slots : List Nat
  gran  : List Nat
  ways  : Nat
  bars  : Nat
  tiles : Nat

/-- An empty core (R15, R16, R224). -/
def emptyRoom : Room := ⟨[16, 16, 16, 16], [256, 256, 256, 256], 10, 64, 96⟩

def Room.fits (r : Room) (n : Need) : Bool :=
  ((r.slots.zip n.gangs).all fun x => decide (x.2 ≤ x.1)) && ((r.gran.zip n.gangs).all fun x => decide (x.2 * n.gran ≤ x.1))
  && decide (n.ways ≤ r.ways) && decide (n.bars ≤ r.bars) && decide (n.tiles ≤ r.tiles)

def Room.take (r : Room) (n : Need) : Room :=
  ⟨(r.slots.zip n.gangs).map fun x => x.1 - x.2, (r.gran.zip n.gangs).map fun x => x.1 - x.2 * n.gran, r.ways - n.ways,
    r.bars - n.bars, r.tiles - n.tiles⟩

/-- A workgroup holds reservations on a core (R17). -/
def Wg.onCore (W : Wg) (core : Nat) : Bool :=
  decide (W.stage ≠ .saved) && (decide (W.core = core) || (W.twin && decide (W.core + 1 = core)))

/-- What a core has free once the workgroups `gone` have left it. -/
def State.room (s : State) (gone : List Nat) (core : Nat) : Room :=
  s.wgs.foldl (fun r kv =>
    if kv.2.onCore core && !gone.contains kv.1 then
      match s.grid? kv.2.grid with
      | some D => r.take (D.need kv.2.child.isSome)
      | none => r
    else r) emptyRoom

/-! ## The waiting order (R337, R343) -/

/-- A unit's entry in its level: grids by SEQ, a returning workgroup after every grid entered before it (R39, R337). -/
def State.entryOf (s : State) (u : PUnit) : Nat :=
  match u with
  | .grid g => (s.grid? g).elim 0 fun D => 2 * D.seq
  | .swapped _ _ e => e
  | .child k => ((s.cluster k).tasks.head?).elim 0 fun t => (s.grid? t.grid).elim 0 fun D => 2 * D.seq

/-- A unit's priority level. -/
def State.levelOf (s : State) (u : PUnit) : Nat :=
  match u with
  | .grid g => (s.grid? g).elim 0 Grid.prio
  | .swapped _ l _ => l
  | .child k => ((s.cluster k).tasks.head?).elim 0 fun t => (s.grid? t.grid).elim 0 Grid.prio

/-- The units that wait in a partition, in waiting order. -/
def State.waiting (s : State) (p : Nat) : List PUnit :=
  let kids := ((List.range 9).filter fun i => !(s.cluster (9 * p + i)).tasks.isEmpty).map fun i => PUnit.child (9 * p + i)
  let grids := (s.grids.filter fun kv => decide (partOfVnum kv.2.vnum = p) && decide (kv.2.next < kv.2.w)).map
    fun kv => PUnit.grid kv.1
  let rest := sortBy (fun a b => decide (s.entryOf a ≤ s.entryOf b)) (grids ++ (s.part p).swapped)
  [3, 2, 1, 0].flatMap fun l => (kids ++ rest).filter fun u => decide (s.levelOf u = l)

/-! ## Finding a place (R16, R19, R21, R22, R337) -/

/-- The members of a unit: its grid, whether it is a child task, and the sizes of its groups: a group of more than one
cluster's share stands on one cluster. -/
structure Shape where
  grid   : Nat
  child  : Bool
  twin   : Bool
  need   : Need
  groups : List Nat
  whole  : Bool

/-- Workgroups of a cohort that are not placed yet (R13). -/
def Grid.cohortSize (D : Grid) (first : Nat) : Nat := min D.coh (D.w - first)

/-- The groups of the workgroups of a returning context: by cohort, or one by one. -/
def State.groupsOf (s : State) (D : Grid) (ws : List Nat) : List (List Nat) :=
  if D.coh = 0 then ws.map fun w => [w]
  else
    let key := fun w => (s.wg? w).elim 0 fun W => W.num / D.coh
    let keys := ws.foldl (fun ks w => insNat (key w) ks) []
    keys.map fun k => ws.filter fun w => decide (key w = k)

/-- The shape of a waiting unit. -/
def State.shape (s : State) (u : PUnit) : Option Shape :=
  match u with
  | .child k =>
    match (s.cluster k).tasks with
    | [] => none
    | t :: _ => (s.grid? t.grid).map fun D => ⟨t.grid, true, false, D.need true, [1], false⟩
  | .grid g =>
    (s.grid? g).map fun D =>
      let tw := decide (D.mt ≠ 0)
      if D.coh = 0 then ⟨g, false, tw, D.need false, [1], false⟩
      else
        let a := D.cohortSize D.next
        ⟨g, false, tw, D.need false, if D.cpair then [a, D.cohortSize (D.next + a)] else [a], true⟩
  | .swapped ws _ _ =>
    match ws.filterMap s.wg? with
    | [] => none
    | W :: _ =>
      (s.grid? W.grid).map fun D =>
        let kid := W.child.isSome
        ⟨W.grid, kid, W.twin, D.need kid, if kid then [1] else (s.groupsOf D ws).map List.length, !kid && decide (D.coh ≠ 0)⟩

/-- Put `n` equal workgroups into rooms one after another, each into the first that has room; structural on `n`. -/
def fill (need : Need) (twin : Bool) : Nat → List (Nat × Room) → Option (List Nat)
  | 0, _ => some []
  | n + 1, rooms =>
    let at' := fun (c : Nat) => (rooms.find? fun r => decide (r.1 = c)).map Prod.snd
    let ok := fun (x : Nat × Room) =>
      if twin then decide (x.1 % 2 = 0) && x.2.fits need && (at' (x.1 + 1)).any fun r => r.fits need else x.2.fits need
    match rooms.find? ok with
    | none => none
    | some x =>
      let mine := fun c => decide (c = x.1) || (twin && decide (c = x.1 + 1))
      (fill need twin n (rooms.map fun r => if mine r.1 then (r.1, r.2.take need) else r)).map fun cs => x.1 :: cs

/-- A list rotated to begin at a number. -/
def rotate (n at' : Nat) : List Nat := (List.range n).map fun i => (at' + i) % n

/-- A cluster takes new work: not gated, not being reset (R362, R433). -/
def State.clusterOpen (s : State) (k : Nat) : Bool :=
  !(s.cluster k).gated && decide (((s.part (partOfCluster k)).port.reset.map Prod.fst) ≠ some (k % 9))

/-- The rooms of a cluster's cores. -/
def State.clusterRooms (s : State) (gone : List Nat) (k : Nat) : List (Nat × Room) :=
  if s.clusterOpen k then (List.range 4).map fun i => (4 * k + i, s.room gone (4 * k + i)) else []

/-- A place for a unit: the core (or leader core) of each of its workgroups in order, with the workgroups `gone` away and
the search limited to cores that satisfy `here`. -/
def State.findPlace (s : State) (p : Nat) (gone : List Nat) (here : Nat → Bool) (u : PUnit) (sh : Shape) : Option (List Nat) :=
  let P := s.part p
  let rooms := fun k => (s.clusterRooms gone k).filter fun r => here r.1
  if sh.whole then
    match sh.groups with
    | [n] => (rotate 9 P.cluNext).findSome? fun i => fill sh.need sh.twin n (rooms (9 * p + i))
    | [a, b] =>
      (List.range 81).findSome? fun ij =>
        if ij / 9 = ij % 9 then none
        else match fill sh.need sh.twin a (rooms (9 * p + ij / 9)), fill sh.need sh.twin b (rooms (9 * p + ij % 9)) with
          | some x, some y => some (x ++ y)
          | _, _ => none
    | _ => none
  else
    let cores := match u with
      | .child k => (rotate 36 P.coreNext).filter fun c => decide (c / 4 = k % 9)
      | _ => if sh.twin then (rotate 18 P.twinNext).map (2 * ·) else rotate 36 P.coreNext
    cores.findSome? fun c => fill sh.need sh.twin 1 ((rooms (9 * p + c / 4)).filter fun r =>
      decide (r.1 = 36 * p + c) || (sh.twin && decide (r.1 = 36 * p + c + 1)))

/-- The rotating pointers after a unit has been placed: only that of its own kind moves (R337). -/
def State.movePointers (s : State) (p : Nat) (sh : Shape) (first : Nat) : State :=
  s.modPart p fun P =>
    if sh.whole then (if sh.groups.length = 1 then { P with cluNext := (clusterOf first % 9 + 1) % 9 } else P)
    else if sh.twin then { P with twinNext := (twinOf first % 18 + 1) % 18 }
    else { P with coreNext := (first % 36 + 1) % 36 }

/-! ## Taking a place (R17, R18, R24, R27, R227) -/

/-- The role of a gang by its index (R24). -/
def Grid.roleOf (D : Grid) (g : Nat) : Nat :=
  if D.f + D.mt + D.v = 0 then 0 else if g < D.f then 1 else if g < D.f + D.mt then 2 else 3

/-- The lowest free slot of a quarter of a core (R18). -/
def State.freeSlot (s : State) (core qtr : Nat) : Nat :=
  let used := (s.gangs.filter fun kv => decide (kv.2.place.core = core) && decide (s.wgStage kv.2 ≠ some .saved)).map
    fun kv => kv.2.place.slot
  ((List.range 16).find? fun i => !used.contains (16 * qtr + i)).elim (16 * qtr) fun i => 16 * qtr + i

/-- Where a gang of a workgroup on a core stands (R18). -/
def State.placeFor (s : State) (w core gidx role : Nat) (twin : Bool) : Place :=
  let side := if twin then gidx % 2 else 0
  let qtr := if twin then gidx / 2 % 4 else gidx % 4
  ⟨w, gidx, role, side, qtr, core + side, s.freeSlot (core + side) qtr⟩

/-- A gang as it begins (R27, R87, R340). -/
def Grid.newGang (D : Grid) (n now : Nat) (pl : Place) (task : Option ChildTask) : Gang :=
  let image := decide (D.fmtbase ≠ 0)
  let s := match task with
    | some t => t.args.zipIdx.map fun x => (x.2, x.1)
    | none => [(0, D.arg.setWidth 32), (1, (D.arg >>> 32).setWidth 32)]
  { place := pl, pc := task.elim D.entry ChildTask.entry, s := s, m := [(0, 0xFFFFFFFF)], c := false, stack := [],
    lane := ⟨[], [], [], [], []⟩, sp := ⟨D.seed, D.lsbase, D.fmtbase, if image then [] else presets, false, false, 0, 0, []⟩,
    runs := [], pend := [], eng := ⟨0, [], [], false, 0, 0⟩, life := .awake, wait := if image then .formatImage else .none,
    park := none, owed := ⟨false, false, false⟩, restart := ⟨0, [], 0, false⟩, issued := 0, promo := false, since := now, promoS := false, sinceS := now,
    vnum := D.vnum, grid := n }

/-- The ways a workgroup takes on a core: the lowest ones that hold no workgroup's scratch (R227). -/
def Core.freeWays (c : Core) (n : Nat) : List Nat :=
  ((List.range 12).filter fun w => decide (SMap.getD w .l1 c.ways = .l1)).take n

/-- Close ways for a workgroup: their clean lines are dropped at once (R227). -/
def State.closeWays (s : State) (core w : Nat) (ws : List Nat) : State :=
  s.modCore core fun c =>
    { c with ways := ws.foldl (fun m x => SMap.put x (.closing w) m) c.ways,
             lines := c.lines.filter fun l => l.dirty || !ws.contains l.way }

/-- Give a workgroup its ways on its core or cores. -/
def State.takeWays (s : State) (w core : Nat) (twin : Bool) (n : Nat) : State :=
  let a := (s.core core).freeWays n
  let b := if twin then (s.core (core + 1)).freeWays n else []
  let s := s.closeWays core w a
  let s := if twin then s.closeWays (core + 1) w b else s
  s.modWg w fun W => { W with ways := a, ways2 := b }

/-- Place a workgroup of a grid for the first time, or a child task (R17, R20, R27, R340). -/
def State.placeNew (s : State) (n : Nat) (D : Grid) (core num : Nat) (task : Option ChildTask) : State :=
  let twin := task.isNone && decide (D.mt ≠ 0)
  let (w, s) := s.newId
  let count := if task.isSome then 1 else D.ngang
  let W : Wg :=
    { grid := n, num := if task.isSome then 0xFFFFFFFF else num, child := task.map ChildTask.num, core := core, twin := twin,
      gangs := [], scratch := [], scrBad := [], bars := [], slots := [], older := [], tile := [], tileSc := [], tileBad := [], busy := [],
      latches := [], contrib := [], stage := .setup, saved := false, ways := [], ways2 := [], ctx := none, lone := false,
      away := [], rings := [] }
  let s := s.putWg w W
  let s := (List.range count).foldl (fun s i =>
    let role := if task.isSome then 0 else D.roleOf i
    let pl := s.placeFor w core i role twin
    let (g, s) := s.newId
    (s.putGang g (D.newGang n s.now pl task)).modWg w fun W => { W with gangs := W.gangs ++ [g] }) s
  s.takeWays w core twin (if task.isSome then 0 else D.scr)

/-- Give a saved workgroup a new place (R39, R391). -/
def State.placeBack (s : State) (w core : Nat) : State :=
  match s.wg? w with
  | none => s
  | some W =>
    let s := s.modWg w fun W => { W with core := core, stage := .setup }
    let s := W.gangs.foldl (fun s g =>
      match s.gang? g with
      | none => s
      | some G =>
        let s := s.putGang g { G with place := { G.place with core := 0x1FF } }
        s.putGang g { G with place := s.placeFor w core G.place.gidx G.place.role W.twin }) s
    s.takeWays w core W.twin (if W.child.isSome then 0 else (s.grid? W.grid).elim 0 Grid.scr)

/-- Place a unit on cores. -/
def State.placeUnit (s : State) (p : Nat) (u : PUnit) (sh : Shape) (cores : List Nat) : State :=
  let s := s.movePointers p sh (cores.headD 0)
  let s := s.modPart p fun P => { P with reserved := if P.reserved = some u then none else P.reserved,
                                         first := P.first.filter fun l => decide (l.2.1 ≠ u) }
  match u with
  | .child k =>
    match (s.cluster k).tasks, s.grid? sh.grid with
    | t :: rest, some D =>
      (s.modCluster k fun K => { K with tasks := rest }).placeNew sh.grid D (cores.headD 0) 0 (some t)
    | _, _ => s
  | .grid g =>
    cores.foldl (fun s core =>
      match s.grid? g with
      | none => s
      | some D => (s.modGrid g fun D => { D with next := D.next + 1 }).placeNew g D core D.next none) s
  | .swapped ws _ _ =>
    let order := match s.grid? sh.grid with
      | some D => if sh.whole then (s.groupsOf D ws).flatten else ws
      | none => ws
    let s := (order.zip cores).foldl (fun s wc => s.placeBack wc.1 wc.2) s
    s.modPart p fun P => { P with swapped := P.swapped.filter fun x => decide (x ≠ u) }

/-- The first unit of each level, and since when each has been first (R338). -/
def State.noteFirst (s : State) (p : Nat) : State :=
  let us := s.waiting p
  s.modPart p fun P =>
    let f := (List.range 4).filterMap fun l =>
      (us.find? fun u => decide (s.levelOf u = l)).map fun u =>
        match SMap.find? l P.first with
        | some (v, t) => (l, (u, if u = v then t else s.now))
        | none => (l, (u, s.now))
    { P with first := f }

/-- The reservation that stands: its unit still waits (R338). -/
def State.reservedUnit (s : State) (p : Nat) : Option PUnit :=
  (s.part p).reserved.filter fun r => (s.waiting p).contains r

/-- A unit entered its level after another; of swapped-out units with one number the one swapped out later (R39, R337). -/
def State.entersAfter (s : State) (p : Nat) (r u : PUnit) : Bool :=
  let at' := fun x => (s.part p).swapped.findIdx fun y => decide (y = x)
  decide (s.entryOf r < s.entryOf u)
  || (decide (s.entryOf r = s.entryOf u) && (s.part p).swapped.contains r && decide (at' r < at' u) && (s.part p).swapped.contains u)

/-- While a reservation stands, no unit with a later entry is placed (R338). -/
def State.heldBack (s : State) (p : Nat) (u : PUnit) : Bool :=
  (s.reservedUnit p).any fun r => s.entersAfter p r u

/-- PLACE_UNIT: the first unit in waiting order that fits is placed whole (R337). -/
def execPlaceUnit (p : Nat) (s : State) : Host.Outcome State Fault Refusal :=
  .next (
    if s.stopped p then s
    else
      let found := (s.waiting p).findSome? fun u =>
        if s.heldBack p u then none
        else (s.shape u).bind fun sh => (s.findPlace p [] (fun _ => true) u sh).map fun cs => (u, sh, cs)
      match found with
      | none => s.noteFirst p
      | some (u, sh, cs) => (s.placeUnit p u sh cs).noteFirst p)

/-- UNIT_RESERVATION: a unit that has been first in its level and unplaced for 2^20 clk becomes reserved; one reservation
at a time, in waiting order (R338). -/
def execUnitReservation (p : Nat) (s : State) : Host.Outcome State Fault Refusal :=
  .next (
    if s.stopped p then s
    else
      let s := s.noteFirst p
      let P := s.part p
      if (s.reservedUnit p).isSome then s
      else
        let due := (s.waiting p).find? fun u => P.first.any fun l => decide (l.2.1 = u) && decide (l.2.2 + 2 ^ 20 ≤ s.now)
        s.modPart p fun P => { P with reserved := due })

/-! ## Ways and the start (R27, R227, R344) -/

/-- WAY_CONVERSION_COMPLETE: a closed way's lines have been written back, it is zeroed and holds scratch (R227). -/
def execWayConversionComplete (core way : Nat) (s : State) : Host.Outcome State Fault Refusal :=
  .next (
    if s.stopped (partOfCluster (clusterOf core)) then s
    else
      match SMap.getD way .l1 (s.core core).ways with
      | .closing w => (s.dropLines core fun l => decide (l.way = way)).modCore core fun c => { c with ways := SMap.put way (.scratch w) c.ways }
      | _ => s)

/-- All ways of a workgroup are zeroed. -/
def State.waysReady (s : State) (w : Nat) (W : Wg) : Bool :=
  let ok := fun (core : Nat) (ws : List Nat) => ws.all fun x => decide (SMap.getD x .l1 (s.core core).ways = .scratch w)
  ok W.core W.ways && (!W.twin || ok (W.core + 1) W.ways2)

/-- The far acquire that a start or a return makes (R344, R391). -/
def State.acquireCores (s : State) (W : Wg) : State :=
  let s := s.dropLines W.core fun _ => true
  if W.twin then s.dropLines (W.core + 1) fun _ => true else s

/-- WORKGROUP_START: the gangs of a placed workgroup begin together (R27, R227); a child task, and a workgroup of a grid
that passed a test, acquire (R344). -/
def execWorkgroupStart (w : Nat) (s : State) : Host.Outcome State Fault Refusal :=
  .next (match s.wg? w with
    | none => s
    | some W =>
      if W.stage ≠ .setup ∨ W.saved = true ∨ s.waysReady w W = false ∨ s.stopped (partOfCluster (clusterOf W.core)) = true then s
      else
        let acq := W.child.isSome || (s.grid? W.grid).any Grid.wtest
        (if acq then s.acquireCores W else s).modWg w fun W => { W with stage := .running })

/-! ## Retirement and completion (R29, R226, R232, R332) -/

/-- A grid whose workgroups and child tasks have all retired completes: its record is completed, and it is gone. A fault
parks it or halts (R29, R332). -/
def State.finishGrid (s : State) (n : Nat) : State :=
  match s.grid? n with
  | none => s
  | some D =>
    let gone := fun (s : State) => { s with grids := SMap.erase n s.grids }
    if D.live ≠ 0 then s
    else match D.record with
      | none => gone s
      | some rec =>
        match s.completeRecord D.vnum rec (if D.killed then 0x04 else 0x02) D.quiet with
        | (s, none) => gone s
        | (s, some f) =>
          let p := partOfVnum D.vnum
          if f.halts then s.halt p { dispatcherAgent D.vnum rec with grid := D.id } f 0
          else (s.modGrid n fun D => { D with park := some (Park.mk' 0 [(f, 0)] D.park) }).queueGroup p (.grid n)

/-- Return the ways of a workgroup: each is an empty L1 way again (R226). -/
def State.freeWays (s : State) (w : Nat) (W : Wg) : State :=
  let free := fun (s : State) (core : Nat) =>
    s.modCore core fun c => { c with ways := c.ways.filter fun x => decide (x.2 ≠ .scratch w) && decide (x.2 ≠ .closing w) }
  let s := free s W.core
  if W.twin then free s (W.core + 1) else s

/-- Bindings of a workgroup that is gone: a sprue loses its consumer and its entries with it, and a producer once it is
empty (R304). -/
def State.unbindWg (s : State) (p w : Nat) : State :=
  let mine := fun (b : Binder) => match b with
    | .gang _ x => decide (x = w)
    | .chain _ _ => false
  let s := (List.range 9).foldl (fun s i =>
    if (s.cluster (9 * p + i)).sprues.isEmpty then s
    else s.modCluster (9 * p + i) fun K => { K with sprues := SMap.mapV (fun _ (q : Sprue) =>
      if q.consumer.any mine then { q with consumer := none, entries := [] } else q) K.sprues }) s
  s.unbindProducers p mine

/-- Clean the L1 of a workgroup's cores (R232). -/
def State.cleanCores (s : State) (W : Wg) : State :=
  let s := s.cleanLines W.core fun _ => true
  if W.twin then s.cleanLines (W.core + 1) fun _ => true else s

/-- Take a workgroup and its gangs off the device: its reservations return all at once (R17, R29). -/
def State.removeWg (s : State) (w : Nat) (W : Wg) : State :=
  let s := if W.stage = .saved then s else s.freeWays w W
  let s := { s with gangs := W.gangs.foldl (fun m g => SMap.erase g m) s.gangs, wgs := SMap.erase w s.wgs }
  match s.grid? W.grid with
  | none => s
  | some D =>
    let s := s.unbindWg (partOfVnum D.vnum) w
    (s.modGrid W.grid fun D => { D with live := D.live - 1 }).finishGrid W.grid

end Sys2Proof.Machine
end

