-- ==== Sys2Proof/Machine/Lifecycle.lean ====
section
/-! DEFINITION. Work that ends or is set aside from outside: chains and workgroups killed, restart, twin reset, pre-emption,
swap-out, the end of a grid, cluster reset and gating (R36-R39, R198, R223, R271, R272, R295, R362, R389-R391, R433). -/

namespace Sys2Proof.Machine

/-! ## Chains that end at once (R295) -/

/-- A chain that has begun a block that writes tile slots: the writes are lost with the tile store (R272, R295). -/
def Chain.writesTiles (c : Chain) : Bool := bit c.flags 32

/-- The tile slots that a Ladle's block holds are free again. -/
def State.freeChainSlots (s : State) (c : Chain) : State :=
  match c.owner.wg with
  | some w => s.modWg w fun W => W.release c.id
  | none => s

/-- A chain with LOST set if it has lost a tile write (R295). -/
def Chain.losing (c : Chain) (lost : Bool) : Chain := if lost then { c with flags := c.flags ||| 2 ^ 29 } else c

/-- End a chain at once: its remaining blocks are not performed, its signal is not sent; `lost` sets LOST (R295). -/
def State.killChain (s : State) (e : Nat) (c : Chain) (lost : Bool) : State :=
  ((s.freeChainSlots c).chainEnded (c.losing lost)).removeChain e c

/-- The chains of every engine that satisfy a test. -/
def State.chainsWhere (s : State) (p : Nat → Chain → Bool) : List (Nat × Chain) :=
  s.engines.flatMap fun kv => (kv.2.chains.filter (p kv.1)).map fun c => (kv.1, c)

/-- End every chain that a workgroup owns, those saved with it too; its tile writes are lost when its twin is reset (R272,
R295). -/
def State.killChainsOf (s : State) (w : Nat) (tiles : Bool) : State :=
  let s := (s.chainsWhere fun _ c => decide (c.owner.wg = some w)).foldl (fun s ec =>
    s.killChain ec.1 ec.2 (tiles && ec.2.writesTiles)) s
  let saved := (s.wg? w).elim [] Wg.away
  (saved.foldl (fun s a => s.chainEnded (a.chain.losing (tiles && a.chain.writesTiles))) s).modWg w fun W => { W with away := [] }

/-- WORKGROUP_RETIRE: every gang has exited or sleeps: a query still open ends at once, the L1 is cleaned, what is owed by then is
reported, the reservations return, and the grid may complete (R29, R232, R386). -/
def execWorkgroupRetire (w : Nat) (s : State) : Host.Outcome State Fault Refusal :=
  .next (match s.wg? w with
    | none => s
    | some W =>
      if W.stage ≠ .running ∨ s.stopped (partOfCluster (clusterOf W.core)) = true
          ∨ (W.gangs.all fun g => (s.gang? g).any fun G => decide (G.life ≠ .awake)) = false then s
      else (W.gangs.foldl State.reportOwed ((s.killChainsOf w false).cleanCores W)).removeWg w W)

/-! ## Killed workgroups (R223, R272, R332, R433, R456) -/

/-- The agent of a reset's record: none, with the workgroup's identifiers (R370). -/
def State.resetAgent (s : State) (W : Wg) : Agent :=
  { Agent.none with grid := (s.grid? W.grid).elim 0 Grid.id, wg := W.num }

/-- Write the record of a reset or a kill: cause 0x21, which does not halt (R371). -/
def State.resetRecord (s : State) (p : Nat) (ag : Agent) (detail : Nat) : State :=
  s.writeRecord p (recordWords ag (plainFault 0x21 0 0 detail) (s.part p).seq 0 false false 0 true)

/-- Operations of a workgroup leave the twins: accepted, dispatched, and contributions not accepted (R272). -/
def State.dropMatrix (s : State) (w : Nat) : State :=
  { s with twins := SMap.mapV (fun _ ops => ops.filter fun o => decide (o.wg ≠ w)) s.twins }

/-- The workgroup at the same offset of the partner cohort. -/
def State.partnerWg (s : State) (W : Wg) : Option Nat :=
  match s.grid? W.grid with
  | some D =>
    if W.child.isSome then none
    else (partnerNum D W.num).bind fun n =>
      (List.find? (fun kv => decide (kv.2.grid = W.grid) && kv.2.child.isNone && decide (kv.2.num = n)) s.wgs).map Prod.fst
  | none => none

/-- A workgroup leaves the units that wait to return. -/
def State.leaveUnits (s : State) (p w : Nat) : State :=
  let f := fun (u : PUnit) => match u with
    | .swapped ws l e => PUnit.swapped (ws.filter fun x => decide (x ≠ w)) l e
    | u => u
  s.modPart p fun P => { P with swapped := (P.swapped.map f).filter fun u => match u with
    | .swapped ws _ _ => !ws.isEmpty
    | _ => true }

/-- The L1 lines of a killed workgroup's cores are cleaned, so that its grid's signal releases its writes (R232, R332); a cluster
that is being reset writes nothing back (R433). -/
def State.cleanKilled (s : State) (W : Wg) : State :=
  let k := clusterOf W.core
  if W.stage = .saved ∨ ((s.part (partOfCluster k)).port.reset.map Prod.fst) = some (k % 9) then s else s.cleanCores W

/-- Kill a workgroup: its chains end, its partner's exchanges pair with no send, its reservations return, and its grid
will complete with STATE 0x04 (R223, R272, R295, R332). `detail`: the record that names it, if one is written. -/
def State.killWg (s : State) (w : Nat) (detail : Option Nat) (tiles : Bool) : State :=
  match s.wg? w with
  | none => s
  | some W =>
    let p := (s.grid? W.grid).elim 0 fun D => partOfVnum D.vnum
    let s := match detail with
      | some d => s.resetRecord p (s.resetAgent W) d
      | none => s
    let s := ((s.killChainsOf w tiles).cleanKilled W).dropMatrix w
    let s := match s.partnerWg W with
      | some v => s.leaveAlone v
      | none => s
    let s := s.leaveUnits p w
    (s.modGrid W.grid fun D => { D with killed := true }).removeWg w W

/-! ## Restart (R271) -/

/-- A workgroup can restart: it has matrix gangs, and every gang that has not exited has RV set and has issued no exchange
since (R223, R271). DESIGN CHOICE, log entry 69: an exchange of a gang that has exited does not count. -/
def State.recomputable (s : State) (W : Wg) : Bool :=
  W.child.isNone && ((s.grid? W.grid).any fun D => decide (D.mt ≠ 0))
  && W.gangs.all fun g => (s.gang? g).any fun G =>
      decide (G.life = .exited) || (G.restart.rv && decide (G.eng.xxch = G.restart.xxch))

/-- An exchange that a restart leaves outstanding: its partner's pairs with what it sent; it counts nowhere any more, and writes no
register of the gang (R222, R271). -/
def Pend.exchangeOnly (p : Pend) : Option Pend :=
  match p.kind with
  | .xxch n paired sent _ => if p.done then none else
      some { p with kind := .xxch n paired sent 0, cls := none, run := none, dests := [], results := [], masks := [], pins := [], lanes := 0 }
  | _ => none

/-- A gang after a restart (R271, R416): s32-s127 are undefined. -/
def Gang.restarted (G : Gang) (fresh : Nat) : Gang :=
  if G.life = .exited then G
  else
    let low := G.restart.s.filter fun x => decide (x.1 < 32)
    let high := (List.range 96).map fun i => (32 + i, Config.undef fresh (4096 + 32 + i))
    { G with
      pc := G.restart.pc, s := low ++ high, m := [(0, 0xFFFFFFFF)], c := false, stack := [],
      lane := ⟨[], [], [], [], []⟩, runs := [], pend := G.pend.filterMap Pend.exchangeOnly, eng := { G.eng with conv := false, handles := [] },
      life := .awake, wait := .none, park := none, promo := false, promoS := false }

/-- Restart a workgroup: its chains end, its tile store is as at birth, its gangs stand at their restart state; scratch,
pattern bindings, the format table and %seed are kept (R248, R271, R295). Barriers count no arrival. -/
def State.restartWg (s : State) (w : Nat) (tiles : Bool) : State :=
  match s.wg? w with
  | none => s
  | some W =>
    let s := (s.killChainsOf w tiles).dropMatrix w
    let s := W.gangs.foldl (fun s g => ({ s.modGang g fun G => G.restarted s.fresh with fresh := s.fresh + 1 } : State)) s
    s.modWg w fun W => { W.dropArrivals with
      tile := [], tileSc := [], tileBad := [], busy := [], latches := [], contrib := [],
      bars := SMap.mapV (fun _ (B : Barrier) => { B with a := 0 }) W.bars }

/-! ## Twin reset (R255, R272) -/

/-- A workgroup holds tile slots on a core of a twin. -/
def State.holdsTiles (s : State) (W : Wg) (twin : Nat) : Bool :=
  (W.onCore (2 * twin) || W.onCore (2 * twin + 1)) && W.child.isNone && (s.grid? W.grid).any fun D => decide (D.tiles ≠ 0)

/-- Reset a twin: operations are discarded, a record and the matrix stop record are written, and each workgroup that holds
tile slots there restarts or is killed (R272). -/
def State.resetTwin (s : State) (twin : Nat) : State :=
  let p := twin / 18
  let info := s.stopMatrix twin
  let seq := (s.part p).seq
  let s := s.resetRecord p Agent.none twin
  let s := s.writeStop p (36 + twin % 18) seq info
  let s := { s with twins := SMap.erase twin s.twins }
  let ws := (s.wgs.filter fun kv => s.holdsTiles kv.2 twin).map Prod.fst
  ws.foldl (fun s w =>
    match s.wg? w with
    | none => s
    | some W => if s.recomputable W then s.restartWg w true else s.killWg w (some twin) true) s

/-- TWIN_RESET: firmware orders it (R272). -/
def execTwinReset (twin : Nat) (s : State) : Host.Outcome State Fault Refusal :=
  .next (if s.stopped (twin / 18) || !s.inService (twin / 18) then s else s.resetTwin twin)

/-- MATRIX_WATCHDOG_EXPIRY: an operation has not retired 2^20 clk after its dispatch (R255). -/
def execMatrixWatchdogExpiry (twin : Nat) (s : State) : Host.Outcome State Fault Refusal :=
  .next (
    let late := (SMap.getD twin [] s.twins).any fun o => o.started.any fun t => decide (t + 2 ^ 20 ≤ s.now)
    if late && !s.stopped (twin / 18) then s.resetTwin twin else s)

/-! ## Pre-emption (R23, R389-R391) -/

/-- The workgroups that leave with a workgroup: itself, its cohort, or its pair of cohorts (R23). -/
def State.together (s : State) (w : Nat) : List Nat :=
  match s.wg? w with
  | none => []
  | some W =>
    match s.grid? W.grid with
    | some D =>
      if W.child.isSome ∨ D.coh = 0 then [w]
      else
        let key := fun (n : Nat) => if D.cpair then n / D.coh / 2 else n / D.coh
        (s.wgs.filter fun kv => decide (kv.2.grid = W.grid) && kv.2.child.isNone && decide (key kv.2.num = key W.num)
          && decide (kv.2.stage ≠ .saved)).map Prod.fst
    | none => [w]

/-- Begin to pre-empt workgroups as one context: each engine goes on to its boundary (R389). -/
def State.beginSave (s : State) (ws : List Nat) : State :=
  let (id, s) := s.newId
  ws.foldl (fun s w => s.modWg w fun W =>
    if W.stage = .running ∨ W.stage = .setup then { W with stage := .saving, ctx := some id } else W) s

/-- PREEMPT_CONTEXT (R389). -/
def execPreemptContext (c : Context) (s : State) : Host.Outcome State Fault Refusal :=
  .next (
    match c with
    | .workgroup w =>
      (match s.wg? w with
       | some W => if s.stopped (partOfCluster (clusterOf W.core)) then s else s.beginSave (s.together w)
       | none => s)
    | .vdev v =>
      if s.stopped (partOfVnum v) then s
      else s.beginSave ((s.wgs.filter fun kv => decide (kv.2.stage ≠ .saved)
        && (s.grid? kv.2.grid).any fun D => decide (D.vnum = v)).map Prod.fst))

/-- An outstanding operation that an image keeps: parked, an exchange whose partner has not issued, a held sprue word, a
handle word, a chain, a contribution (R390). -/
def Pend.kept (p : Pend) : Bool :=
  p.done || p.park.isSome || (match p.kind with
    | .xxch _ paired _ _ => !paired
    | .sprue | .handle | .chain _ | .matrix _ => true
    | _ => false)

/-- An outstanding operation that holds its run. -/
def Pend.holdsRun (p : Pend) : Bool :=
  p.run.isSome && !p.done && (match p.kind with
    | .chain _ | .matrix _ => false
    | _ => p.kept)

/-- A gang's drain is done: only kept operations remain, and no run is in progress but one that a kept word holds
(R389, R390). -/
def Gang.saveReady (G : Gang) : Bool :=
  G.pend.all Pend.kept && ((G.runs.all fun r => decide (r.next = 0)) || G.pend.any Pend.holdsRun)

/-- A query stands between two posting blocks: its traversal is over, or a list's next block is still to be read (R415). -/
def Traversal.betweenBlocks (t : Traversal) : Bool := t.done || t.live.any fun i => (t.cursor i).docs.isNone

/-- A chain stands at its engine's boundary, or cannot go on (R389, R415). -/
def State.chainAtBoundary (s : State) (e : Nat) (c : Chain) : Bool :=
  (decide (c.stage ≠ .working) && decide (c.stage ≠ .emitting)) || !s.canProceed e c
  || (match engKind e with
      | 1 => decide (c.prog % 16 = 0)
      | 2 => decide (c.stage = .emitting) || c.trav.all Traversal.betweenBlocks
      | _ => decide (c.sent = c.prog))

/-- Every engine of a workgroup can acknowledge (R389). -/
def State.wgSaveReady (s : State) (w : Nat) (W : Wg) : Bool :=
  (W.gangs.all fun g => (s.gang? g).any Gang.saveReady)
  && (s.twins.all fun kv => kv.2.all fun o => decide (o.wg ≠ w))
  && (s.chainsWhere fun e c => decide (c.owner.wg = some w) && !s.chainAtBoundary e c).isEmpty

/-- The number of an engine in its cluster or die (R279). -/
def engineNumberOf (e : Nat) : Nat := if e < 216 then e % 2 else if e < 324 then 2 else 4 + (e - 324) % 4

/-- Move a workgroup's chains off their engines into its image, with what they hold of the chain buffer (R282, R391). -/
def State.saveChains (s : State) (w : Nat) : State :=
  (s.chainsWhere fun _ c => decide (c.owner.wg = some w)).foldl (fun s ec =>
    let (e, c) := ec
    let E := s.engine e
    let a : Away := if c.holdBuf then ⟨engineNumberOf e, c, E.buf, E.bufSc, E.bufBad, E.bufWr⟩
      else ⟨engineNumberOf e, c, [], [], [], []⟩
    let n := s.nextChain e (some c.id) fun x => decide (x.id ≠ c.id)
    let cur := if E.cur = some c.id then n else E.cur
    let s := s.modEngine e fun E => { if c.holdBuf then E.emptied else E with
      chains := E.chains.filter fun x => decide (x.id ≠ c.id), cur := cur }
    let s := s.modWg w fun W => { W with away := W.away ++ [a] }
    let move (x : Parked) : Parked := if x = .chain e c.id then .away w c.id else x
    s.modPart c.owner.part fun P => { P with groups := P.groups.map move }) s

/-- A gang in its image: the last-result file and helper shadow are not saved (R391). An error of a register is not saved: its
bits are (R393). DESIGN CHOICE, log entry 60: those of a run that
a kept word holds stay with the run, whose later words read them. -/
def Gang.image (G : Gang) : Gang :=
  let L := if G.runs.any fun r => decide (0 < r.next) then G.lane else G.lane.retire
  { G with lane := { L with err := [] }, promo := false, promoS := false }

/-- Bytes of a gang's image: 4 KB, and 1 KB for each granule that holds a live main register (R484). -/
def Gang.imageBytes (G : Gang) : Nat :=
  4096 + 1024 * (((G.lane.regs.filter fun kc => kc.2.live && decide (kc.1 % 1024 < 256)).map fun kc => kc.1 % 1024 / 8).eraseDups).length

/-- Bytes of a workgroup's image: its gangs, its scratch, under tile-save its slots and the latches that hold A, and the chain-buffer
lines of its chains (R484). -/
def State.wgImageBytes (s : State) (W : Wg) : Nat :=
  let tiles := match s.grid? W.grid with
    | some D => if D.tsave then 4096 * D.tiles * (if W.twin then 2 else 1) + 8192 * W.latches.length else 0
    | none => 0
  ((W.gangs.filterMap s.gang?).map Gang.imageBytes).foldl (· + ·) 0 + s.scratchSize W + tiles
    + 256 * (W.away.map fun a => a.bufWr.length).foldl (· + ·) 0

/-- An image passes the crossbar port of its workgroup's cluster as firmware work: a beat for 64 bytes written, or for each line read
(R391, R442, R449). -/
def State.chargeImage (s : State) (w : Nat) (save : Bool) : State :=
  match s.wg? w with
  | none => s
  | some W =>
    let k := clusterOf W.core
    s.chargeStream (5000 + k) (96 + partOfCluster k) ((s.wgImageBytes W + (if save then 63 else 255)) / (if save then 64 else 256))

/-- Save a workgroup: release at vdev scope, image, chains; a recomputable one without tile-save is discarded (R271,
R391). -/
def State.saveWg (s : State) (w : Nat) : State :=
  match s.wg? w with
  | none => s
  | some W =>
    let s := s.cleanCores W
    let drop := !(s.grid? W.grid).any Grid.tsave && s.recomputable W
    let s := if drop then s.restartWg w false else s.saveChains w
    let s := W.gangs.foldl (fun s g => (match s.gang? g with
      | some G => s.savingErrors G fun _ => true
      | none => s).modGang g Gang.image) s
    ((s.chargeImage w true).freeWays w W).modWg w fun W => { W with stage := .saved, saved := true, ctx := none, ways := [], ways2 := [] }

/-- Saved workgroups wait to return, each context's groups as units at the tail of their level (R39, R337). -/
def State.enterBack (s : State) (p : Nat) (ws : List Nat) : State :=
  match ws with
  | [] => s
  | w :: _ =>
    let prio := ((s.wg? w).bind fun W => s.grid? W.grid).elim 0 Grid.prio
    s.modPart p fun P => { P with swapped := P.swapped ++ [.swapped ws prio (2 * P.acceptSeq - 1)] }

/-- The groups in which the workgroups of a context return (R23). -/
def State.backGroups (s : State) : List Nat → List (List Nat) → List (List Nat)
  | [], acc => acc
  | w :: t, acc =>
    if acc.any fun g => g.contains w then s.backGroups t acc else s.backGroups t (acc ++ [s.together w])

/-- Complete a pre-emption once every engine of the context can acknowledge; only then are the reservations returned
(R389). -/
def State.finishSave (s : State) (ws : List Nat) : State :=
  let ready := ws.all fun w => (s.wg? w).any fun W => decide (W.stage = .saving) && s.wgSaveReady w W
  if !ready then s
  else
    let p := ((ws.head?.bind s.wg?).map fun W => partOfCluster (clusterOf W.core)).getD 0
    let groups := s.backGroups ws []
    let s := ws.foldl State.saveWg s
    groups.foldl (fun s g => s.enterBack p g) s

/-- PREEMPT_ENGINE_ACK (R389). -/
def execPreemptEngineAck (w : Nat) (s : State) : Host.Outcome State Fault Refusal :=
  .next (match s.wg? w with
    | none => s
    | some W =>
      if W.stage ≠ .saving ∨ s.stopped (partOfCluster (clusterOf W.core)) = true then s
      else s.finishSave ((s.wgs.filter fun kv => decide (kv.2.ctx = W.ctx) && decide (kv.2.stage = .saving)).map Prod.fst))

/-! ## Swap-out (R36-R38) -/

/-- The idle counter of a core (R36). -/
def State.idle (s : State) (core : Nat) : Nat := min (s.now - (s.core core).issued) 65536

/-- An outstanding sprue word is held for room or for entries (R305-R307). -/
def State.heldOnSprue (s : State) (G : Gang) (x : Pend) : Bool :=
  let q := fun f : L3 => s.sprue (partOfVnum G.vnum) (sprueId f)
  !x.done && (match x.word with
    | .qpost f => decide (sprueSize < (q f).entries.length + (setBits x.lanes).length)
    | .qtake f => (takeCount (setBits x.lanes).length (q f).entries).isNone
    | _ => false)

/-- A gang's scalar stream stands at a word that has been fetched and that is not one of the engine waits of R281 and R283, nor a
LAUNCH (R336). -/
def State.standsStill (s : State) (G : Gang) : Bool :=
  match (s.grid? G.grid).bind fun D => SMap.find? (2 * G.pc) D.code with
  | none => false
  | some w =>
    match decodeScalar (BitVec.ofNat 32 w) with
    | .ok (.cbgoLadle ..) | .ok (.cbgoPle ..) | .ok (.cbgoRunner ..) | .ok (.cbstat ..) | .ok (.launch ..) => false
    | _ => true

/-- A gang issues nothing else while a sprue word of it is held (R307). DEDUCED, log entry 70: it waits in no engine wait, no run of it is
parked, and no word of it has issued for the 65,536 clk of an idle counter (R36). -/
def State.issuesNothing (s : State) (G : Gang) : Bool :=
  (match G.wait with
   | .none => s.standsStill G
   | .barrier _ | .semaphore _ _ _ _ | .ring _ | .rendezvous _ _ _ => true
   | _ => false)
  && decide (G.issued + 65536 ≤ s.now)

/-- A gang's next lane word cannot be paid for: tokens are withheld, or its virtual device can neither pay nor borrow (R177, R447). -/
def State.waitsForTokens (s : State) (G : Gang) : Bool :=
  let arb := 4 * G.place.core + G.place.qtr
  !G.runs.isEmpty && (s.pkg.withhold || (!s.affords ⟨arb, G.vnum, 1⟩ && (s.bucket arb G.vnum).noBrw))

/-- A gang that does not keep its workgroup from being blocked (R37). -/
def State.gangBlocked (s : State) (g : Nat) : Bool :=
  (s.gang? g).any fun G =>
    decide (G.life ≠ .awake)
    || (G.park.isNone && !G.parkedWord && (G.runs.all fun r => r.park.isNone)
        && ((G.pend.any (s.heldOnSprue G) && s.issuesNothing G && !s.waitsForTokens G)
            || (match G.wait with
                | .barrier _ | .semaphore _ _ _ _ | .ring _ => true
                | _ => false)))

/-- A resident workgroup is blocked (R37). -/
def State.wgBlocked (s : State) (w : Nat) : Bool :=
  (s.wg? w).any fun W => decide (W.stage = .running) && W.gangs.all s.gangBlocked

/-- The candidates for swap-out on a core: blocked with all that leave with them (R38). -/
def State.candidates (s : State) (core : Nat) : List Nat :=
  (s.wgs.filter fun kv => kv.2.onCore core && (s.together kv.1).all s.wgBlocked).map Prod.fst

/-- The most recent issue of a workgroup, and its lowest slot (R38). -/
def State.lastIssue (s : State) (w : Nat) : Nat × Nat :=
  match s.wg? w with
  | none => (0, 0)
  | some W =>
    let gs := W.gangs.filterMap s.gang?
    (gs.foldl (fun m G => max m G.issued) 0, gs.foldl (fun m G => min m G.place.slot) 64)

/-- Candidates in the order in which they are swapped out (R38). -/
def State.swapOrder (s : State) (ws : List Nat) : List Nat :=
  sortBy (fun a b =>
    let x := s.lastIssue a
    let y := s.lastIssue b
    decide (x.1 < y.1) || (decide (x.1 = y.1) && decide (x.2 ≤ y.2))) ws

/-- The cores that a unit may need when `core` makes the swap check: the core, its twin, its cluster, or, for a pair of
cohorts, its partition (R38). DESIGN CHOICE, log entry 71: for a pair R38 names no cores, and the model takes every core of the
partition, since R337 seeks its two clusters in the whole sector. -/
def swapCores (core : Nat) (sh : Shape) : List Nat :=
  if sh.whole then
    (if sh.groups.length = 1 then (List.range 4).map fun i => 4 * clusterOf core + i
     else (List.range 36).map fun i => 36 * (core / 36) + i)
  else if sh.twin then [2 * twinOf core, 2 * twinOf core + 1] else [core]

/-- The fewest candidates, in order, whose leaving makes room; structural on the candidates left. -/
def State.swapSet (s : State) (p : Nat) (here : Nat → Bool) (u : PUnit) (sh : Shape) (gone : List Nat) : List Nat → Option (List Nat)
  | [] => none
  | w :: t =>
    let gone := gone ++ (s.together w).filter fun x => !gone.contains x
    if (s.findPlace p gone here u sh).isSome then some gone else s.swapSet p here u sh gone t

/-- What a core swaps out: for the first waiting unit that fits once candidates are gone; nothing for a unit that fits
already (R38). -/
def State.swapChoice (s : State) (p core : Nat) : Option (List Nat) :=
  (s.waiting p).findSome? fun u =>
    (s.shape u).bind fun sh =>
      let cores := (swapCores core sh).filter fun c => decide (65536 ≤ s.idle c)
      let here := fun c => (swapCores core sh).contains c
      if (s.findPlace p [] here u sh).isSome then some []
      else
        let ws := cores.foldl (fun ws c => ws ++ (s.candidates c).filter fun w => !ws.contains w) []
        s.swapSet p here u sh [] (s.swapOrder ws)

/-- IDLE_COUNTER_SWAP_CHECK (R36, R38). -/
def execIdleCounterSwapCheck (core : Nat) (s : State) : Host.Outcome State Fault Refusal :=
  .next (
    let p := partOfCluster (clusterOf core)
    if s.stopped p || decide (s.idle core < 65536) then s
    else
      match s.swapChoice p core with
      | some (w :: ws) => ((w :: ws).foldl (fun s w =>
          if (s.wg? w).any (fun W => decide (W.stage = .running)) then s.beginSave (s.together w) else s) s).modCore core
            fun c => { c with issued := s.now }
      | _ => s)

/-! ## The end of a grid (R198, R456) -/

/-- The child task at the head of a cluster's queue is gone: what stood for it among the first units, and a reservation of it, go with it
(R338). -/
def State.headGone (s : State) (k : Nat) : State :=
  s.modPart (partOfCluster k) fun P =>
    { P with reserved := P.reserved.filter fun u => decide (u ≠ .child k), first := P.first.filter fun l => decide (l.2.1 ≠ .child k) }

/-- Child tasks of a grid that wait in the queues of its partition. -/
def State.dropTasks (s : State) (p n : Nat) : State :=
  (List.range 9).foldl (fun s i =>
    let k := 9 * p + i
    let mine := (s.cluster k).tasks.filter fun t => decide (t.grid = n)
    if mine.isEmpty then s
    else
      let head := (s.cluster k).tasks.head?.any fun t => decide (t.grid = n)
      ((if head then s.headGone k else s).modCluster k fun K => { K with tasks := K.tasks.filter fun t => decide (t.grid ≠ n) }).modGrid n
        fun D => { D with live := D.live - mine.length }) s

/-- End a grid: its workgroups are killed, those not placed never start, its queued tasks are dropped, and it completes with
STATE 0x04. `detail`: the record that names each killed workgroup, if any. -/
def State.endGrid (s : State) (n : Nat) (detail : Option Nat) : State :=
  match s.grid? n with
  | none => s
  | some D =>
    let p := partOfVnum D.vnum
    let s := s.modGrid n fun D => { D with killed := true, live := D.live - (D.w - D.next), next := D.w }
    let s := s.dropTasks p n
    let ws := (s.wgs.filter fun kv => decide (kv.2.grid = n)).map Prod.fst
    if ws.isEmpty then s.finishGrid n else ws.foldl (fun s w => s.killWg w detail false) s

/-- END_GRID: firmware ends the grid of a gang that TRAP has parked (R198). -/
def execEndGrid (g : Nat) (s : State) : Host.Outcome State Fault Refusal :=
  .next (match s.gang? g with
    | none => s
    | some G => if G.wait = .trap ∧ s.stopped (partOfVnum G.vnum) = false then s.endGrid G.grid none else s)

/-! ## Cluster gating and reset (R362, R432, R433) -/

/-- A cluster is idle: nothing resident, no chain on its engines, no task. -/
def State.clusterIdle (s : State) (k : Nat) : Bool :=
  (s.wgs.all fun kv => (List.range 4).all fun i => !kv.2.onCore (4 * k + i))
  && (s.engine (2 * k)).chains.isEmpty && (s.engine (2 * k + 1)).chains.isEmpty && (s.engine (216 + k)).chains.isEmpty
  && (s.cluster k).tasks.isEmpty

/-- CLUSTER_POWER_GATE: firmware gates an idle cluster; its L1s are cleaned, and they and its other caches and TLB are
emptied, and %clk of its cores is zero (R170, R362, R480). -/
def execClusterPowerGate (k : Nat) (s : State) : Host.Outcome State Fault Refusal :=
  .next (
    if s.stopped (partOfCluster k) || !s.clusterIdle k then s
    else
      let s := (List.range 4).foldl (fun s i =>
        (s.dropLines (4 * k + i) fun _ => true).modCore (4 * k + i) fun c => { c with const := [], pats := [], clkBase := s.now }) s
      s.modCluster k fun K => { K with tlb := [], walk := [], tile := [], stream := [], gated := true })

/-- CLUSTER_UNGATE: the cluster resumes with empty structures, and %clk of its cores counts from zero (R170, R362, R480). -/
def execClusterUngate (k : Nat) (s : State) : Host.Outcome State Fault Refusal :=
  .next (
    if !(s.cluster k).gated then s
    else ((List.range 4).foldl (fun s i => s.modCore (4 * k + i) fun c => { c with clkBase := s.now }) s).modCluster k
      fun K => { K with gated := false })

/-- The chains on a cluster's engines. -/
def State.clusterChains (s : State) (k : Nat) : List (Nat × Chain) :=
  s.chainsWhere fun e _ => decide (e / 2 = k ∧ e < 216) || decide (e = 216 + k)

/-- Workgroups on a cluster, or that own a chain on its engines or have a child task in its queue (R433). -/
def State.onCluster (s : State) (k : Nat) : List Nat :=
  let chains := s.clusterChains k
  (s.wgs.filter fun kv => decide (kv.2.stage ≠ .saved)
    && ((List.range 4).any (fun i => kv.2.onCore (4 * k + i)) || (chains.any fun ec => decide (ec.2.owner.wg = some kv.1))
      || (s.cluster k).tasks.any fun t => decide (t.parent = kv.1))).map Prod.fst

/-- Those of a cluster's workgroups whose work on it is lost with the cluster: what they own there (R433). -/
def State.lostWith (s : State) (k : Nat) : List Nat :=
  let chains := s.clusterChains k
  (s.onCluster k).filter fun w => (s.wg? w).any (fun W => (List.range 4).any fun i => W.onCore (4 * k + i))
    || chains.any fun ec => decide (ec.2.owner.wg = some w)

/-- End a chain that no workgroup owns: a launch record's completes with STATE 0x04, as a grid of no workgroups would, which the
dispatcher's fault can park; `quiet` leaves out its signal (R366, R433, R456). -/
def State.killLoneChain (s : State) (e : Nat) (c : Chain) (quiet : Bool) : State :=
  let s := s.killChain e c false
  match c.owner.vnum, c.owner.record with
  | some v, some rec =>
    let (n, s) := s.newId
    let D : Grid := { (LaunchRec.mk rec []).grid v 0 0 [] none with killed := true, quiet := quiet }
    ({ s with grids := SMap.put n D s.grids } : State).finishGrid n
  | _, _ => s

/-- The arbiters of a cluster: its quarters, Ladles, posting-list engine and port (R432, R442). -/
def clusterArb (k arb : Nat) : Bool :=
  decide (arb / 16 = k ∧ arb < 2000) || decide (arb / 2 = 1000 + k ∧ arb < 3000) || decide (arb = 3000 + k) || decide (arb = 5000 + k)

/-- Packets that a cluster may have begun: one for each lane of its gangs' words whose accesses are still to be performed, and one for
each working chain of its engines. -/
def State.inFlight (s : State) (k : Nat) : Nat :=
  ((s.gangs.filter fun kv => decide (clusterOf kv.2.place.core = k) && decide (s.wgStage kv.2 ≠ some .saved)).map fun kv =>
    ((kv.2.pend.filter fun p => !p.done && p.park.isNone && !p.xlats.isEmpty).map fun p => (setBits p.todo).length).sum).sum
  + ((s.clusterChains k).filter fun ec => decide (ec.2.stage = .working)).length

/-- Return a cluster to its state after power-on: cores, engines, caches, TLB, queue and sprues are empty, and %clk of its
cores is 0 (R433). -/
def State.clearCluster (s : State) (k : Nat) : State :=
  let s := { s with
    cores := (List.range 4).foldl (fun m i => SMap.put (4 * k + i) { Core.init with clkBase := s.now, issued := s.now } m) s.cores,
    clusters := SMap.put k Cluster.init s.clusters,
    engines := SMap.erase (2 * k) (SMap.erase (2 * k + 1) (SMap.erase (216 + k) s.engines)),
    twins := SMap.erase (2 * k) (SMap.erase (2 * k + 1) s.twins),
    buckets := s.buckets.filter fun b => !clusterArb k (b.1 / 128) }
  s

/-- The reset of a cluster takes effect: what was not saved is killed, the packets it had begun are dropped and counted, and the
cluster is emptied, its port's allowances returned (R432, R433). -/
def State.resetCluster (s : State) (p k : Nat) : State :=
  let c := 9 * p + k
  let detail := 0x10000 + k
  let n := Config.begunPackets s.fresh % (s.inFlight c + 1)
  let s := ({ s with fresh := s.fresh + 1 } : State)
  let s := if n = 0 then s else s.countMany p 0x100 n
  let s := (s.lostWith c).foldl (fun s w => s.killWg w (some detail) false) s
  let tasks := (s.cluster c).tasks
  let s := tasks.foldl (fun s t =>
    let s := s.resetRecord p { Agent.none with grid := (s.grid? t.grid).elim 0 Grid.id, wg := 0xFFFFFFFF } detail
    (s.modGrid t.grid fun D => { D with killed := true, live := D.live - 1 }).finishGrid t.grid)
    ((s.headGone c).modCluster c fun K => { K with tasks := [] })
  let s := (s.clusterChains c).foldl (fun s ec => s.killLoneChain ec.1 ec.2 false) s
  (s.clearCluster c).modPart p fun P => { P with port := { P.port with reset := none, done := true, error := false } }

/-- Whether the workgroups of a cluster being reset have all been saved, or their time is over (R433). -/
def State.resetDue (s : State) (p k start : Nat) : Bool :=
  (s.onCluster (9 * p + k)).isEmpty || decide (start + 2 ^ 20 ≤ s.now)

/-- CLUSTER_RESET_DEADLINE: the contexts of a cluster that CLRESET resets are saved, or their 2^20 clk are over (R433). -/
def execClusterResetDeadline (p : Nat) (s : State) : Host.Outcome State Fault Refusal :=
  .next (match (s.part p).port.reset with
    | some (k, start) => if s.resetDue p k start && !s.stopped p then s.resetCluster p k else s
    | none => s)

end Sys2Proof.Machine
end

