-- ==== Sys2Proof/Machine/Replay.lean ====
section
/-! DEFINITION. Firmware's answers to parked agents, REPLAY and ESCALATE, and the return of a saved context (R372-R374,
R391). -/

namespace Sys2Proof.Machine

/-! ## The translation command port (R359) -/

/-- An access that a drain waits for is still outstanding: neither complete nor parked, nor behind a parked word of its gang, so that
it has no translation yet (R363, R367). -/
def State.outstanding (s : State) (w : Nat × Nat) : Bool :=
  (s.gang? w.1).any fun G => (G.pend.any fun x => decide (x.id = w.2) && !x.done && x.park.isNone)
    && (G.pend.takeWhile fun x => decide (x.id ≠ w.2)).all fun x => x.done || x.park.isNone

/-- Set the port's done and error bits at the end of a command. -/
def State.portDone (s : State) (p : Nat) (error : Bool) : State :=
  s.modPart p fun P => { P with port := { P.port with done := true, error := error, drain := none } }

/-- Accesses that a drain has not waited for keep no translation from before it: they are translated anew (R363, R365, R367). -/
def State.forgetLeaves (s : State) (waits : List (Nat × Nat)) : State :=
  waits.foldl (fun s w => s.modGang w.1 fun G => { G with pend := G.pend.map fun x => if x.id = w.2 then { x with xlats := [] } else x }) s

/-- A flush whose accesses are all performed completes (R363). -/
def State.settleDrain (s : State) (p : Nat) : State :=
  match (s.part p).port.drain with
  | some d => if d.waits.any s.outstanding then s else (s.forgetLeaves d.waits).portDone p false
  | none => s

/-- A command of the port: the port takes commands one at a time and in order, none in a halted partition; no
effect at all is a refusal, with the error bit (R359, R381). -/
def State.portCommand (s : State) (p : Nat) (f : State → Option State) : State :=
  if s.stopped p || !s.inService p then s
  else
    let s := s.settleDrain p
    if (s.part p).port.drain.isSome || (s.part p).port.reset.isSome then s
    else
      match f (s.modPart p fun P => { P with port := { P.port with done := false, error := false } }) with
      | none => s.portDone p true
      | some t =>
        if (t.part p).port.drain.isSome || (t.part p).port.reset.isSome then t.settleDrain p else t.portDone p false

/-! ## Re-issue (R372) -/

/-- An attempt at the unfinished lanes of a parked word, by the word (R121, R237, R266). -/
def retryWord (g : Nat) (G : Gang) (ag : Agent) (p : Pend) (ls : List Nat) (s : State) : Try :=
  match p.word with
  | .xldp _ => runXldp g G ag p ls s
  | .xpat f => runXpat f g G ag p ls s
  | .sdec f => runSdec f g G ag p ls s
  | .tld _ | .tst _ => tileTry g G ag p ls s
  | _ => wordTry g G ag p ls s

/-- Re-issue a parked lane or Marver word; a tile word re-issues once R249 allows it (R249, R266, R372). -/
def State.replayWord (s : State) (g op : Nat) : State :=
  match s.gang? g with
  | none => s
  | some G =>
    match G.pend.find? fun x => decide (x.id = op) with
    | none => s
    | some p =>
      match p.park with
      | none => s
      | some k => if p.kind = .tile then s.setPark (.word g op) (some k.released) else s.retry g G p k (retryWord g G)

/-- Let a gang parked at a scalar word go on: it issues the word again; after TRAP it goes on at the next word (R372). -/
def State.replayScalar (s : State) (g : Nat) (k : Park) : State :=
  match s.gang? g with
  | none => s
  | some G =>
    if G.wait = .trap then (s.putGang g { G.next with wait := .none, park := none })
    else
      let wait : Wait := if G.sp.fmt.isEmpty then .formatImage else .none
      s.putGang g { G with wait := wait, park := some k.released }

/-- Re-issue what a parked agent has not finished (R372). -/
def State.replayNow (s : State) (a : Parked) (k : Park) : State :=
  match a with
  | .word g op => s.replayWord g op
  | .scalar g => s.replayScalar g k
  | .run g n => s.fetchRun g n
  | .chain _ _ | .away _ _ | .record _ _ => s.setPark a (some k.released)
  | .grid n => (s.setPark a (some k.released)).finishGrid n
  | .inbound n =>
    match SMap.find? n s.inbound with
    | some i => s.inboundServe i.req (some (n, k))
    | none => s

/-- The gang of a parked agent is saved. -/
def State.agentSaved (s : State) (a : Parked) : Bool :=
  match a with
  | .word g _ | .scalar g | .run g _ => (s.gang? g).any fun G => decide (s.wgStage G = some .saved) || decide (s.wgStage G = some .setup)
  | _ => false

/-- REPLAY: acts on the agent of the group that holds the record; one that is saved is replayed when it returns (R372). -/
def execReplay (p seq : Nat) (s : State) : Host.Outcome State Fault Refusal :=
  .next (s.portCommand p fun s => some (
    match s.parkedBy p seq with
    | none => s
    | some a =>
      match s.parkOf a with
      | none => s
      | some k => if s.agentSaved a then s.setPark a (some k.released) else s.replayNow a k))

/-- ESCALATE: a record of cause 0x18 that names the SEQ, with the fields of the parked fault, halts the partition (R374). -/
def execEscalate (p seq : Nat) (s : State) : Host.Outcome State Fault Refusal :=
  .next (s.portCommand p fun s => some (
    match s.parkedBy p seq with
    | none => s
    | some a =>
      match s.parkOf a with
      | none => s
      | some k =>
        let page := (k.recs.find? fun r => decide (r.seq = seq)).map ParkRec.page
        let fs := pageGroups k.faults
        match (fs.find? fun f => decide (some (f.1.va / 4096) = page)) <|> fs.head? with
        | some (f, lanes) =>
          let ag := s.parkedAgent a
          let pcm := if ag.kind = 0 then lanes else if ag.kind = 1 then 1 else 0
          s.halt p ag { f with cause := 0x18, detail := seq } pcm
        | none => s))

/-! ## Return (R39, R282, R391) -/

/-- The engine of a returning chain: the one of the same number in the cluster of its new place (R282). -/
def returnEngine (cluster n : Nat) : Nat :=
  if n < 2 then 2 * cluster + n else if n = 2 then 216 + cluster else 324 + 4 * (cluster / 54) + (n - 4)

/-- A workgroup's engines can take a chain of it back: the chain's engine has room for all that return to it, and its buffer is not
held for another chain (R282). -/
def State.canTakeBack (s : State) (W : Wg) (a : Away) : Bool :=
  let e := returnEngine (clusterOf W.core) a.eng
  decide ((s.engine e).chains.length + (W.away.filter fun x => decide (x.eng = a.eng)).length ≤ engineRoom)
  && (!a.chain.holdBuf || (((s.engine e).cur.bind (s.chain? e)).all fun c => !s.keeps e c))

/-- Sprue bindings of a chain follow it to its new engine (R304). -/
def State.rebindChain (s : State) (p e c : Nat) : State :=
  let move (b : Binder) : Binder := match b with
    | .chain _ x => if x = c then .chain e c else b
    | .gang _ _ => b
  let one (q : Sprue) : Sprue := { q with producer := q.producer.map move, consumer := q.consumer.map move }
  (List.range 9).foldl (fun s i =>
    if (s.cluster (9 * p + i)).sprues.isEmpty then s
    else s.modCluster (9 * p + i) fun K => { K with sprues := SMap.mapV (fun _ q => one q) K.sprues }) s

/-- A saved chain goes back to an engine, with the buffer bytes it holds (R282, R291); the path caches of its cluster give up their
lines, which may be older than its earlier blocks' writes (R279). -/
def State.chainBack (s : State) (w : Nat) (W : Wg) (a : Away) : State :=
  let k := clusterOf W.core
  let e := returnEngine k a.eng
  let c := a.chain
  let core := match c.owner.gang.bind s.gang? with
    | some G => some G.place.core
    | none => c.owner.core
  let c := { c with owner := { c.owner with core := core, clu := k } }
  let s := s.modEngine e fun E =>
    let E := { E with chains := E.chains ++ [c] }
    if c.holdBuf then { E with cur := some c.id, buf := a.buf, bufSc := a.bufSc, bufBad := a.bufBad, bufWr := a.bufWr } else E
  let fix (h : Handle) : Handle := if h.chain = c.id then { h with engine := e } else h
  let s := W.gangs.foldl (fun s g => s.modGang g fun G =>
    { G with eng := { G.eng with handles := SMap.mapV (fun _ h => fix h) G.eng.handles } }) s
  let move (x : Parked) : Parked := if x = .away w c.id then .chain e c.id else x
  let s := s.modCluster k fun K => { K with tile := [], stream := [] }
  (s.modPart c.owner.part fun P => { P with groups := P.groups.map move }).rebindChain c.owner.part e c.id

/-- The parked agents of a gang whose replay is pending (R372). -/
def Gang.pendingReplays (G : Gang) (g : Nat) : List (Parked × Park) :=
  let due (k : Option Park) (a : Parked) : List (Parked × Park) :=
    match k with
    | some k => if k.replay then [(a, k)] else []
    | none => []
  due G.park (.scalar g) ++ G.pend.flatMap (fun x => due x.park (.word g x.id))
    ++ G.runs.flatMap fun r => due r.park (.run g r.serial)

/-- CONTEXT_RESTORE: a saved workgroup whose new place is ready is rebuilt there from its image, acquires, and goes on; pending
replays re-issue (R372, R391). -/
def execContextRestore (w : Nat) (s : State) : Host.Outcome State Fault Refusal :=
  .next (match s.wg? w with
    | none => s
    | some W =>
      if W.stage ≠ .setup ∨ W.saved = false ∨ s.waysReady w W = false ∨ s.stopped (partOfCluster (clusterOf W.core)) = true
          ∨ (W.away.all (s.canTakeBack W)) = false then s
      else
        let s := (s.chargeImage w false).acquireCores W
        let s := W.away.foldl (fun s a => s.chainBack w W a) s
        let s := s.modWg w fun W => { W with stage := .running, saved := false, away := [] }
        let due := W.gangs.flatMap fun g => (s.gang? g).elim [] fun G => G.pendingReplays g
        due.foldl (fun s ak => s.replayNow ak.1 ak.2) s)

end Sys2Proof.Machine
end

