-- ==== Sys2Proof/Machine/Firmware.lean ====
section
/-! DEFINITION. What the firmware orders: the commands of the translation command port, contexts, the tables of virtual
devices and rates, the remap registers, grants, strict mode, partition reset, Gaffer chains and the debugger (R347, R359-R364,
R376, R381, R392, R425, R427, R433, R438-R443, R450, R482). -/

namespace Sys2Proof.Machine

/-- The clusters of a partition (R424). -/
def clustersOf (p : Nat) : List Nat := (List.range 9).map fun i => 9 * p + i

/-- Change every core of a partition that is listed. -/
def State.eachCore (s : State) (p : Nat) (f : State → Nat → State) : State :=
  (List.range 36).foldl (fun s i => f s (36 * p + i)) s

/-- Change every cluster of a partition that is listed. -/
def State.eachCluster (s : State) (p : Nat) (f : Cluster → Cluster) : State :=
  (clustersOf p).foldl (fun s k => s.modCluster k f) s

/-! ## GENRAISE, ASFLUSH, PTSYNC, PGCLEAN (R360-R364) -/

/-- GENRAISE: the next generation; what carries it from 256 raises ago is dropped everywhere (R361, R362). -/
def execGenraise (p asid : Nat) (s : State) : Host.Outcome State Fault Refusal :=
  .next (s.portCommand p fun s =>
    if partOfVnum asid ≠ p then none
    else
      let gen := ((s.ctx asid).gen + 1) % 256
      let s := s.modCtx asid fun c => { c with gen := gen }
      let s := s.eachCluster p fun K => { K with tlb := K.tlb.filter fun t => !(decide (t.asid = asid) && decide (t.gen = gen)) }
      let s := s.eachCore p fun s c => s.dropLines c fun l => decide (l.asid = asid) && decide (l.gen = gen)
      some (s.eachCore p fun s c => s.modCore c fun C =>
        { C with pats := C.pats.filter fun e => !(decide (e.asid = asid) && decide (e.gen = gen)) }))

/-- The outstanding accesses of a partition's gangs that satisfy a test. -/
def State.accesses (s : State) (p : Nat) (t : Gang → Pend → Bool) : List (Nat × Nat) :=
  s.gangs.flatMap fun kv =>
    if partOfVnum kv.2.vnum ≠ p then []
    else (kv.2.pend.filter fun x => !x.done && x.park.isNone && t kv.2 x).map fun x => (kv.1, x.id)

/-- An operation that translates: a load, a store, a pattern load, a tile move. -/
def Pend.accessing (x : Pend) : Bool :=
  match x.kind with
  | .load | .store | .xldp | .tile | .marver => true
  | _ => false

/-- ASFLUSH: everything of the address space is dropped, then the port waits for the accesses translated before (R363). -/
def execAsflush (p asid : Nat) (s : State) : Host.Outcome State Fault Refusal :=
  .next (s.portCommand p fun s =>
    if partOfVnum asid ≠ p then none
    else
      let waits := s.accesses p fun G x => decide (G.vnum = asid) && x.accessing
      let s := s.eachCore p fun s c => (s.dropLines c fun l => decide (l.asid = asid)).modCore c fun C =>
        { C with const := [], pats := C.pats.filter fun e => decide (e.asid ≠ asid) }
      let s := s.eachCluster p fun K =>
        { K with tlb := K.tlb.filter fun t => decide (t.asid ≠ asid), walk := K.walk.filter fun w => decide (w.1 ≠ asid),
                 tile := [], stream := [] }
      some (s.modPart p fun P => { P with port := { P.port with drain := some ⟨asid, s.now, waits⟩ } }))

/-- PTSYNC: every walker of the partition drops its walk cache, and sees the contexts as they stand (R347, R360). -/
def execPtsync (p : Nat) (s : State) : Host.Outcome State Fault Refusal :=
  .next (s.portCommand p fun s => some ((List.range 8).foldl (fun s i => s.modCtx (8 * p + i) fun c => { c with prior := [] })
    (s.eachCluster p fun K => { K with walk := [] })))

/-- Bytes of a PGCLEAN size (R359). -/
def cleanSize (size : Nat) : Nat := [4096, 65536, 2 ^ 21, 2 ^ 30].getD size 4096

/-- Whether an outstanding access reaches a physical range, by the leaves through which it was translated or by those in force (R364,
R365, R377). -/
def State.reaches (s : State) (G : Gang) (x : Pend) (lo n : Nat) : Bool :=
  let es := x.reach (setBits x.lanes)
  commonByte [(lo, n)] (extentsBy x.oldLeaf es ++ s.physical (clusterOf G.place.core) G.vnum es)

/-- PGCLEAN: as ASFLUSH for every address space, for what lies in a physical range (R364). -/
def execPgclean (p size page : Nat) (s : State) : Host.Outcome State Fault Refusal :=
  .next (s.portCommand p fun s =>
    let n := cleanSize size
    let lo := page * 4096
    if 4 ≤ size ∨ 2 ^ 40 ≤ page ∨ lo % n ≠ 0 then none
    else
      let inside := fun (pa : Nat) => decide (lo ≤ pa) && decide (pa < lo + n)
      let meets := fun (a m : Nat) => decide (a < lo + n) && decide (lo < a + m)
      let waits := s.accesses p fun G x => x.accessing && s.reaches G x lo n
      let s := s.eachCore p fun s c => (s.dropLines c fun l => inside l.pa).modCore c fun C =>
        { C with const := C.const.filter fun l => !inside l.pa,
                 pats := C.pats.filter fun e => !inside e.pa && !inside e.pa2 }
      let s := s.eachCluster p fun K =>
        { K with tlb := K.tlb.filter fun t => !meets (entryPa t.entry) (pageSize t.lvl),
                 walk := K.walk.filter fun w => !inside w.2.1 && !meets (entryPa w.2.2) 4096,
                 tile := K.tile.filter fun l => !inside l.pa, stream := K.stream.filter fun l => !inside l.pa }
      some (s.modPart p fun P => { P with port := { P.port with drain := some ⟨0xFF, s.now, waits⟩ } }))

/-- The bound on a drain: 20 µs (R363). -/
def drainBound : Nat := 18800

/-- FLUSH_TIMEOUT: a drain that is not over 18,800 clk after its first step halts the partition (R363, R364). -/
def execFlushTimeout (p : Nat) (s : State) : Host.Outcome State Fault Refusal :=
  .next (
    if s.stopped p then s
    else
      let s := s.settleDrain p
      match (s.part p).port.drain with
      | some d => if d.start + drainBound ≤ s.now then s.halt p Agent.none (plainFault 0x1A 0 0 d.detail) 0 else s
      | none => s)

/-- CLRESET: the contexts on a cluster are pre-empted; the reset takes effect once they are saved or their time is over
(R433). -/
def execClreset (p k : Nat) (s : State) : Host.Outcome State Fault Refusal :=
  .next (s.portCommand p fun s =>
    let s := s.modPart p fun P => { P with port := { P.port with reset := some (k, s.now) } }
    some ((s.onCluster (9 * p + k)).foldl (fun s w => s.beginSave (s.together w)) s))

/-- A 64-bit word written to the command port: the command that its CMD field names, with its operands; any other CMD value, or a
non-zero bit that the table does not assign, is refused (R359). -/
def commandWord (p w : Nat) (s : State) : Host.Outcome State Fault Refusal :=
  let refuse : Host.Outcome State Fault Refusal := .next (s.portCommand p fun _ => none)
  let only := fun (n : Nat) (t : Host.Outcome State Fault Refusal) => if bits w 55 n = 0 then t else refuse
  match bits w 63 56 with
  | 1 => only 7 (execGenraise p (bits w 6 0) s)
  | 2 => only 7 (execAsflush p (bits w 6 0) s)
  | 3 => only 0 (execPtsync p s)
  | 4 => only 48 (execReplay p (bits w 47 0) s)
  | 5 => only 42 (execPgclean p (bits w 41 40) (bits w 39 0) s)
  | 6 => only 48 (execEscalate p (bits w 47 0) s)
  | 7 => if bits w 55 4 = 0 ∧ bits w 3 0 ≤ 8 then execClreset p (bits w 3 0) s else refuse
  | _ => refuse

/-- TRANSLATION_CONTEXT_WRITE: EN and ROOT; GEN stays; until a PTSYNC a walk may see any word that was written before
(R347). -/
def execTranslationContextWrite (asid : Nat) (val : DWord) (s : State) : Host.Outcome State Fault Refusal :=
  .next (if s.inService (partOfVnum asid) then s.modCtx asid fun c =>
    { c with en := bit val.toNat 63, root := entryPa val.toNat, prior := (c.en, c.root) :: c.prior } else s)

/-! ## The package mailbox (R453, R477) -/

/-- A request of the package mailbox: answered only while the device runs; refused where it names a partition that is not
available; none of the request's effects is a refusal too (R453, R477). -/
def State.mailbox (s : State) (ps : List Nat) (f : State → Option State) : State :=
  if !s.up then s
  else
    let no := ({ s with pkg := { s.pkg with mailErr := true } } : State).emit .mailboxError
    if (ps.all fun p => bit s.pkg.parts p) = false then no
    else
      match f s with
      | none => no
      | some t => ({ t with pkg := { t.pkg with mailErr := false } } : State).emit .mailboxOk

/-! ## Virtual devices and rates (R438-R443, R450) -/

/-- A control word without a reserved bit (R440). -/
def ctlOk (ctl : Nat) : Bool := decide (ctl % 2 ^ 62 = 0)

/-- A rate word whose own fields are legal (R440, R441): index 1 holds the way quota. -/
def rateOk (i w : Nat) : Bool :=
  decide (bits w 63 36 = 0) && decide (bits w 31 17 = 0) && decide (bits w 15 11 = 0)
  && decide (w % 2048 ≤ if i = 1 then 16 else 1024) && (decide (w % 2048 = 0) || decide (bits w 35 32 ≠ 0))

/-- The sums over the virtual devices that exist (R441). -/
def sumsOk (table : SMap VdevEntry) : Bool :=
  (List.range 7).all fun i =>
    let sum := table.foldl (fun n kv => if kv.2.en then n + kv.2.rates.getD i 0 % 2048 else n) 0
    decide (sum ≤ if i = 1 then 16 else 992)

/-- A sprue that holds entries or a binding. -/
def Sprue.held (q : Sprue) : Bool := !q.entries.isEmpty || q.producer.isSome || q.consumer.isSome

/-- What keeps a virtual device from being destroyed (R441): work, a chain, an entered record, a held sprue. -/
def State.vdevBusy (s : State) (v : Nat) : Bool :=
  (s.grids.any fun kv => decide (kv.2.vnum = v))
  || (s.engines.any fun kv => kv.2.chains.any fun c => decide (c.owner.vnum = some v))
  || ((s.part (partOfVnum v)).sprues.any fun x => decide (x.2 = v) && (s.sprue (partOfVnum v) x.1).held)

/-- The arbiters of a partition that are its own: its quarters, Ladles, posting-list engines, HBM controller and ports. -/
def ownArbiters (p : Nat) : List Nat :=
  (List.range 144).map (144 * p + ·) ++ (List.range 18).map (2000 + 18 * p + ·) ++ (List.range 9).map (3000 + 9 * p + ·)
  ++ [4000 + p] ++ (List.range 9).map (5000 + 9 * p + ·)

/-- The shared arbiters: ring stops and link ports (R442). -/
def sharedArbiters : List Nat := (List.range 12).map (6000 + ·) ++ (List.range 42).map (7000 + ·)

/-- Before a table write, each arbiter's bucket stands as it is until the arbiter's next period (R450). -/
def State.holdBuckets (s : State) (v : Nat) : State :=
  (ownArbiters (partOfVnum v) ++ sharedArbiters).foldl (fun s arb => s.holdBucket arb v) s

/-- The holders of a partition: its virtual devices and its firmware. -/
def holdersOf (p : Nat) : List Nat := (List.range 8).map (8 * p + ·) ++ [96 + p]

/-- Before a write of the port shares, the buckets at the shared arbiters of the partitions whose share changes stand as they are until
the arbiter's next period (R443, R450). -/
def State.holdShared (s : State) (ps : List Nat) : State :=
  sharedArbiters.foldl (fun s arb => (ps.flatMap holdersOf).foldl (fun s holder => s.holdBucket arb holder) s) s

/-- A write of a virtual device's table entry and of the sprues it is assigned; none where the table refuses it (R303, R440,
R441). -/
def State.writeVdev (s : State) (p i : Nat) (ctl : DWord) (rates : List DWord) (sprues : List Nat) : Option State :=
  let v := 8 * p + i
  let P := s.part p
  let en := bit ctl.toNat 63
  let ws := rates.map BitVec.toNat
  let table := SMap.put i ⟨en, bit ctl.toNat 62, ws⟩ P.table
  let legal := !en || (ctlOk ctl.toNat && ws.zipIdx.all fun w => rateOk w.2 w.1)
  let taken := sprues.any fun n => (SMap.find? n P.sprues).any fun u => decide (u ≠ v)
  if !legal || !sumsOk table || taken || (!en && (SMap.getD i VdevEntry.init P.table).en && s.vdevBusy v) then none
  else
    let s := s.holdBuckets v
    let mine := P.sprues.filter fun x => decide (x.2 ≠ v)
    let assigned := if en then sprues.foldl (fun m n => SMap.put n v m) mine else mine
    some (s.modPart p fun P => { P with table := table, sprues := assigned, tblError := false })

/-- VDEV_TABLE_WRITE: a refused write sets the table's error bit (R441, R450, R477). DESIGN CHOICE, log entry 72: determinism mode is
the DET bit as written, also in the write that sets EN. -/
def execVdevTableWrite (p i : Nat) (ctl : DWord) (rates : List DWord) (sprues : List Nat) (s : State) :
    Host.Outcome State Fault Refusal :=
  .next (
    let t := s.mailbox [p] fun s => s.writeVdev p i ctl rates sprues
    if s.inService p && (s.writeVdev p i ctl rates sprues).isNone then t.modPart p fun P => { P with tblError := true } else t)

/-- BUCKET_REFILL: a period of an arbiter begins (R443, R450). -/
def execBucketRefill (arb : Nat) (s : State) : Host.Outcome State Fault Refusal :=
  .next (
    let n := SMap.getD arb 0 s.periods
    if s.now < (n + 1) * 1024 then s
    else
      { s with buckets := SMap.mapV (fun key b => if key / 128 = arb then s.nextBucket arb (key % 128) b else b) s.buckets,
               periods := SMap.put arb (n + 1) s.periods })

/-- PORT_SHARE_WRITE: the twelve port shares; a sum above 1,024 is refused (R438). -/
def execPortShareWrite (shares : List Nat) (s : State) : Host.Outcome State Fault Refusal :=
  let ps := (List.range 12).filter fun p => decide (shares.getD p 0 ≠ s.share p)
  .next (s.mailbox ps fun s =>
    if 1024 < shares.foldl (· + ·) 0 then none
    else
      let s := s.holdShared ps
      some { s with pkg := { s.pkg with shares := (List.range 12).map fun p => (p, shares.getD p 0) } })

/-- READ_GRANT_SET: read access to a range of another partition's stack (R425). -/
def execReadGrantSet (p lo hi : Nat) (s : State) : Host.Outcome State Fault Refusal :=
  .next (s.mailbox [p] fun s =>
    match stackOf lo with
    | some q =>
      if q = p ∨ hi ≤ lo ∨ stackBase q + stackSize < hi ∨ bit s.pkg.parts q = false then none
      else some (s.modPart p fun P => { P with readOnly := P.readOnly ++ [(lo, hi)] })
    | none => none)

/-- STRICT_MODE_SET (R392). -/
def execStrictModeSet (p : Nat) (on : Bool) (s : State) : Host.Outcome State Fault Refusal :=
  .next (s.mailbox [p] fun s => some (s.modPart p fun P => { P with strict := on }))

/-! ## Remap registers (R427) -/

/-- A partition holds work: grids, workgroups, chains. -/
def State.holdsWork (s : State) (p : Nat) : Bool :=
  (s.grids.any fun kv => decide (partOfVnum kv.2.vnum = p))
  || (s.engines.any fun kv => kv.2.chains.any fun c => decide (c.owner.part = p))

/-- A slice's line is lost: memory's older copy stands, of the bytes, scale bytes and tag that were masked, and of the poison (R427,
R428). -/
def State.loseLine (s : State) (l : SliceLine) : State :=
  if l.replica then s
  else
    let s := { s with
      mem := ((List.range 256).filter (bit l.wm)).foldl (fun m i => Memory.setByte m (256 * l.line + i) (Memory.byte l.old i)) s.mem,
      side := ((List.range 17).filter (bit l.sm)).foldl (fun m j => Memory.setByte m (32 * l.line + j) (Memory.byte l.oldSide j)) s.side }
    ((List.range 4).foldl (fun s i => s.setSectorBad (4 * l.line + i) (bit l.oldBad i)) s).setSideBad l.line (bit l.oldBad 4)

/-- The slices of a sector lose their contents, their shadow areas too (R245, R427, R428). -/
def State.loseSlices (s : State) (sector : Nat) : State :=
  let here := fun (key : Nat) => decide (key / 17 = sector)
  let s := (s.slices.filter fun kv => here (kv.1 / 1024)).foldl (fun s kv => kv.2.foldl State.loseLine s) s
  { s with slices := s.slices.filter fun kv => !here (kv.1 / 1024), cells := s.cells.filter fun kv => !here kv.1 }

/-- REMAP_REGISTER_WRITE (R427). -/
def execRemapRegisterWrite (sector : Nat) (val : Word) (s : State) : Host.Outcome State Fault Refusal :=
  .next (
    let idle := fun (p : Nat) => (s.part p).halted || !s.holdsWork p
    if bits val.toNat 30 4 ≠ 0 ∨ s.up = false then s
    else if !idle (2 * sector) || !idle (2 * sector + 1) then { s with pkg := { s.pkg with remapErr := true } }
    else
      let s := s.loseSlices sector
      { s with pkg := { s.pkg with remap := SMap.put sector val s.pkg.remap, remapErr := false } })

/-! ## Partition reset (R381, R394, R433) -/

/-- Zero a partition's counter page (R394), line by line at its home (R431). -/
def State.clearCounters (s : State) (p : Nat) : State :=
  (List.range 16).foldl (fun s i =>
    s.homeWrite (Req.firmware p) (stackBase p + (s.part p).ctrPage + 256 * i) (List.replicate 256 0) false) s

/-- Reset a partition: its cores, engines, caches, TLBs and queues are empty and it runs again, and acceptance numbers start at 1;
HBM, the fault record queue with the records that wait for a place in it, and the stop area stay (R331, R369, R381). -/
def State.resetPartition (s : State) (p : Nat) : State :=
  let gone := fun (n : Nat) => (s.grid? n).any fun D => decide (partOfVnum D.vnum = p)
  let s := { s with
    gangs := s.gangs.filter fun kv => decide (partOfVnum kv.2.vnum ≠ p),
    wgs := s.wgs.filter fun kv => !gone kv.2.grid,
    grids := s.grids.filter fun kv => decide (partOfVnum kv.2.vnum ≠ p),
    inbound := s.inbound.filter fun kv => decide (kv.2.part ≠ p),
    buckets := s.buckets.filter fun kv => !(ownArbiters p).contains (kv.1 / 128),
    periods := s.periods.filter fun kv => !(ownArbiters p).contains kv.1 }
  let s := { s with engines := SMap.mapV (fun _ (E : Engine) =>
    { E with chains := E.chains.filter fun c => decide (c.owner.part ≠ p) }) s.engines }
  let s := (clustersOf p).foldl State.clearCluster s
  let s := (List.range 8).foldl (fun s i => s.modVdev (8 * p + i) fun V =>
    { V with chains := SMap.mapV (fun _ (l : LaunchChain) => { l with park := none, stage := .fresh }) V.chains }) s
  (s.clearCounters p).modPart p fun P =>
    { P with halted := false, halting := false, hseq := 0, toStop := [], groups := [], port := ⟨false, false, none, none⟩,
             swapped := [], first := [], reserved := none, coreNext := 0, twinNext := 0, cluNext := 0, rotor := 0, acceptSeq := 1 }

/-- PARTITION_RESET: the host asks for the reset of a halted partition (R381, R453). -/
def execPartitionReset (p : Nat) (s : State) : Host.Outcome State Fault Refusal :=
  .next (s.mailbox [p] fun s => if (s.part p).halted then some (s.resetPartition p) else none)

/-! ## Gaffer chains and the debugger (R376, R482) -/

/-- GAFFER_CHAIN_START: firmware starts a chain on a Ladle of its partition; it has no owner (R376). -/
def execGafferChainStart (p ladle addr : Nat) (s : State) : Host.Outcome State Fault Refusal :=
  .next (
    let e := 18 * p + ladle
    if s.stopped p || s.engineFull e || !s.inService p then s
    else s.addChain e addr 0 ⟨none, none, none, none, 0, none, none, p, e / 2⟩)

/-- DEBUGGER_ENABLE, by the sideband (R482). -/
def execDebuggerEnable (vnum : Nat) (on : Bool) (s : State) : Host.Outcome State Fault Refusal :=
  .next (if s.pkg.power = .off then s else s.modVdev vnum fun V => { V with debug := on })

end Sys2Proof.Machine
end

