-- ==== Sys2Proof/Machine/Boot.lean ====
section
/-! DEFINITION. The start of the package, its power states, attestation, and the sideband (R475-R482). -/

namespace Sys2Proof.Machine

/-! ## One attempt to start (R475) -/

/-- Where an attempt fails: REASON, RSECT, RDETAIL (R475, R477). -/
structure StartFail where
  reason : Nat
  sect   : Nat
  detail : Nat

def lowest : List Nat → Option Nat
  | [] => none
  | a :: t => some (t.foldl min a)

/-- Failed physical slices of a sector: 17 slices, 16 the spare (R427). -/
def BootFacts.failedSlices (F : BootFacts) (sector : Nat) : List Nat :=
  ((SMap.getD sector [] F.badSlice).filter fun j => decide (j < 17)).eraseDups

/-- A sector whose two stacks train (R475 step 3). -/
def BootFacts.trains (F : BootFacts) (sector : Nat) : Bool :=
  !F.badStack.contains (2 * sector) && !F.badStack.contains (2 * sector + 1)

/-- A sector that steps 3 and 4 pass: both stacks train and at most one physical slice has failed (R427, R475). -/
def BootFacts.passes (F : BootFacts) (sector : Nat) : Bool := F.trains sector && decide ((F.failedSlices sector).length ≤ 1)

/-- What the vendor has signed: the signature verifies under a public key whose digest the boot ROM holds (R478). -/
def vendorSigned (romKey key sig : Nat) (data : List Nat) : Bool := decide (Config.shake256 key = romKey) && Config.xmssVerifies key data sig

/-- The image's signature is accepted; once the debug fuse is unlocked, that of a production-signed image is not (R478, R482). -/
def BootFacts.signed (F : BootFacts) (romKey : Nat) (debugFuse : Bool) : Bool :=
  vendorSigned romKey F.key F.sig [F.image] && !(debugFuse && F.production)

/-- Steps 1 and 2. -/
def BootFacts.failsEarly (F : BootFacts) (k : Package) : Option StartFail :=
  if !F.signed k.romKey k.debugFuse then some ⟨0x01, 0xFF, 0⟩
  else if F.svn < k.svnFuse then some ⟨0x02, 0xFF, 0⟩
  else if !F.linkOk then some ⟨0x05, 0xFF, 0⟩
  else none

/-- The first of the later steps of an attempt that fails (R475). -/
def BootFacts.failsLate (F : BootFacts) : Option StartFail :=
    match lowest (F.badStack.filter fun k => decide (k < 12)), F.badPart, F.badTier, F.badUal with
    | some k, _, _, _ => some ⟨0x03, k / 2, k⟩
    | none, some p, _, _ => some ⟨0x08, p / 2, p⟩
    | none, none, some k, _ => some ⟨0x06, 0xFF, k⟩
    | none, none, none, some k => some ⟨0x07, 0xFF, k⟩
    | none, none, none, none => if F.tempOk then none else some ⟨0x09, 0xFF, 0⟩

/-- The remap register that step 4 writes for a sector: its one failed slice is served by the spare (R427). -/
def BootFacts.remapOf (F : BootFacts) (sector : Nat) : Word :=
  match F.failedSlices sector with
  | [j] => if j < 16 then BitVec.ofNat 32 (2 ^ 31 + j) else 0
  | _ => 0

/-- The first of the later steps of the minimal start with sector `x` that fails; the second-tier ports and UALink are not trained
(R476). -/
def BootFacts.failsMinimal (F : BootFacts) (x : Nat) : Option StartFail :=
  match lowest (F.badStack.filter fun k => decide (k / 2 = x)), F.badPart.filter fun p => decide (p / 2 = x) with
  | some k, _ => some ⟨0x03, x, k⟩
  | none, some p => some ⟨0x08, x, p⟩
  | none, none => if F.tempOk then none else some ⟨0x09, 0xFF, 0⟩

/-- SLCs of the boot status block (R477): of a sector that step 4 has tested. -/
def BootFacts.slcOf (F : BootFacts) (sector : Nat) : Nat :=
  let r := (F.remapOf sector).toNat
  (bit r 31).toNat * 128 + min (F.failedSlices sector).length 2 * 32 + bits r 4 0

/-! ## The device as a start finds it (R476, R480) -/

/-- First physical address that is not HBM (R348). -/
def hbmEnd : Nat := 0x100000000000

/-- The device without any of its state but HBM: what stays is outside it (the expanders, the host, peers), in fuses or in the boot
ROM (R475, R478, R480). -/
def State.blank (s : State) (power : Power) : State :=
  { State.reset with
    mem := s.mem, side := s.side, bad := s.bad, sideBad := s.sideBad, tags := s.tags, peers := s.peers, out := s.out, agenda := s.agenda, fresh := s.fresh, nextId := s.nextId,
    pkg := { Package.init with power := power, facts := s.pkg.facts, svnFuse := s.pkg.svnFuse, leaf := s.pkg.leaf,
                               debugFuse := s.pkg.debugFuse, romKey := s.pkg.romKey, idKey := s.pkg.idKey } }

/-- The device without power: its stacks lose what they hold too (R434, R480). -/
def State.dark (s : State) : State :=
  let t := s.blank .off
  let kept := fun (pa : Nat) => decide (hbmEnd ≤ pa)
  { t with mem := t.mem.filter fun kv => kept kv.1, side := t.side.filter fun kv => kept (kv.1 / 32 * 256),
           bad := t.bad.filter fun n => kept (n * 64), sideBad := t.sideBad.filter fun n => kept (n * 256),
           tags := t.tags.filter fun kv => kept (kv.1 * 256) }

/-- Steps 3 and 4: every stack that trains reads as zero once its lines have the zero-line encoding, and the remap registers of the
sectors whose stacks train are written (R427, R434, R435, R475). -/
def State.trainMemory (s : State) (F : BootFacts) : State :=
  let kept := fun (pa : Nat) => decide (hbmEnd ≤ pa) || F.badStack.contains (pa / 0x1000000000)
  let trained := (List.range 6).filter F.trains
  { s with
    mem := s.mem.filter fun kv => kept kv.1
    side := s.side.filter fun kv => kept (kv.1 / 32 * 256)
    bad := s.bad.filter fun n => kept (n * 64)
    sideBad := s.sideBad.filter fun n => kept (n * 256)
    tags := s.tags.filter fun kv => kept (kv.1 * 256)
    pkg := { s.pkg with remap := trained.map fun x => (x, F.remapOf x), slc := trained.map fun x => (x, F.slcOf x) } }

/-- The ranges granted to each partition, without one that a lower partition's overlaps: a range is granted to one partition at a
time (R425). -/
def exclusiveGrants (grants : SMap (List (Nat × Nat))) : SMap (List (Nat × Nat)) :=
  ((List.range 12).foldl (fun (x : SMap (List (Nat × Nat)) × List (Nat × Nat)) p =>
    let mine := (SMap.getD p [] grants).filter fun r => x.2.all fun t => decide (r.2 ≤ t.1) || decide (t.2 ≤ r.1)
    (SMap.put p mine x.1, x.2 ++ mine)) ([], [])).1

/-- Step 8: the sectors in service and their partitions, what the package Gaffer configures, the running firmware (R349, R427,
R455, R457, R458, R475-R477). -/
def State.comeUp (s : State) (F : BootFacts) (power : Power) (sectors : List Nat) : State :=
  let parts := sectors.flatMap fun x => [2 * x, 2 * x + 1]
  let full := decide (power = .running)
  let hdm := F.hdm.filter fun kv => parts.contains kv.1 && decide (stackBase kv.1 ≤ kv.2.1)
    && decide (kv.2.2 ≤ stackBase kv.1 + stackSize)
  let pkg := { s.pkg with
    power := power, parts := maskOf parts, sectors := maskOf sectors, fwver := F.version, digest := F.digest, svn := F.svn,
    hdm := hdm,
    tierCap := if full then F.tierCap else [], accId := F.accId }
  parts.foldl (fun s p => s.modPart p fun P =>
    { P with grants := SMap.getD p [] (exclusiveGrants F.grants), image := F.digest }) { s with pkg := pkg }

/-- A fresh key for reports, signed with the next identity leaf, which the counter then passes; a counter that can go no further is exhausted,
and its last leaf unused, since it could be used again (R479). -/
def State.deriveAliasKey (s : State) : State :=
  let k := s.pkg
  if k.leaf = 0xFFFF then s
  else
    let key := Config.aliasKey s.fresh
    { s with fresh := s.fresh + 1,
             pkg := { k with ididx := k.leaf.toNat, leaf := k.leaf + 1, reports := 0,
                             aka := some (key, k.leaf, Config.xmssSign k.idKey k.leaf.toNat [key]) } }

/-- Begin an attempt with the facts that it meets. -/
def State.beginAttempt (s : State) : State × BootFacts :=
  ({ s with pkg := { s.pkg with facts := s.pkg.facts.tail, remap := [], slc := [] } }, s.pkg.facts.headD BootFacts.good)

/-- Note a failure (R477). -/
def State.noteFailure (s : State) (x : StartFail) (n : Nat) : State :=
  { s with pkg := { s.pkg with attempts := s.pkg.attempts + n, reason := x.reason, rsect := x.sect, rdetail := x.detail } }

/-- No start: STATE reads 0x03 (R476). -/
def State.notStarted (s : State) : State := { s with pkg := { s.pkg with power := .dead } }

/-- The minimal start with sector `x` performs the steps too; where one fails there is no other start (R475, R476). -/
def State.minimalStart (s : State) (x : Nat) : State :=
  let (s, F) := s.beginAttempt
  match F.failsEarly s.pkg with
  | some f => (s.noteFailure f 0).notStarted
  | none =>
    let s := s.trainMemory F
    match F.failsMinimal x with
    | some f => (s.noteFailure f 0).notStarted
    | none => if F.passes x then s.comeUp F .minimal [x] else s.notStarted

/-- After the third failed attempt, which met facts `F`: a minimal start with the lowest sector that passed in it, or no start
(R476). -/
def State.lastResort (s : State) (F : BootFacts) : State :=
  let passed := if (F.failsEarly s.pkg).isSome then [] else (List.range 6).filter F.passes
  match passed with
  | [] => s.notStarted
  | x :: _ => s.minimalStart x

/-- Attempts until one succeeds or none is left; structural on the attempts left. Facts that are not given are those of a part
whose training and self-tests pass. -/
def State.attempt (s : State) : Nat → State
  | 0 => s
  | n + 1 =>
    let (s, F) := s.beginAttempt
    let (s, f) := match F.failsEarly s.pkg with
      | some f => (s, some f)
      | none => (s.trainMemory F, F.failsLate)
    match f with
    | none => (s.comeUp F .running ((List.range 6).filter F.passes)).deriveAliasKey
    | some f =>
      let s := s.noteFailure f 1
      if n = 0 then s.lastResort F else s.attempt n

/-- A start: up to three attempts (R475, R476). -/
def State.start (s : State) : State := (s.blank .starting).attempt 3

/-- POWER_ON (R475, R480). -/
def execPowerOn (s : State) : Host.Outcome State Fault Refusal :=
  .next (if s.pkg.power = .off ∨ s.pkg.power = .starting then s.start else s)

/-- CXL_RESET: all state but HBM is discarded, and a start follows (R475, R480). -/
def execCxlReset (s : State) : Host.Outcome State Fault Refusal :=
  .next (if s.pkg.power = .off then s else s.start)

/-- THERMAL_SUPPLY_TRIP: an MCTP event, then Off; nothing is recorded (R480, R481). -/
def execThermalSupplyTrip (s : State) : Host.Outcome State Fault Refusal :=
  .next (if s.pkg.power = .off then s else (s.emit .mctpTrip).dark)

/-- Power is removed (R480). -/
def State.powerOff (s : State) : State := if s.pkg.power = .off then s else s.dark

/-- PACKAGE_POWER_LIMIT: issue tokens are withheld while the package is above its limit (R481). -/
def execPackagePowerLimit (above : Bool) (s : State) : Host.Outcome State Fault Refusal :=
  .next { s with pkg := { s.pkg with withhold := above } }

/-- CONFIGURATION_REQUEST: until step 8, the retry status (R475, R476). -/
def execConfigurationRequest (s : State) : Host.Outcome State Fault Refusal :=
  .next (match s.pkg.power with
    | .off => s
    | .starting => s.emit .hostRetry
    | .running | .minimal | .dead => s.emit .hostConfig)

/-! ## The boot status block, fuses and reports (R477-R479) -/

def Power.code : Power → Nat
  | .off | .starting => 0
  | .running => 1
  | .minimal => 2
  | .dead => 3

/-- The boot status block (R477). -/
def Package.bootWords (k : Package) : List Nat :=
  [ k.power.code * 2 ^ 56 + k.attempts * 2 ^ 52 + k.reason * 2 ^ 40 + k.rsect * 2 ^ 32 + k.rdetail * 2 ^ 16,
    k.parts * 2 ^ 52 + k.sectors * 2 ^ 46,
    k.fwver % 2 ^ 32 * 2 ^ 32 + k.svn % 2 ^ 16 * 2 ^ 16 + k.ididx % 2 ^ 16,
    k.slc.foldl (fun w kv => w + kv.2 * 2 ^ (8 * kv.1)) 0 ]

/-- SVN_FUSE_RAISE: only a signed request raises the fuses, which never fall (R478). -/
def execSvnFuseRaise (svn : Nat) (signed : Nat × Nat) (s : State) : Host.Outcome State Fault Refusal :=
  .next (s.mailbox [] fun s =>
    if vendorSigned s.pkg.romKey signed.1 signed.2 [svn] then some { s with pkg := { s.pkg with svnFuse := max svn s.pkg.svnFuse } } else none)

/-- Reports that one report key signs (R479). -/
def reportLimit : Nat := 1024

/-- ATTESTATION_REQUEST: a report over the firmware's digest, version and SVN, the boot status words and the nonce, signed by
the key for reports with a leaf of its own; more than 1,024 are refused, and so is any where the start has derived no key (R479). -/
def execAttestationRequest (nonce : List Byte) (s : State) : Host.Outcome State Fault Refusal :=
  .next (s.mailbox [] fun s =>
    match s.pkg.aka with
    | none => none
    | some (key, leaf, cert) =>
      let n := s.pkg.reports
      if reportLimit ≤ n then none
      else
        let words := [s.pkg.digest, s.pkg.fwver, s.pkg.svn] ++ s.pkg.bootWords
        let sig := Config.xmssSign key n (words ++ nonce.map BitVec.toNat)
        some (({ s with pkg := { s.pkg with reports := n + 1 } } : State).emit (.report key leaf cert n nonce words sig)))

/-! ## Sideband and JTAG (R482) -/

/-- 64-bit words of physical memory. -/
def State.words (s : State) (pa n : Nat) : List Nat := (List.range n).map fun i => s.read64 (pa + 8 * i)

/-- SIDEBAND_QUERY: what the package Gaffer answers by MCTP (R394, R383, R477, R482); a device that has not started answers with the boot status block
only (R476). Temperatures and power are free values. -/
def execSidebandQuery (q : SidebandItem) (s : State) : Host.Outcome State Fault Refusal :=
  .next (
    if s.pkg.power = .off ∨ (s.pkg.power = .dead ∧ q ≠ .bootStatus) then s
    else
      match q with
      | .bootStatus => s.emit (.mctp s.pkg.bootWords)
      | .temperaturesAndPower => { s.emit (.mctp [Config.sensor s.fresh, Config.sensor (s.fresh + 1)]) with fresh := s.fresh + 2 }
      | .counterPage p => s.emit (.mctp (s.words (stackBase p + (s.part p).ctrPage) 512))
      | .haltState p =>
        s.emit (.mctp ([(s.part p).halted.toNat, (s.part p).hseq]
          ++ s.words (stackBase p + (s.part p).stopBase) 1024))
      | .partitionReset p => if (s.part p).halted then s.resetPartition p else s)

/-- JTAG_ACCESS: boundary scan and IDCODE; internal state only with the debug fuse unlocked, and then what the spec does not
give (R482). -/
def execJtagAccess (r : JtagRequest) (s : State) : Host.Outcome State Fault Refusal :=
  if s.pkg.power = .off then .next s
  else
    match r with
    | .boundaryScan => .next (s.emit .jtagScan)
    | .idcode => .next (s.emit .jtagIdcode)
    | .internalState => if s.pkg.debugFuse then .refused .jtagInternalState else .next s

/-- DEBUG_FUSE_UNLOCK (R482). -/
def execDebugFuseUnlock (s : State) : Host.Outcome State Fault Refusal :=
  .next { s with pkg := { s.pkg with debugFuse := true } }

end Sys2Proof.Machine
end

