-- ==== Sys2Proof/Machine/Control.lean ====
section
/-! DEFINITION. Control flow of the scalar stream: branches, calls and the register window, LRUN, NOP, YIELD, BKPT and TRAP
(R123-R127, R174, R186, R187, R198). -/

namespace Sys2Proof.Machine

/-! ## Branches (R186) -/

/-- A branch: to the target if a condition of the gang holds, else to the next word (R47, R186). -/
def branchWord (i : Instr) (u : ScalarUse) (off : BitVec 15) (p : Gang → Bool) (s : State) : Host.Outcome State Fault Refusal :=
  scalarWord i u (fun g G s => .done (s.putGang g (if p G then { G with pc := G.target off } else G.next))) s

/-- JMP (R186). -/
def execJmp (off : BitVec 15) (s : State) : Host.Outcome State Fault Refusal :=
  branchWord (.jmp off) {} off (fun _ => true) s

/-- BZ: when the mask is zero (R186). -/
def execBz (m : BitVec 7) (off : BitVec 15) (s : State) : Host.Outcome State Fault Refusal :=
  branchWord (.bz m off) { mrd := [m.toNat] } off (fun G => decide (G.mreg m.toNat = 0)) s

/-- BNZ: when the mask is not zero (R186). -/
def execBnz (m : BitVec 7) (off : BitVec 15) (s : State) : Host.Outcome State Fault Refusal :=
  branchWord (.bnz m off) { mrd := [m.toNat] } off (fun G => decide (G.mreg m.toNat ≠ 0)) s

/-- BC.t: when C is 1 (R186). -/
def execBcT (off : BitVec 15) (s : State) : Host.Outcome State Fault Refusal :=
  branchWord (.bcT off) {} off (fun G => G.c) s

/-- BC.f: when C is 0 (R186). -/
def execBcF (off : BitVec 15) (s : State) : Host.Outcome State Fault Refusal :=
  branchWord (.bcF off) {} off (fun G => !G.c) s

/-! ## Calls (R187) -/

/-- Entries of the call stack (R169). -/
def callDepth : Nat := 32

/-- The call-stack fault (R187, R371). -/
def callFault : FaultInfo := plainFault 0x16 0 0 0

/-- CALL (R186, R187). -/
def execCall (off : BitVec 15) (s : State) : Host.Outcome State Fault Refusal :=
  scalarWord (.call off) {}
    (fun g G s =>
      if callDepth ≤ G.stack.length then .stop (s.haltScalar G callFault)
      else .done (s.putGang g { G with stack := ⟨(G.pc + 4) % addrBits, false, 0⟩ :: G.stack, pc := G.target off })) s

/-- RET (R126, R186, R187). -/
def execRet (s : State) : Host.Outcome State Fault Refusal :=
  scalarWord .ret {}
    (fun g G s =>
      match G.stack with
      | [] => .stop (s.haltScalar G callFault)
      | e :: rest =>
        if e.window then .stop (s.illegalScalar G ((encode .ret).headD 0).toNat)
        else .done (s.putGang g { G with stack := rest, pc := e.ret })) s

/-! ## The register window (R123-R126) -/

/-- A physical granule as 16 chunks of 64 bytes: registers 0-7, each lanes 0-31 (R124); a freed register stores a free
value (R126). -/
def Gang.granule (G : Gang) (fresh a : Nat) : List (List Byte × Bool) :=
  (List.range 16).map fun c =>
    let cs := (List.range 16).map fun j => G.lane.read fresh (c % 2 * 16 + j) (8 * a + c / 2)
    (cs.flatMap (fun x => toBytes 4 x.val.toNat), cs.any Cell.p)

/-- Fill a physical granule; every lane becomes live (R126). -/
def Gang.fillGranule (G : Gang) (a : Nat) (chunks : List (List Byte × Bool)) : Gang :=
  let L := chunks.zipIdx.foldl (fun L ci => (List.range 16).foldl (fun (L : LaneFile) j =>
    L.write (ci.2 % 2 * 16 + j) (8 * a + ci.2 / 2)
      ⟨BitVec.ofNat 32 (ofBytes ((ci.1.1.drop (4 * j)).take 4)), ci.1.2, true⟩) L) G.lane
  { G with lane := L }

/-- How the spills or fills of a CALLW or RETW end: done, or stopped at a granule with the state that leaves. -/
inductive Slide where
  | done (s : State)
  | stop (s : State)

/-- Spill granules from LOW upward until the window fits (R125); structural on the granules of the file. -/
def State.spill (s : State) (g : Nat) (nwb : Nat) : Nat → Slide
  | 0 => .done s
  | fuel + 1 =>
    match s.gang? g with
    | none => .done s
    | some G =>
      let gr := s.regsOf G / 8
      if nwb + windowGranules (s.regsOf G) - G.sp.low ≤ gr then .done s
      else if s.spillStride G < G.sp.low + 1 then .stop (s.haltScalar G (plainFault 0x15 0 0 G.sp.low))
      else
        match s.storeChunks g G (G.granule s.fresh (G.sp.low % gr)) ((s.spillArea G + 1024 * G.sp.low) % addrBits) with
        | (s, some f) => .stop (s.scalarFault g G f)
        | (s, none) =>
          let s := s.savingErrors G fun key => decide (key % 1024 / 8 = G.sp.low % gr)
          let s := s.modGang g fun G => { G with sp := { G.sp with low := G.sp.low + 1, spoiled := G.sp.spoiled.erase G.sp.low } }
          State.spill { s with fresh := s.fresh + 1 } g nwb fuel

/-- A granule of free values: one that a program has written where it was spilled (R124). -/
def freeChunks (fresh : Nat) : List (List Byte × Bool) :=
  (List.range 16).map fun c => ((List.range 64).map fun j => Config.undefByte fresh (64 * c + j), false)

/-- Fill granules downward until LOW is at most a window base (R126). -/
def State.fillTo (s : State) (g : Nat) (wb : Nat) : Nat → Slide
  | 0 => .done s
  | fuel + 1 =>
    match s.gang? g with
    | none => .done s
    | some G =>
      if G.sp.low ≤ wb then .done s
      else
        let low := G.sp.low - 1
        match s.loadChunks G (s.scalarAgent G 1 G.pc) 16 ((s.spillArea G + 1024 * low) % addrBits) with
        | (s, .error f) => .stop (s.scalarFault g G f)
        | (s, .ok cs) =>
          let cs := if G.sp.spoiled.contains low then freeChunks s.fresh else cs
          let s := s.modGang g fun G => { G.fillGranule (low % (s.regsOf G / 8)) cs with sp := { G.sp with low := low } }
          State.fillTo { s with fresh := s.fresh + 1 } g wb fuel

/-- CALLW and RETW wait for runs, ready bits and pins (R125, R126). -/
def Gang.windowWaits (G : Gang) : Bool :=
  !G.runs.isEmpty || G.pend.any fun x => !x.dests.isEmpty || !x.pins.isEmpty

/-- CALLW (R125, R187). A call stack that is full faults before any spill, and before a window overflow: the rule's text pushes after
the spills and does not say when the full stack is found (DESIGN CHOICE, log entry 68). -/
def execCallw (k : BitVec 4) (off : BitVec 15) (s : State) : Host.Outcome State Fault Refusal :=
  scalarWord (.callw k off) { gated := true }
    (fun g G s =>
      if !G.sp.win then .stop (s.illegalScalar G ((encode (.callw k off)).headD 0).toNat)
      else if G.windowWaits then .wait
      else if callDepth ≤ G.stack.length then .stop (s.haltScalar G callFault)
      else
        let nwb := G.sp.wb + k.toNat
        match s.spill g nwb 48 with
        | .stop t => .stop t
        | .done t => .done (t.modGang g fun G => { G with
            sp := { G.sp with wb := nwb }, stack := ⟨(G.pc + 4) % addrBits, true, k.toNat⟩ :: G.stack, pc := G.target off })) s

/-- After a RETW every physical granule holds a free value but those of the granules that are still in the file, from LOW to the
window's last (R126). -/
def Gang.dropGranules (G : Gang) (n fresh wb : Nat) : Gang :=
  let gr := n / 8
  let w := windowGranules n
  let kept := (List.range (wb + w - G.sp.low)).map fun i => (G.sp.low + i) % gr
  { G with lane := { G.lane with regs := G.lane.regs.map fun kc =>
      if kc.1 % 1024 < 256 ∧ ¬kept.contains (kc.1 % 1024 / 8) then (kc.1, ⟨Config.undef fresh kc.1, false, kc.2.live⟩) else kc } }

/-- RETW: the fills come first, so that a fill that parks resumes at its granule (R126, R366). -/
def execRetw (s : State) : Host.Outcome State Fault Refusal :=
  scalarWord .retw { gated := true }
    (fun g G s =>
      let illegal := s.illegalScalar G ((encode .retw).headD 0).toNat
      if !G.sp.win then .stop illegal
      else
        match G.stack with
        | [] => .stop (s.haltScalar G callFault)
        | e :: rest =>
          if !e.window then .stop illegal
          else if G.windowWaits then .wait
          else
            let wb := G.sp.wb - e.slide
            match s.fillTo g wb 48 with
            | .stop t => .stop t
            | .done t =>
              let n := t.regsOf G
              .done { t.modGang g fun G =>
                { G.dropGranules n t.fresh wb with sp := { G.sp with wb := wb }, stack := rest, pc := e.ret } with
                fresh := t.fresh + 1 }) s

/-! ## LRUN (R174) -/

/-- Runs that a queue holds (R31). -/
def runQueue : Nat := 4

/-- LRUN: append the run and fetch it (R44, R105, R174). -/
def execLrun (len : BitVec 5) (off : BitVec 21) (s : State) : Host.Outcome State Fault Refusal :=
  scalarWord (.lrun len off) {}
    (fun g G s =>
      if runQueue ≤ G.runs.length then .wait
      else
        let (id, s) := s.newId
        let a := (G.sp.lsbase.toNat + 12 * off.toNat) % 2 ^ 64
        let r : Run := ⟨id, G.pc, a, off.toNat, len.toNat, G.sreg 30, [], 0, none, [], [], none⟩
        .done ((s.putGang g { G.next with runs := G.runs ++ [r] }).fetchRun g id)) s

/-! ## System words (R198) -/

/-- NOP (R198). -/
def execNop (s : State) : Host.Outcome State Fault Refusal := gangWord .nop {} id s

/-- The rotation pointers that serve a gang of a level: the level's and that of promoted gangs, for lane words and for scalar words
(R178). -/
def pointersOf (level : Nat) : List Nat := [level, 4, 8 + level, 12]

/-- The pointers that serve a gang of a level move past its slot, and no choice of this clk moves them back (R178, R198). -/
def Quarter.past (q : Quarter) (level slot : Nat) : Quarter :=
  { q with
    taken := q.taken.map fun t => if (pointersOf level).contains t.2.1 then (t.1, 99, t.2.2) else t
    ptrs := (pointersOf level).foldl (fun m i => SMap.put i ((slot + 1) % 16) m) q.ptrs }

/-- YIELD: C is 1 if another gang of the quarter has a word that is eligible in this clk and cannot issue in it, and free where one has a
word that still can. The gang's pointers move past it (R178, R198). -/
def execYield (s : State) : Host.Outcome State Fault Refusal :=
  scalarWord .yield {}
    (fun g G s =>
      let c := s.ask.rivals.1 || (s.ask.rivals.2 && Config.yieldSeen s.fresh)
      .done (({ s.putGang g { G.next with c := c } with fresh := s.fresh + 1 } : State).modCore G.place.core fun c =>
        { c with qtrs := SMap.upd G.place.qtr Quarter.init (fun q => (q.at' s.now).past (s.level G) (G.place.slot % 16)) c.qtrs })) s

/-- BKPT: with a debugger enabled, the runs retire, the gang stops and a debug record goes out; otherwise as NOP (R198). -/
def execBkpt (s : State) : Host.Outcome State Fault Refusal :=
  scalarWord .bkpt {}
    (fun g G s =>
      if !(s.vdev G.vnum).debug then .done (s.putGang g G.next)
      else if !G.runs.isEmpty then .wait
      else .done ((s.putGang g { G with wait := .bkpt }).emit (.debugRecord g G.pc))) s

/-- TRAP: the runs retire, the word issues (R36), the gang parks, and a record of cause trap with the code waits for firmware (R198,
R371). -/
def execTrap (code : BitVec 19) (s : State) : Host.Outcome State Fault Refusal :=
  scalarWord (.trap code) {}
    (fun g G s =>
      if !G.runs.isEmpty then .wait
      else .stop ((((s.putGang g { G with wait := .trap }).issuedNow g G).modGang g fun G =>
        { G with park := some (Park.mk' 1 [(plainFault 0x03 0 0 code.toNat, 1)] none) }).queueGroup (partOfVnum G.vnum) (.scalar g))) s

/-- DEBUGGER_RESUME: the gang that BKPT stopped goes on at the next word (R198). -/
def execDebuggerResume (g : Nat) (s : State) : Host.Outcome State Fault Refusal :=
  .next (match s.gang? g with
    | some G => if G.wait = .bkpt then s.putGang g { G.next with wait := .none } else s
    | none => s)

end Sys2Proof.Machine
end

