-- ==== Sys2Proof/Machine/HostLink.lean ====
section
/-! DEFINITION. What the host does: register writes of a virtual device, memory accesses, resets of a function, and link errors
(R392, R452-R456). -/

namespace Sys2Proof.Machine

/-! ## Registers of a virtual device (R453) -/

/-- The virtual device behind a VF exists and the device runs; else its registers ignore writes (R453, R477). -/
def State.vdevLive (s : State) (v : Nat) : Bool :=
  s.up && (s.entry v).en

/-- A register write takes effect: the virtual device exists, and the value is aligned with bits 63:57 clear (R453). -/
def State.baseWrite (s : State) (v align val : Nat) (f : Vdev → Vdev) : State :=
  if s.vdevLive v && decide (val % align = 0) && decide (val < addrBits) then s.modVdev v f else s

/-- HEADc: the chain's current record, from which it is handled anew; 0 stops the chain where it is (R331, R453). -/
def State.writeHead (s : State) (v c val : Nat) : State :=
  s.baseWrite v 128 val fun V => { V with chains := SMap.upd c LaunchChain.init (fun l =>
    if val = 0 then { l with stopped := true, stage := .fresh } else ⟨val, false, false, none, .fresh⟩) V.chains }

/-- LOGBASE: both indices become 0 (R387, R453). -/
def State.writeLogBase (s : State) (v val : Nat) : State :=
  s.baseWrite v 4096 val fun V => { V with logBase := val, logProd := 0, logCons := 0 }

/-- LOGSIZE: 7 to 16; other values are ignored (R453). -/
def State.writeLogSize (s : State) (v val : Nat) : State :=
  if s.vdevLive v && decide (7 ≤ val) && decide (val ≤ 16) then
    s.modVdev v fun V => { V with logSize := val, logProd := 0, logCons := 0 }
  else s

def State.writeGtBase (s : State) (v val : Nat) : State := s.baseWrite v 65536 val fun V => { V with gtBase := val }

def State.writeWBase (s : State) (v w val : Nat) : State :=
  s.baseWrite v 65536 val fun V => { V with wbase := SMap.put w val V.wbase }

/-- HEAD_WRITE (R453). -/
def execHeadWrite (v c : Nat) (val : DWord) (s : State) : Host.Outcome State Fault Refusal := .next (s.writeHead v c val.toNat)

/-- LOGBASE_WRITE (R453). -/
def execLogbaseWrite (v : Nat) (val : DWord) (s : State) : Host.Outcome State Fault Refusal := .next (s.writeLogBase v val.toNat)

/-- LOGSIZE_WRITE (R453). -/
def execLogsizeWrite (v : Nat) (val : DWord) (s : State) : Host.Outcome State Fault Refusal := .next (s.writeLogSize v val.toNat)

/-- GTBASE_WRITE (R453). -/
def execGtbaseWrite (v : Nat) (val : DWord) (s : State) : Host.Outcome State Fault Refusal := .next (s.writeGtBase v val.toNat)

/-- WBASE_WRITE (R453). -/
def execWbaseWrite (v w : Nat) (val : DWord) (s : State) : Host.Outcome State Fault Refusal := .next (s.writeWBase v w val.toNat)

/-- The fields of WCTL: R, W and the length; other bits are zero (R453). -/
def wctlOf (val : Nat) : DWord := BitVec.ofNat 64 (bits val 63 62 * 2 ^ 62 + bits val 47 16 * 2 ^ 16)

/-- REGISTER_WRITE: any offset of a VF's page; one that is not listed, or is read-only, ignores it (R453). -/
def execRegisterWrite (v off : Nat) (val : DWord) (s : State) : Host.Outcome State Fault Refusal :=
  .next (
    let x := val.toNat
    if 0x010 ≤ off ∧ off < 0x050 ∧ off % 8 = 0 then s.writeHead v ((off - 0x010) / 8) x
    else if off = 0x100 then s.writeLogBase v x
    else if off = 0x108 then s.writeLogSize v x
    else if off = 0x118 then (if s.vdevLive v then s.modVdev v fun V => { V with logCons := x } else s)
    else if off = 0x200 then s.writeGtBase v x
    else if 0x400 ≤ off ∧ off < 0x500 ∧ off % 16 = 0 then s.writeWBase v ((off - 0x400) / 16) x
    else if 0x400 ≤ off ∧ off < 0x500 ∧ off % 16 = 8 then
      (if s.vdevLive v then s.modVdev v fun V => { V with wctl := SMap.put ((off - 0x400) / 16) (wctlOf x) V.wctl } else s)
    else s)

/-! ## Host accesses (R452, R455) -/

/-- The partition whose HDM range holds an extent (R455). -/
def State.hdmOf (s : State) (pa n : Nat) : Option Nat :=
  (List.find? (fun kv => decide (kv.2.1 ≤ pa) && decide (pa + n ≤ kv.2.2)) s.pkg.hdm).map Prod.fst

/-- The parts of an extent that lie in one line each: address and length. -/
def lineParts (pa n : Nat) : List (Nat × Nat) :=
  if n = 0 then []
  else (List.range ((pa + n - 1) / 256 + 1 - pa / 256)).map fun i =>
    let lo := max pa (256 * (pa / 256 + i))
    (lo, min (pa + n) (256 * (pa / 256 + i) + 256) - lo)

/-- The host reads bytes of a partition's memory, line by line at its slices; the firmware's bucket pays on the link (R426, R442,
R455). -/
def State.hostRead (s : State) (p pa n : Nat) : State × List Byte × Bool :=
  let r := Req.chiplet none p 0
  let s := (s.chargeLink hostLink 1 r.holder 1).chargeLink hostLink 0 r.holder (beats n)
  (lineParts pa n).foldl (fun (x : State × List Byte × Bool) an =>
    let (s, bs, bad) := x.1.homeRead r an.1 an.2 true
    (s, x.2.1 ++ bs, x.2.2 || bad)) (s, [], false)

/-- The host writes bytes of a partition's memory (R431, R455). -/
def State.hostWrite (s : State) (p pa : Nat) (bs : List Byte) : State :=
  let r := Req.chiplet none p 0
  (lineParts pa bs.length).foldl (fun s an => s.homeWrite r an.1 ((bs.drop (an.1 - pa)).take an.2) false)
    (s.chargeLink hostLink 1 r.holder (beats bs.length))

/-- HOST_MEM_ACCESS: in an HDM range, at the partition's slices, at system scope; poison is returned as poison (R455). -/
def execHostMemAccess (a : HostAccess) (s : State) : Host.Outcome State Fault Refusal :=
  match a with
  | .read pa n =>
    match s.hdmOf pa n with
    | none => .fault .noSuchAddress
    | some p =>
      let (s, bs, bad) := s.hostRead p pa n
      .next (if bad then (s.uncorrectable p (s.structAt pa) pa Agent.none).emit .hostPoison else s.emit (.hostData bs))
  | .write pa bs =>
    match s.hdmOf pa bs.length with
    | none => .fault .noSuchAddress
    | some p => .next ((s.hostWrite p pa bs).emit .hostDone)

/-- HOST_UNSUPPORTED_REQUEST: refused with the response for an unsupported request (R452); a device that does not run answers nothing
(R476, R480). -/
def execHostUnsupportedRequest (tag : Nat) (s : State) : Host.Outcome State Fault Refusal :=
  .next (if s.up then s.emit (.hostUnsupported tag) else s)

/-! ## Function-level reset (R456) -/

/-- End a grid of a function that is reset: its record reads STATE 0x04; no signal is sent (R456). -/
def State.flrGrid (s : State) (n : Nat) : State := (s.modGrid n fun D => { D with quiet := true }).endGrid n (some 0xFFFF)

/-- FUNCTION_LEVEL_RESET of VF n: all work of virtual device n - 1 ends (R456). -/
def execFunctionLevelReset (vf : Nat) (s : State) : Host.Outcome State Fault Refusal :=
  .next (
    let v := vf - 1
    if !s.vdevLive v then s
    else
      let s := ((s.grids.filter fun kv => decide (kv.2.vnum = v)).map Prod.fst).foldl State.flrGrid s
      let s := (s.chainsWhere fun _ c => decide (c.owner.vnum = some v)).foldl (fun s ec => s.killLoneChain ec.1 ec.2 true) s
      let s := { s with inbound := s.inbound.filter fun kv => decide (bits kv.2.req.addr 54 48 ≠ v) }
      s.modVdev v fun V => { V with chains := [], queue := [] })

/-! ## Link errors (R392, R394) -/

/-- The structure code of a link (R394). -/
def linkStruct : LinkKind → Nat
  | .host => 9
  | .secondTier => 8
  | .ualink => 10

/-- The links on which an access to memory can lose its packet: the host link and the second-tier ports (R454, R457). -/
def lossyLink (link : LinkKind) (port : Nat) : Option Nat :=
  match link with
  | .host => some hostLink
  | .secondTier => some (tierLink port)
  | .ualink => none

/-- FLIT_CHECK_FAILURE: the link layer retries the flit, which is counted as corrected; a packet whose retries fail is dropped
and counted as uncorrectable (R392, R394, R458). On the host link or a second-tier port the next access over the link is the one
that has lost it: it gets poison, or its store is dropped, and the loss is counted there, in the partition of that access (R454, R457).
Whose packet another flit was of is not stated: the partition is free. -/
def execFlitCheckFailure (link : LinkKind) (port : Nat) (lost : Bool) (s : State) : Host.Outcome State Fault Refusal :=
  .next (
    if !s.up then s
    else
      match if lost then lossyLink link port else none with
      | some l => { s with lost := l :: s.lost }
      | none =>
        let p := Config.packetOf s.fresh % 12
        ({ s with fresh := s.fresh + 1 } : State).count p ((if lost then 0x008 else 0) + 16 * linkStruct link))

end Sys2Proof.Machine
end

