-- ==== Sys2Proof/Machine/ScalarAlu.lean ====
section
/-! DEFINITION. The scalar ALU words and the mask words (R181-R185). -/

namespace Sys2Proof.Machine

/-! ## Scalar ALU (R181-R183) -/

/-- The shift count: bits 4:0 of a register (R181). -/
def shiftCount (v : Word) : Nat := v.toNat % 32

/-- SADD: the sum modulo 2^32 (R181). -/
def execSadd (d a b : BitVec 7) (s : State) : Host.Outcome State Fault Refusal :=
  gangWord (.sadd d a b) { swr := [d.toNat] } (fun G => G.setS d.toNat (G.sreg a.toNat + G.sreg b.toNat)) s

/-- SSUB: the difference modulo 2^32 (R181). -/
def execSsub (d a b : BitVec 7) (s : State) : Host.Outcome State Fault Refusal :=
  gangWord (.ssub d a b) { swr := [d.toNat] } (fun G => G.setS d.toNat (G.sreg a.toNat - G.sreg b.toNat)) s

/-- SMUL: the low 32 bits of the product (R181). -/
def execSmul (d a b : BitVec 7) (s : State) : Host.Outcome State Fault Refusal :=
  gangWord (.smul d a b) { swr := [d.toNat] } (fun G => G.setS d.toNat (G.sreg a.toNat * G.sreg b.toNat)) s

/-- SMULH: the high 32 bits of the signed product (R181). -/
def execSmulh (d a b : BitVec 7) (s : State) : Host.Outcome State Fault Refusal :=
  gangWord (.smulh d a b) { swr := [d.toNat] } (fun G => G.setS d.toNat (BitVec.ofInt 32 ((G.sreg a.toNat).toInt * (G.sreg b.toNat).toInt / 2 ^ 32))) s

/-- SMULH.n32: the high 32 bits of the unsigned product (R181). -/
def execSmulhN32 (d a b : BitVec 7) (s : State) : Host.Outcome State Fault Refusal :=
  gangWord (.smulhN32 d a b) { swr := [d.toNat] } (fun G => G.setS d.toNat (BitVec.ofNat 32 ((G.sreg a.toNat).toNat * (G.sreg b.toNat).toNat / 2 ^ 32))) s

/-- SAND (R181). -/
def execSand (d a b : BitVec 7) (s : State) : Host.Outcome State Fault Refusal :=
  gangWord (.sand d a b) { swr := [d.toNat] } (fun G => G.setS d.toNat (G.sreg a.toNat &&& G.sreg b.toNat)) s

/-- SOR (R181). -/
def execSor (d a b : BitVec 7) (s : State) : Host.Outcome State Fault Refusal :=
  gangWord (.sor d a b) { swr := [d.toNat] } (fun G => G.setS d.toNat (G.sreg a.toNat ||| G.sreg b.toNat)) s

/-- SXOR (R181). -/
def execSxor (d a b : BitVec 7) (s : State) : Host.Outcome State Fault Refusal :=
  gangWord (.sxor d a b) { swr := [d.toNat] } (fun G => G.setS d.toNat (G.sreg a.toNat ^^^ G.sreg b.toNat)) s

/-- SSHL: times 2^count (R181). -/
def execSshl (d a b : BitVec 7) (s : State) : Host.Outcome State Fault Refusal :=
  gangWord (.sshl d a b) { swr := [d.toNat] } (fun G => G.setS d.toNat (G.sreg a.toNat <<< shiftCount (G.sreg b.toNat))) s

/-- SSHR: the unsigned value over 2^count, rounded down (R181). -/
def execSshr (d a b : BitVec 7) (s : State) : Host.Outcome State Fault Refusal :=
  gangWord (.sshr d a b) { swr := [d.toNat] } (fun G => G.setS d.toNat (G.sreg a.toNat >>> shiftCount (G.sreg b.toNat))) s

/-- SSRA: the signed value over 2^count, rounded down (R181). -/
def execSsra (d a b : BitVec 7) (s : State) : Host.Outcome State Fault Refusal :=
  gangWord (.ssra d a b) { swr := [d.toNat] } (fun G => G.setS d.toNat ((G.sreg a.toNat).sshiftRight (shiftCount (G.sreg b.toNat)))) s

/-- SMIN: the smaller, signed (R181). -/
def execSmin (d a b : BitVec 7) (s : State) : Host.Outcome State Fault Refusal :=
  gangWord (.smin d a b) { swr := [d.toNat] } (fun G => G.setS d.toNat (if (G.sreg b.toNat).slt (G.sreg a.toNat) then G.sreg b.toNat else G.sreg a.toNat)) s

/-- SMIN.n32: the smaller, unsigned (R181). -/
def execSminN32 (d a b : BitVec 7) (s : State) : Host.Outcome State Fault Refusal :=
  gangWord (.sminN32 d a b) { swr := [d.toNat] } (fun G => G.setS d.toNat (if (G.sreg b.toNat).ult (G.sreg a.toNat) then G.sreg b.toNat else G.sreg a.toNat)) s

/-- SMAX: the larger, signed (R181). -/
def execSmax (d a b : BitVec 7) (s : State) : Host.Outcome State Fault Refusal :=
  gangWord (.smax d a b) { swr := [d.toNat] } (fun G => G.setS d.toNat (if (G.sreg a.toNat).slt (G.sreg b.toNat) then G.sreg b.toNat else G.sreg a.toNat)) s

/-- SMAX.n32: the larger, unsigned (R181). -/
def execSmaxN32 (d a b : BitVec 7) (s : State) : Host.Outcome State Fault Refusal :=
  gangWord (.smaxN32 d a b) { swr := [d.toNat] } (fun G => G.setS d.toNat (if (G.sreg a.toNat).ult (G.sreg b.toNat) then G.sreg b.toNat else G.sreg a.toNat)) s

/-- SSEL: chosen by C (R181). -/
def execSsel (d a b : BitVec 7) (s : State) : Host.Outcome State Fault Refusal :=
  gangWord (.ssel d a b) { swr := [d.toNat] } (fun G => G.setS d.toNat (if G.c then G.sreg a.toNat else G.sreg b.toNat)) s

/-- SMOV (R181). -/
def execSmov (d a : BitVec 7) (s : State) : Host.Outcome State Fault Refusal :=
  gangWord (.smov d a) { swr := [d.toNat] } (fun G => G.setS d.toNat (G.sreg a.toNat)) s

/-- SPOPC: the number of one bits (R181). -/
def execSpopc (d a : BitVec 7) (s : State) : Host.Outcome State Fault Refusal :=
  gangWord (.spopc d a) { swr := [d.toNat] } (fun G => G.setS d.toNat (BitVec.ofNat 32 (popCount 32 (G.sreg a.toNat).toNat))) s

/-- SFFS: the index of the lowest set bit, 32 when there is none (R181). -/
def execSffs (d a : BitVec 7) (s : State) : Host.Outcome State Fault Refusal :=
  gangWord (.sffs d a) { swr := [d.toNat] } (fun G => G.setS d.toNat (BitVec.ofNat 32 (lowestBit 32 (G.sreg a.toNat).toNat))) s

/-- SBREV: the bits in reverse order (R181). -/
def execSbrev (d a : BitVec 7) (s : State) : Host.Outcome State Fault Refusal :=
  gangWord (.sbrev d a) { swr := [d.toNat] } (fun G => G.setS d.toNat (BitVec.ofNat 32 (revBits 32 (G.sreg a.toNat).toNat))) s

/-- SADD.b64: the pair sum modulo 2^64 (R181). -/
def execSaddB64 (d a b : BitVec 7) (s : State) : Host.Outcome State Fault Refusal :=
  gangWord (.saddB64 d a b) { swr := [d.toNat, d.toNat + 1] }
    (fun G => G.setPair d.toNat (G.spair a.toNat + G.spair b.toNat)) s

/-- SSUB.b64: the pair difference modulo 2^64 (R181). -/
def execSsubB64 (d a b : BitVec 7) (s : State) : Host.Outcome State Fault Refusal :=
  gangWord (.ssubB64 d a b) { swr := [d.toNat, d.toNat + 1] }
    (fun G => G.setPair d.toNat (G.spair a.toNat - G.spair b.toNat)) s

/-- SCMP: the comparison, to the register and to C (R182). -/
def execScmp (d a b : BitVec 7) (cond : BitVec 5) (s : State) : Host.Outcome State Fault Refusal :=
  gangWord (.scmp d a b cond) { swr := [d.toNat] }
    (fun G =>
      let c := scmpCond cond.toNat (G.sreg a.toNat) (G.sreg b.toNat)
      { G.setS d.toNat (if c then 1 else 0) with c := c }) s

/-- SADDI: plus the sign-extended immediate (R183). -/
def execSaddi (d a : BitVec 7) (imm : BitVec 12) (s : State) : Host.Outcome State Fault Refusal :=
  gangWord (.saddi d a imm) { swr := [d.toNat] } (fun G => G.setS d.toNat (G.sreg a.toNat + imm.signExtend 32)) s

/-- SLI: the sign-extended immediate (R183). -/
def execSli (d : BitVec 7) (imm : BitVec 19) (s : State) : Host.Outcome State Fault Refusal :=
  gangWord (.sli d imm) { swr := [d.toNat] } (fun G => G.setS d.toNat (imm.signExtend 32)) s

/-- SLI.h: bits 31:13 are the immediate, bits 12:0 stay (R183). -/
def execSliH (d : BitVec 7) (imm : BitVec 19) (s : State) : Host.Outcome State Fault Refusal :=
  gangWord (.sliH d imm) { swr := [d.toNat] }
    (fun G => G.setS d.toNat (imm ++ (G.sreg d.toNat).extractLsb' 0 13)) s

/-- SADDI.b64: the pair plus the immediate sign-extended to 64 bits (R183). -/
def execSaddiB64 (d a : BitVec 7) (imm : BitVec 12) (s : State) : Host.Outcome State Fault Refusal :=
  gangWord (.saddiB64 d a imm) { swr := [d.toNat, d.toNat + 1] }
    (fun G => G.setPair d.toNat (G.spair a.toNat + imm.signExtend 64)) s

/-! ## Masks (R184, R185) -/

/-- MAND (R184). -/
def execMand (d a b : BitVec 7) (s : State) : Host.Outcome State Fault Refusal :=
  gangWord (.mand d a b) { mrd := [a.toNat, b.toNat], mwr := [d.toNat] } (fun G => G.setM d.toNat (G.mreg a.toNat &&& G.mreg b.toNat)) s

/-- MANDN (R184). -/
def execMandn (d a b : BitVec 7) (s : State) : Host.Outcome State Fault Refusal :=
  gangWord (.mandn d a b) { mrd := [a.toNat, b.toNat], mwr := [d.toNat] } (fun G => G.setM d.toNat (G.mreg a.toNat &&& ~~~(G.mreg b.toNat))) s

/-- MXOR (R184). -/
def execMxor (d a b : BitVec 7) (s : State) : Host.Outcome State Fault Refusal :=
  gangWord (.mxor d a b) { mrd := [a.toNat, b.toNat], mwr := [d.toNat] } (fun G => G.setM d.toNat (G.mreg a.toNat ^^^ G.mreg b.toNat)) s

/-- A reconvergence point waits until every run queued before it has retired (R185). -/
def Gang.reconvergeWaits (G : Gang) (rc : Bool) : Bool := rc && !G.runs.isEmpty

/-- Every access issued before a reconvergence point comes before every access issued after it (R185): later ones wait for those that
are not performed, as after an acquire (R318). -/
def Gang.reconverge (G : Gang) (rc : Bool) : Gang :=
  if rc then { G with pend := G.pend.map fun x => { x with rc := true } } else G

/-- MOR, with `.rc` a reconvergence point (R184, R185). -/
def execMor (d a b : BitVec 7) (rc : Bool) (s : State) : Host.Outcome State Fault Refusal :=
  scalarWord (.mor d a b rc) { mrd := [a.toNat, b.toNat], mwr := [d.toNat] }
    (fun g G s =>
      if G.reconvergeWaits rc then .wait
      else .done (s.putGang g ((G.reconverge rc).setM d.toNat (G.mreg a.toNat ||| G.mreg b.toNat)).next)) s

/-- MMOV, with `.rc` a reconvergence point (R184, R185). -/
def execMmov (d a : BitVec 7) (rc : Bool) (s : State) : Host.Outcome State Fault Refusal :=
  scalarWord (.mmov d a rc) { mrd := [a.toNat], mwr := [d.toNat] }
    (fun g G s =>
      if G.reconvergeWaits rc then .wait else .done (s.putGang g ((G.reconverge rc).setM d.toNat (G.mreg a.toNat)).next)) s

/-- MNOT (R184). -/
def execMnot (d a : BitVec 7) (s : State) : Host.Outcome State Fault Refusal :=
  gangWord (.mnot d a) { mrd := [a.toNat], mwr := [d.toNat] } (fun G => G.setM d.toNat (~~~(G.mreg a.toNat))) s

/-- MPOP: the number of set bits; C says whether there is one (R184). -/
def execMpop (d a : BitVec 7) (s : State) : Host.Outcome State Fault Refusal :=
  gangWord (.mpop d a) { mrd := [a.toNat], swr := [d.toNat] }
    (fun G =>
      let m := G.mreg a.toNat
      { G.setS d.toNat (BitVec.ofNat 32 (popCount 32 m.toNat)) with c := decide (m ≠ 0) }) s

/-- MFIRST: the index of the lowest set bit, 32 if none; C says whether there is one (R184). -/
def execMfirst (d a : BitVec 7) (s : State) : Host.Outcome State Fault Refusal :=
  gangWord (.mfirst d a) { mrd := [a.toNat], swr := [d.toNat] }
    (fun G =>
      let m := G.mreg a.toNat
      { G.setS d.toNat (BitVec.ofNat 32 (lowestBit 32 m.toNat)) with c := decide (m ≠ 0) }) s

end Sys2Proof.Machine
end

