-- ==== Sys2Proof/Machine/ScalarMemory.lean ====
section
/-! DEFINITION. Scalar loads and stores, LAUNCH and SPAWN (R336, R339, R345). -/

namespace Sys2Proof.Machine

/-- The address of a scalar access (R345). -/
def Gang.scalarAddr (G : Gang) (a : BitVec 7) (imm : BitVec 12) : Nat := (G.spair a.toNat + imm.signExtend 64).toNat

/-- The address faults of a scalar access: misaligned first (R345), then the checks of R228 and R235. -/
def State.scalarAddrFault (s : State) (G : Gang) (acc va size : Nat) : Option FaultInfo :=
  if va % size ≠ 0 then some (misaligned va acc size) else s.addressFault G acc va size size true

/-- An SLD of `size` bytes, delivered as a number (R345). -/
def scalarLoad (i : Instr) (u : ScalarUse) (a : BitVec 7) (imm : BitVec 12) (size : Nat) (put : Gang → Nat → Gang) (s : State) :
    Host.Outcome State Fault Refusal :=
  scalarWord i u
    (fun g G s =>
      let va := G.scalarAddr a imm
      if !G.runsIssued then .wait
      else
        match s.scalarAddrFault G 0 va size with
        | some f => .stop (s.haltScalar G f)
        | none =>
          if s.comesAfter G G.pend [(va, size)] then .wait
          else match s.lsLoad G (s.scalarAgent G 1 G.pc) false 0 va size with
          | (s, .error f) => .stop (s.scalarFault g G f)
          | (s, .ok d) => .done (s.putGang g (put G (ofBytes d.bytes)).next)) s

/-- An SST of `size` bytes (R345). -/
def scalarStore (i : Instr) (a : BitVec 7) (imm : BitVec 12) (size : Nat) (get : Gang → Nat) (s : State) :
    Host.Outcome State Fault Refusal :=
  scalarWord i { gated := true }
    (fun g G s =>
      let va := G.scalarAddr a imm
      if !G.runsIssued then .wait
      else
        match s.scalarAddrFault G 1 va size with
        | some f => .stop (s.haltScalar G f)
        | none =>
          if s.comesAfter G G.pend [(va, size)] then .wait
          else match s.lsStore g G false 0 va (toBytes size (get G)) false with
          | (s, some f) => .stop (s.scalarFault g G f)
          | (s, none) => .done (s.modGang g Gang.next)) s

/-- SLD.b32 (R345). -/
def execSldB32 (d a : BitVec 7) (imm : BitVec 12) (s : State) : Host.Outcome State Fault Refusal :=
  scalarLoad (.sldB32 d a imm) { swr := [d.toNat], gated := true } a imm 4
    (fun G v => G.setS d.toNat (BitVec.ofNat 32 v)) s

/-- SLD.b64 (R345). -/
def execSldB64 (d a : BitVec 7) (imm : BitVec 12) (s : State) : Host.Outcome State Fault Refusal :=
  scalarLoad (.sldB64 d a imm) { swr := pairOf d.toNat, gated := true } a imm 8
    (fun G v => G.setPair d.toNat (BitVec.ofNat 64 v)) s

/-- SST.b32 (R345). -/
def execSstB32 (d a : BitVec 7) (imm : BitVec 12) (s : State) : Host.Outcome State Fault Refusal :=
  scalarStore (.sstB32 d a imm) a imm 4 (fun G => (G.sreg d.toNat).toNat) s

/-- SST.b64 (R345). -/
def execSstB64 (d a : BitVec 7) (imm : BitVec 12) (s : State) : Host.Outcome State Fault Refusal :=
  scalarStore (.sstB64 d a imm) a imm 8 (fun G => (G.spair d.toNat).toNat) s

/-- Records that a virtual device's launch queue holds (R336). -/
def launchQueueSize : Nat := 64

/-- LAUNCH (R336). -/
def execLaunch (a : BitVec 7) (s : State) : Host.Outcome State Fault Refusal :=
  scalarWord (.launch a) { gated := true }
    (fun g G s =>
      let va := (G.spair a.toNat).toNat
      if !G.runsIssued then .wait
      else if va % 128 ≠ 0 then .stop (s.haltScalar G (misaligned va 0 128))
      else if inWindow va then .stop (s.haltScalar G (protection va 0 5))
      else if launchQueueSize ≤ (s.vdev G.vnum).queue.length || G.releaseWaits then .wait
      else
        let s := s.release G 3
        .done ((s.modVdev G.vnum fun V => { V with queue := V.queue ++ [va] }).putGang g G.next)) s

/-- Tasks that a cluster's queue holds (R339). -/
def taskQueueSize : Nat := 256

/-- SPAWN (R339, R341). -/
def execSpawn (a b : BitVec 7) (s : State) : Host.Outcome State Fault Refusal :=
  scalarWord (.spawn a b) { gated := true }
    (fun g G s =>
      let entry := (G.spair a.toNat).toNat
      if !G.runsIssued then .wait
      else if b.toNat % 4 ≠ 0 ∨ entry % 4 ≠ 0 then .stop (s.illegalScalar G ((encode (.spawn a b)).headD 0).toNat)
      else if G.releaseWaits then .wait
      else
        let s := s.release G 3
        let k := clusterOf G.place.core
        if taskQueueSize ≤ (s.cluster k).tasks.length then .done (s.putGang g { G.next with c := false })
        else
          let n := (s.grid? G.grid).elim 0 Grid.kids
          let args := (List.range 4).map fun j => G.sreg (b.toNat + j)
          let s := s.modCluster k fun K => { K with tasks := K.tasks ++ [⟨entry % addrBits, args, G.grid, n, G.place.wg⟩] }
          let s := s.modGrid G.grid fun D => { D with kids := (D.kids + 1) % 2 ^ 32, live := D.live + 1 }
          .done (s.putGang g { G.next with c := true })) s

end Sys2Proof.Machine
end

