-- ==== Sys2Proof/Machine/Dispatch.lean ====
section
/-! DEFINITION. The meaning of every instruction and event: one arm per constructor, each one call of its meaning. -/

namespace Sys2Proof.Machine

def exec (i : Instr) (s : State) : Host.Outcome State Fault Refusal :=
  match i with
  | .sadd d a b => Sys2Proof.Machine.execSadd d a b s
  | .ssub d a b => Sys2Proof.Machine.execSsub d a b s
  | .smul d a b => Sys2Proof.Machine.execSmul d a b s
  | .smulh d a b => Sys2Proof.Machine.execSmulh d a b s
  | .smulhN32 d a b => Sys2Proof.Machine.execSmulhN32 d a b s
  | .sand d a b => Sys2Proof.Machine.execSand d a b s
  | .sor d a b => Sys2Proof.Machine.execSor d a b s
  | .sxor d a b => Sys2Proof.Machine.execSxor d a b s
  | .sshl d a b => Sys2Proof.Machine.execSshl d a b s
  | .sshr d a b => Sys2Proof.Machine.execSshr d a b s
  | .ssra d a b => Sys2Proof.Machine.execSsra d a b s
  | .smin d a b => Sys2Proof.Machine.execSmin d a b s
  | .sminN32 d a b => Sys2Proof.Machine.execSminN32 d a b s
  | .smax d a b => Sys2Proof.Machine.execSmax d a b s
  | .smaxN32 d a b => Sys2Proof.Machine.execSmaxN32 d a b s
  | .ssel d a b => Sys2Proof.Machine.execSsel d a b s
  | .smov d a => Sys2Proof.Machine.execSmov d a s
  | .spopc d a => Sys2Proof.Machine.execSpopc d a s
  | .sffs d a => Sys2Proof.Machine.execSffs d a s
  | .sbrev d a => Sys2Proof.Machine.execSbrev d a s
  | .saddB64 d a b => Sys2Proof.Machine.execSaddB64 d a b s
  | .ssubB64 d a b => Sys2Proof.Machine.execSsubB64 d a b s
  | .scmp d a b cond => Sys2Proof.Machine.execScmp d a b cond s
  | .saddi d a imm => Sys2Proof.Machine.execSaddi d a imm s
  | .sli d imm => Sys2Proof.Machine.execSli d imm s
  | .sliH d imm => Sys2Proof.Machine.execSliH d imm s
  | .saddiB64 d a imm => Sys2Proof.Machine.execSaddiB64 d a imm s
  | .mand d a b => Sys2Proof.Machine.execMand d a b s
  | .mor d a b rc => Sys2Proof.Machine.execMor d a b rc s
  | .mandn d a b => Sys2Proof.Machine.execMandn d a b s
  | .mxor d a b => Sys2Proof.Machine.execMxor d a b s
  | .mnot d a => Sys2Proof.Machine.execMnot d a s
  | .mmov d a rc => Sys2Proof.Machine.execMmov d a rc s
  | .mpop d a => Sys2Proof.Machine.execMpop d a s
  | .mfirst d a => Sys2Proof.Machine.execMfirst d a s
  | .jmp off => Sys2Proof.Machine.execJmp off s
  | .bz m off => Sys2Proof.Machine.execBz m off s
  | .bnz m off => Sys2Proof.Machine.execBnz m off s
  | .bcT off => Sys2Proof.Machine.execBcT off s
  | .bcF off => Sys2Proof.Machine.execBcF off s
  | .call off => Sys2Proof.Machine.execCall off s
  | .callw k off => Sys2Proof.Machine.execCallw k off s
  | .ret => Sys2Proof.Machine.execRet s
  | .retw => Sys2Proof.Machine.execRetw s
  | .exit => Sys2Proof.Machine.execExit s
  | .repack m off => Sys2Proof.Machine.execRepack m off s
  | .unpack => Sys2Proof.Machine.execUnpack s
  | .lrun len off => Sys2Proof.Machine.execLrun len off s
  | .waitc ld st cp tl gx pl mode => Sys2Proof.Machine.execWaitc ld st cp tl gx pl mode s
  | .waitr a cls => Sys2Proof.Machine.execWaitr a cls s
  | .fence scope ord => Sys2Proof.Machine.execFence scope ord s
  | .pfence paths => Sys2Proof.Machine.execPfence paths s
  | .xfence => Sys2Proof.Machine.execXfence s
  | .bari a b => Sys2Proof.Machine.execBari a b s
  | .bara b => Sys2Proof.Machine.execBara b s
  | .barw b => Sys2Proof.Machine.execBarw b s
  | .semadd d a b scope ord => Sys2Proof.Machine.execSemadd d a b scope ord s
  | .semwait a b scope test => Sys2Proof.Machine.execSemwait a b scope test s
  | .semset a b scope ord => Sys2Proof.Machine.execSemset a b scope ord s
  | .semaphoreWaiterRetest w => Sys2Proof.Machine.execSemaphoreWaiterRetest w s
  | .semaphorePoll w => Sys2Proof.Machine.execSemaphorePoll w s
  | .rpost d a => Sys2Proof.Machine.execRpost d a s
  | .rtake d a => Sys2Proof.Machine.execRtake d a s
  | .sldB32 d a imm => Sys2Proof.Machine.execSldB32 d a imm s
  | .sldB64 d a imm => Sys2Proof.Machine.execSldB64 d a imm s
  | .sstB32 d a imm => Sys2Proof.Machine.execSstB32 d a imm s
  | .sstB64 d a imm => Sys2Proof.Machine.execSstB64 d a imm s
  | .launch a => Sys2Proof.Machine.execLaunch a s
  | .spawn a b => Sys2Proof.Machine.execSpawn a b s
  | .getsr d n => Sys2Proof.Machine.execGetsr d n s
  | .setsr a n => Sys2Proof.Machine.execSetsr a n s
  | .nop => Sys2Proof.Machine.execNop s
  | .yield => Sys2Proof.Machine.execYield s
  | .bkpt => Sys2Proof.Machine.execBkpt s
  | .mcommit => Sys2Proof.Machine.execMcommit s
  | .trap code => Sys2Proof.Machine.execTrap code s
  | .mrest off => Sys2Proof.Machine.execMrest off s
  | .cbgoLadle d a e => Sys2Proof.Machine.execCbgoLadle d a e s
  | .cbgoPle d a => Sys2Proof.Machine.execCbgoPle d a s
  | .cbgoRunner d a e => Sys2Proof.Machine.execCbgoRunner d a e s
  | .cbstat d a => Sys2Proof.Machine.execCbstat d a s
  | .lnop => Sys2Proof.Machine.execLnop s
  | .endrun f => Sys2Proof.Machine.execEndrun f s
  | .iadd f => Sys2Proof.Machine.execIadd f s
  | .isub f => Sys2Proof.Machine.execIsub f s
  | .iaddc f => Sys2Proof.Machine.execIaddc f s
  | .imul f => Sys2Proof.Machine.execImul f s
  | .imulh f => Sys2Proof.Machine.execImulh f s
  | .imad f => Sys2Proof.Machine.execImad f s
  | .iabs f => Sys2Proof.Machine.execIabs f s
  | .ineg f => Sys2Proof.Machine.execIneg f s
  | .imin f => Sys2Proof.Machine.execImin f s
  | .imax f => Sys2Proof.Machine.execImax f s
  | .iclamp f => Sys2Proof.Machine.execIclamp f s
  | .and f => Sys2Proof.Machine.execAnd f s
  | .or f => Sys2Proof.Machine.execOr f s
  | .xor f => Sys2Proof.Machine.execXor f s
  | .not f => Sys2Proof.Machine.execNot f s
  | .shl f => Sys2Proof.Machine.execShl f s
  | .shr f => Sys2Proof.Machine.execShr f s
  | .sra f => Sys2Proof.Machine.execSra f s
  | .rot f => Sys2Proof.Machine.execRot f s
  | .bfx f => Sys2Proof.Machine.execBfx f s
  | .bfi f => Sys2Proof.Machine.execBfi f s
  | .popc f => Sys2Proof.Machine.execPopc f s
  | .clz f => Sys2Proof.Machine.execClz f s
  | .brev f => Sys2Proof.Machine.execBrev f s
  | .iset f => Sys2Proof.Machine.execIset f s
  | .sel f => Sys2Proof.Machine.execSel f s
  | .movl f => Sys2Proof.Machine.execMovl f s
  | .lim f => Sys2Proof.Machine.execLim f s
  | .lea f => Sys2Proof.Machine.execLea f s
  | .lea64 f => Sys2Proof.Machine.execLea64 f s
  | .cvti f => Sys2Proof.Machine.execCvti f s
  | .idot4 f => Sys2Proof.Machine.execIdot4 f s
  | .fadd f => Sys2Proof.Machine.execFadd f s
  | .fsub f => Sys2Proof.Machine.execFsub f s
  | .fmul f => Sys2Proof.Machine.execFmul f s
  | .ffma f => Sys2Proof.Machine.execFfma f s
  | .fmin f => Sys2Proof.Machine.execFmin f s
  | .fmax f => Sys2Proof.Machine.execFmax f s
  | .fset f => Sys2Proof.Machine.execFset f s
  | .fclass f => Sys2Proof.Machine.execFclass f s
  | .frnd f => Sys2Proof.Machine.execFrnd f s
  | .fcvt f => Sys2Proof.Machine.execFcvt f s
  | .ftoi f => Sys2Proof.Machine.execFtoi f s
  | .itof f => Sys2Proof.Machine.execItof f s
  | .frcp f => Sys2Proof.Machine.execFrcp f s
  | .frsq f => Sys2Proof.Machine.execFrsq f s
  | .fsqrt f => Sys2Proof.Machine.execFsqrt f s
  | .fexp2 f => Sys2Proof.Machine.execFexp2 f s
  | .flog2 f => Sys2Proof.Machine.execFlog2 f s
  | .fsin f => Sys2Proof.Machine.execFsin f s
  | .fcos f => Sys2Proof.Machine.execFcos f s
  | .ftanh f => Sys2Proof.Machine.execFtanh f s
  | .fdivs f => Sys2Proof.Machine.execFdivs f s
  | .hadd2 f => Sys2Proof.Machine.execHadd2 f s
  | .hmul2 f => Sys2Proof.Machine.execHmul2 f s
  | .hfma2 f => Sys2Proof.Machine.execHfma2 f s
  | .fdot2 f => Sys2Proof.Machine.execFdot2 f s
  | .bmax f => Sys2Proof.Machine.execBmax f s
  | .bscl f => Sys2Proof.Machine.execBscl f s
  | .bqnt f => Sys2Proof.Machine.execBqnt f s
  | .bdqt f => Sys2Proof.Machine.execBdqt f s
  | .badd f => Sys2Proof.Machine.execBadd f s
  | .bmul f => Sys2Proof.Machine.execBmul f s
  | .bfma f => Sys2Proof.Machine.execBfma f s
  | .brnm f => Sys2Proof.Machine.execBrnm f s
  | .bcvt f => Sys2Proof.Machine.execBcvt f s
  | .bsdot f => Sys2Proof.Machine.execBsdot f s
  | .xred f => Sys2Proof.Machine.execXred f s
  | .xldp f => Sys2Proof.Machine.execXldp f s
  | .xpat f => Sys2Proof.Machine.execXpat f s
  | .xshf f => Sys2Proof.Machine.execXshf f s
  | .xbcst f => Sys2Proof.Machine.execXbcst f s
  | .xgath f => Sys2Proof.Machine.execXgath f s
  | .qswz f => Sys2Proof.Machine.execQswz f s
  | .qbcst f => Sys2Proof.Machine.execQbcst f s
  | .vbal f => Sys2Proof.Machine.execVbal f s
  | .vany f => Sys2Proof.Machine.execVany f s
  | .vall f => Sys2Proof.Machine.execVall f s
  | .xscan f => Sys2Proof.Machine.execXscan f s
  | .topk f => Sys2Proof.Machine.execTopk f s
  | .xsort f => Sys2Proof.Machine.execXsort f s
  | .sdec f => Sys2Proof.Machine.execSdec f s
  | .xxch f => Sys2Proof.Machine.execXxch f s
  | .xxchExchangeComplete g op => Sys2Proof.Machine.execXxchExchangeComplete g op s
  | .ldg f => Sys2Proof.Machine.execLdg f s
  | .stg f => Sys2Proof.Machine.execStg f s
  | .ldb f => Sys2Proof.Machine.execLdb f s
  | .stb f => Sys2Proof.Machine.execStb f s
  | .lds f => Sys2Proof.Machine.execLds f s
  | .sts f => Sys2Proof.Machine.execSts f s
  | .ldl f => Sys2Proof.Machine.execLdl f s
  | .ldc f => Sys2Proof.Machine.execLdc f s
  | .cstore f => Sys2Proof.Machine.execCstore f s
  | .atom f => Sys2Proof.Machine.execAtom f s
  | .atomxAdd f => Sys2Proof.Machine.execAtomxAdd f s
  | .atomxRd f => Sys2Proof.Machine.execAtomxRd f s
  | .atomxRdclr f => Sys2Proof.Machine.execAtomxRdclr f s
  | .atomxClr f => Sys2Proof.Machine.execAtomxClr f s
  | .redg f => Sys2Proof.Machine.execRedg f s
  | .pref f => Sys2Proof.Machine.execPref f s
  | .mconv f => Sys2Proof.Machine.execMconv f s
  | .mconvDis f => Sys2Proof.Machine.execMconvDis f s
  | .mma f => Sys2Proof.Machine.execMma f s
  | .mmas f => Sys2Proof.Machine.execMmas f s
  | .gmma f => Sys2Proof.Machine.execGmma f s
  | .matrixOperationDispatch twin => Sys2Proof.Machine.execMatrixOperationDispatch twin s
  | .matrixOperationRetire twin => Sys2Proof.Machine.execMatrixOperationRetire twin s
  | .matrixWatchdogExpiry twin => Sys2Proof.Machine.execMatrixWatchdogExpiry twin s
  | .tzero f => Sys2Proof.Machine.execTzero f s
  | .tld f => Sys2Proof.Machine.execTld f s
  | .tst f => Sys2Proof.Machine.execTst f s
  | .trd f => Sys2Proof.Machine.execTrd f s
  | .twr f => Sys2Proof.Machine.execTwr f s
  | .tileWordComplete g op => Sys2Proof.Machine.execTileWordComplete g op s
  | .lmma f => Sys2Proof.Machine.execLmma f s
  | .qpost f => Sys2Proof.Machine.execQpost f s
  | .qtake f => Sys2Proof.Machine.execQtake f s
  | .sprueWordComplete g op => Sys2Proof.Machine.execSprueWordComplete g op s
  | .plq f => Sys2Proof.Machine.execPlq f s
  | .plfuse f => Sys2Proof.Machine.execPlfuse f s
  | .plnext f => Sys2Proof.Machine.execPlnext f s
  | .plclose f => Sys2Proof.Machine.execPlclose f s
  | .runRetire g => Sys2Proof.Machine.execRunRetire g s
  | .loadComplete g op => Sys2Proof.Machine.execLoadComplete g op s
  | .storePerformed g op => Sys2Proof.Machine.execStorePerformed g op s
  | .sfuResultComplete g op => Sys2Proof.Machine.execSfuResultComplete g op s
  | .marverWordComplete g op => Sys2Proof.Machine.execMarverWordComplete g op s
  | .patternEntryLoaded g op => Sys2Proof.Machine.execPatternEntryLoaded g op s
  | .engineStop p index => Sys2Proof.Machine.execEngineStop p index s
  | .faultRecordGroupWrite p => Sys2Proof.Machine.execFaultRecordGroupWrite p s
  | .idleCounterSwapCheck core => Sys2Proof.Machine.execIdleCounterSwapCheck core s
  | .issuePromotion g => Sys2Proof.Machine.execIssuePromotion g s
  | .placeUnit p => Sys2Proof.Machine.execPlaceUnit p s
  | .unitReservation p => Sys2Proof.Machine.execUnitReservation p s
  | .wayConversionComplete core way => Sys2Proof.Machine.execWayConversionComplete core way s
  | .workgroupStart wg => Sys2Proof.Machine.execWorkgroupStart wg s
  | .workgroupRetire wg => Sys2Proof.Machine.execWorkgroupRetire wg s
  | .dispatcherEntry vnum chain => Sys2Proof.Machine.execDispatcherEntry vnum chain s
  | .recordNextWake vnum chain => Sys2Proof.Machine.execRecordNextWake vnum chain s
  | .commandBlockFetch e => Sys2Proof.Machine.execCommandBlockFetch e s
  | .ladleNop e => Sys2Proof.Machine.execLadleNop e s
  | .copy e => Sys2Proof.Machine.execCopy e s
  | .quant e => Sys2Proof.Machine.execQuant e s
  | .dequant e => Sys2Proof.Machine.execDequant e s
  | .rescale e => Sys2Proof.Machine.execRescale e s
  | .transpose e => Sys2Proof.Machine.execTranspose e s
  | .gather e => Sys2Proof.Machine.execGather e s
  | .commandBlockSignal e => Sys2Proof.Machine.execCommandBlockSignal e s
  | .chainEnd e => Sys2Proof.Machine.execChainEnd e s
  | .commandBlockTestPoll e => Sys2Proof.Machine.execCommandBlockTestPoll e s
  | .pleNop e => Sys2Proof.Machine.execPleNop e s
  | .query e => Sys2Proof.Machine.execQuery e s
  | .pleEmitEntry e => Sys2Proof.Machine.execPleEmitEntry e s
  | .pleTimeBudgetExpiry e => Sys2Proof.Machine.execPleTimeBudgetExpiry e s
  | .runnerNop e => Sys2Proof.Machine.execRunnerNop e s
  | .put e => Sys2Proof.Machine.execPut e s
  | .get e => Sys2Proof.Machine.execGet e s
  | .reduce e => Sys2Proof.Machine.execReduce e s
  | .notify e => Sys2Proof.Machine.execNotify e s
  | .runnerChunkDone e => Sys2Proof.Machine.execRunnerChunkDone e s
  | .peerRequestTimeout e => Sys2Proof.Machine.execPeerRequestTimeout e s
  | .ualinkInboundRequest r => Sys2Proof.Machine.execUalinkInboundRequest r s
  | .hostMemAccess a => Sys2Proof.Machine.execHostMemAccess a s
  | .hostUnsupportedRequest tag => Sys2Proof.Machine.execHostUnsupportedRequest tag s
  | .functionLevelReset vf => Sys2Proof.Machine.execFunctionLevelReset vf s
  | .cxlReset => Sys2Proof.Machine.execCxlReset s
  | .powerOn => Sys2Proof.Machine.execPowerOn s
  | .thermalSupplyTrip => Sys2Proof.Machine.execThermalSupplyTrip s
  | .headWrite vnum c val => Sys2Proof.Machine.execHeadWrite vnum c val s
  | .logbaseWrite vnum val => Sys2Proof.Machine.execLogbaseWrite vnum val s
  | .logsizeWrite vnum val => Sys2Proof.Machine.execLogsizeWrite vnum val s
  | .gtbaseWrite vnum val => Sys2Proof.Machine.execGtbaseWrite vnum val s
  | .wbaseWrite vnum w val => Sys2Proof.Machine.execWbaseWrite vnum w val s
  | .registerWrite vnum off val => Sys2Proof.Machine.execRegisterWrite vnum off val s
  | .translationContextWrite asid val => Sys2Proof.Machine.execTranslationContextWrite asid val s
  | .genraise p asid => Sys2Proof.Machine.execGenraise p asid s
  | .asflush p asid => Sys2Proof.Machine.execAsflush p asid s
  | .flushTimeout p => Sys2Proof.Machine.execFlushTimeout p s
  | .ptsync p => Sys2Proof.Machine.execPtsync p s
  | .replay p seq => Sys2Proof.Machine.execReplay p seq s
  | .pgclean p size page => Sys2Proof.Machine.execPgclean p size page s
  | .escalate p seq => Sys2Proof.Machine.execEscalate p seq s
  | .clreset p k => Sys2Proof.Machine.execClreset p k s
  | .clusterResetDeadline p => Sys2Proof.Machine.execClusterResetDeadline p s
  | .clusterPowerGate cluster => Sys2Proof.Machine.execClusterPowerGate cluster s
  | .twinReset twin => Sys2Proof.Machine.execTwinReset twin s
  | .preemptContext c => Sys2Proof.Machine.execPreemptContext c s
  | .preemptEngineAck wg => Sys2Proof.Machine.execPreemptEngineAck wg s
  | .contextRestore wg => Sys2Proof.Machine.execContextRestore wg s
  | .bucketRefill arb => Sys2Proof.Machine.execBucketRefill arb s
  | .vdevTableWrite p idx ctl rates sprues => Sys2Proof.Machine.execVdevTableWrite p idx ctl rates sprues s
  | .remapRegisterWrite sector val => Sys2Proof.Machine.execRemapRegisterWrite sector val s
  | .portShareWrite shares => Sys2Proof.Machine.execPortShareWrite shares s
  | .readGrantSet p lo hi => Sys2Proof.Machine.execReadGrantSet p lo hi s
  | .strictModeSet p on => Sys2Proof.Machine.execStrictModeSet p on s
  | .partitionReset p => Sys2Proof.Machine.execPartitionReset p s
  | .svnFuseRaise svn signed => Sys2Proof.Machine.execSvnFuseRaise svn signed s
  | .attestationRequest nonce => Sys2Proof.Machine.execAttestationRequest nonce s
  | .debuggerEnable vnum on => Sys2Proof.Machine.execDebuggerEnable vnum on s
  | .sidebandQuery q => Sys2Proof.Machine.execSidebandQuery q s
  | .gafferChainStart p ladle addr => Sys2Proof.Machine.execGafferChainStart p ladle addr s
  | .debuggerResume g => Sys2Proof.Machine.execDebuggerResume g s
  | .endGrid g => Sys2Proof.Machine.execEndGrid g s
  | .peerErrorResponse e => Sys2Proof.Machine.execPeerErrorResponse e s
  | .clusterUngate cluster => Sys2Proof.Machine.execClusterUngate cluster s
  | .packagePowerLimit above => Sys2Proof.Machine.execPackagePowerLimit above s
  | .flitCheckFailure link port lost => Sys2Proof.Machine.execFlitCheckFailure link port lost s
  | .configurationRequest => Sys2Proof.Machine.execConfigurationRequest s
  | .jtagAccess req => Sys2Proof.Machine.execJtagAccess req s
  | .debugFuseUnlock => Sys2Proof.Machine.execDebugFuseUnlock s

end Sys2Proof.Machine
end

