-- ==== Sys2Proof/Machine/Outside.lean ====
section
/-! DEFINITION. What comes from outside the device's engines: reads of the BAR0 pages, what firmware sets, and errors of the storage
structures (R359, R369, R383, R392-R394, R453, R477). -/

namespace Sys2Proof.Machine

/-! ## BAR0 (R453, R477) -/

/-- VSTAT: EN, DET and the accelerator id (R453). -/
def State.vstat (s : State) (v : Nat) : Nat :=
  (s.entry v).en.toNat + (s.entry v).det.toNat * 2 + s.pkg.accId % 1024 * 16

/-- What a register of a VF's page reads as; every register of a virtual device that does not exist, and every offset that is not
listed, reads zero (R453). -/
def State.readRegister (s : State) (v off : Nat) : Nat :=
  let V := s.vdev v
  if !s.vdevLive v then 0
  else if off = 0x000 then s.vstat v
  else if 0x010 ≤ off ∧ off < 0x050 ∧ off % 8 = 0 then (SMap.getD ((off - 0x010) / 8) LaunchChain.init V.chains).cur
  else if off = 0x100 then V.logBase
  else if off = 0x108 then V.logSize
  else if off = 0x110 then V.logProd
  else if off = 0x118 then V.logCons
  else if off = 0x200 then V.gtBase
  else if 0x400 ≤ off ∧ off < 0x500 ∧ off % 16 = 0 then SMap.getD ((off - 0x400) / 16) 0 V.wbase
  else if 0x400 ≤ off ∧ off < 0x500 ∧ off % 16 = 8 then (SMap.getD ((off - 0x400) / 16) 0 V.wctl).toNat
  else 0

/-- What an offset of the PF's page reads as: the boot status block (R477), and zero elsewhere (R453). -/
def State.readFunction (s : State) (off : Nat) : Nat :=
  if 0x800 ≤ off ∧ off < 0x820 ∧ off % 8 = 0 then s.pkg.bootWords.getD ((off - 0x800) / 8) 0 else 0

/-- The answer to a read of a BAR0 page: the retry status while the device starts (R475), and from a device that has not started
only what `block` says, the boot status block (R476). -/
def State.answerRead (s : State) (block : Bool) (x : Nat) : State :=
  match s.pkg.power with
  | .off => s
  | .starting => s.emit .hostRetry
  | .dead => if block then s.emit (.hostData (toBytes 8 x)) else s
  | .running | .minimal => s.emit (.hostData (toBytes 8 x))

/-! ## What firmware sets (R369, R383, R394) -/

/-- A base that firmware sets: a multiple of its alignment, in the partition's HBM; another has no effect. -/
def State.setBase (s : State) (p align off n : Nat) (f : Partition → Partition) : State :=
  if s.inService p && decide (off % align = 0) && decide (off + n ≤ stackSize) then s.modPart p f else s

/-- The consumer index of a fault record queue moves up to the producer's at most (R369). -/
def State.setConsumer (s : State) (p i : Nat) : State :=
  s.modPart p fun P => if P.fqCons ≤ i ∧ i ≤ P.fqProd then { P with fqCons := i } else P

/-! ## Errors of the storage structures (R392, R393) -/

/-- Turn bits of one entry of a table. -/
def flipAt {n : Nat} (k : Nat) (x : BitVec n) (m : SMap (BitVec n)) : SMap (BitVec n) := SMap.upd k 0 (fun v => v ^^^ x) m

/-- Turn the bits of a half of a register of one lane, which then has an uncorrectable error (R392, R393). -/
def LaneFile.flipHalf (L : LaneFile) (key half : Nat) (x : BitVec 16) : LaneFile :=
  { L with regs := SMap.modify key (fun c => { c with val := c.val ^^^ (x.setWidth 32 <<< (16 * half)) }) L.regs,
           err := insNat (2 * key + half) L.err }

/-- Turn the bits of word `n` of a scale register. -/
def LaneFile.flipScale (L : LaneFile) (x n : Nat) (flip : Word) : LaneFile :=
  (List.range 4).foldl (fun L i =>
    let j := 4 * n + i
    { L with scale := SMap.upd (16 * x + j) 0 (fun b => b ^^^ (flip >>> (8 * i)).setWidth 8) L.scale }) L

/-- An uncorrectable error found in a scalar, mask or scale register, the format table or the call stack: the bits are used as read;
it is counted, and strict mode halts with the register's index (R392). -/
def State.wordError (s : State) (g i : Nat) (f : Gang → Gang) : State :=
  match s.gang? g with
  | none => s
  | some G =>
    let p := partOfVnum G.vnum
    let s := (s.modGang g f).count p (0x008 + 16)
    if (s.part p).strict then s.halt p (s.scalarAgent G 1 G.pc) (plainFault 0x19 0 0 (2 ^ 63 + 2 ^ 48 + i)) 0 else s

/-- The same in a word of a scale register, which leaves an entry among the register errors too (R394). -/
def State.scaleError (s : State) (g x n : Nat) (flip : Word) : State :=
  match s.gang? g with
  | none => s
  | some G =>
    let p := partOfVnum G.vnum
    let s := (s.modGang g fun G => { G with lane := G.lane.flipScale x n flip }).registerEntry 1 G ⟨768 + x, n, 0, 0⟩
    if (s.part p).strict then s.halt p (s.scalarAgent G 1 G.pc) (plainFault 0x19 0 0 (2 ^ 63 + 2 ^ 48 + x)) 0 else s

/-- Change the n-th entry of a list. -/
def atIndex {α : Type} (n : Nat) (f : α → α) (xs : List α) : List α := xs.zipIdx.map fun x => if x.2 = n then f x.1 else x.1

/-- An error of a unit of a path cache's line: a sector, or the sidecar. -/
def PathLine.strike (l : PathLine) (sector : Nat) : PathLine :=
  if sector < 4 then { l with bad := l.bad ||| 2 ^ sector ||| 2 ^ (sector + 4) } else { l with scBad := true }

/-- An error of a unit of a line of a path cache (R392). -/
def State.strikePath (s : State) (path unit n sector : Nat) : State :=
  match path with
  | 0 => s.modCore unit fun c => { c with const := atIndex n (·.strike sector) c.const }
  | 1 => s.modCluster unit fun K => { K with tile := atIndex n (·.strike sector) K.tile }
  | _ => s.modCluster unit fun K => { K with stream := atIndex n (·.strike sector) K.stream }

/-! ## The step -/

/-- What comes from outside takes place. -/
def outsideStep (x : Outside) (s : State) : Host.Outcome State Fault Refusal :=
  match x with
  | .registerRead v off => .next (s.answerRead false (s.readRegister v off))
  | .functionRead off => .next (s.answerRead (decide (0x800 ≤ off) && decide (off < 0x820)) (s.readFunction off))
  | .powerOff => .next s.powerOff
  | .commandWord p w => commandWord p w s
  | .queueBase p off => .next (s.setBase p 0x40000 off 0x40000 fun P => { P with fqBase := off })
  | .queueConsumer p i => .next (s.setConsumer p i)
  | .stopArea p off => .next (s.setBase p 0x2000 off 0x2000 fun P => { P with stopBase := off })
  | .counterPage p off => .next (s.setBase p 0x1000 off 0x1000 fun P => { P with ctrPage := off })
  | .corrected p k => .next (s.corrected p k)
  | .sector pa => .next (s.strikeSector pa)
  | .sidecar line => .next (s.strikeSide line)
  | .scratchWord w off => .next (s.modWg w fun W => { W with scrBad := insNat (off / 4) W.scrBad })
  | .tileSector w side off => .next (s.modWg w fun W => { W with tileBad := insNat ((393216 * side + off) / 64) W.tileBad })
  | .l1Sector core n k => .next (s.modCore core fun c => { c with lines := atIndex n (fun l => { l with err := l.err ||| 2 ^ k }) c.lines })
  | .pathSector path unit n k => .next (s.strikePath path unit n k)
  | .laneHalf g l rkey half x => .next (s.modGang g fun G => { G with lane := G.lane.flipHalf (l * 1024 + rkey) half x })
  | .scalarReg g i x => .next (s.wordError g i fun G => { G with s := flipAt i x G.s })
  | .maskReg g k x => .next (s.wordError g k fun G => { G with m := flipAt k x G.m })
  | .scaleWord g r n x => .next (s.scaleError g r n x)
  | .formatWord g k n x => .next (s.wordError g k fun G => { G with sp := { G.sp with fmt := flipAt k (x.setWidth 64 <<< (32 * n)) G.sp.fmt } })
  | .stackWord g n x => .next (s.wordError g n fun G => { G with stack := atIndex n (fun e => { e with ret := (e.ret ^^^ x.toNat) % addrBits }) G.stack })

end Sys2Proof.Machine
end

