-- ==== Sys2Proof/Machine/Turns.lean ====
section
/-! DEFINITION. A turn: a word of a gang's scalar stream or of its lane stream, as the quarter chooses it, a step of the part that is no
word, what comes from outside, or the clock (R176-R178, R444). -/

namespace Sys2Proof.Machine

/-! ## The next word of a stream -/

/-- The scalar stream of a gang: fetch the word at the PC and take its effect; an illegal word and a fault of the fetch
are taken as R72 and R366 say. -/
def scalarTurn (g : Nat) (s : State) : Host.Outcome State Fault Refusal :=
  match s.gang? g with
  | none => .next s
  | some G =>
    if G.wait = .formatImage then .next (s.birthImage g G)
    else if !s.scalarReady G then .next s
    else
      match s.fetchScalar G with
      | (t, .error f) => .next (t.fetchFault g G f)
      | (t, .ok w) =>
        match decodeScalar w with
        | .error _ => .next (t.illegalScalar G w.toNat)
        | .ok i => exec i { t with cur := g }

/-- The lane stream of a gang: the next word of its oldest run. -/
def laneTurn (g : Nat) (s : State) : Host.Outcome State Fault Refusal :=
  match s.gang? g with
  | none => .next s
  | some G =>
    match G.runs with
    | [] => .next s
    | r :: _ =>
      if !s.laneReady G r then .next s
      else
        let w := r.words.getD r.next 0
        match decodeLane w with
        | .error _ => .next (s.illegalLane G r.addr r.next w.toNat)
        | .ok i => exec i { s with cur := g }

/-! ## The choice of a quarter (R176-R178, R444) -/

/-- The pipe or port of a lane word (R176): 0 the vector pipes, 1 special functions, 2 memory, 3 Marver, 4 matrix. -/
def pipeOf (op : Nat) : Nat :=
  if 0x3C ≤ op ∧ op ≤ 0x44 then 1
  else if op = 0x2C ∨ op = 0x2D ∨ (0x70 ≤ op ∧ op ≤ 0x7C) ∨ (0x90 ≤ op ∧ op ≤ 0x95) then 2
  else if 0x60 ≤ op ∧ op ≤ 0x6E then 3
  else if 0x80 ≤ op ∧ op ≤ 0x88 then 4
  else 0

/-- The pipe of a gang's next lane word. -/
def Gang.pipe (G : Gang) : Nat :=
  match G.runs with
  | [] => 0
  | r :: _ =>
    match decodeLane (r.words.getD r.next 0) with
    | .ok i => pipeOf (laneOp i)
    | .error _ => 0

/-- A quarter of a core as it stands in this clk. -/
def State.quarter (s : State) (core qtr : Nat) : Quarter := (SMap.getD qtr Quarter.init (s.core core).qtrs).at' s.now

/-- Room for a word of a slot: a scalar word needs the scalar port (5), a lane word one of four places, one for each gang, and its pipe
(R156, R176). -/
def Quarter.room (q : Quarter) (slot pipe : Nat) : Bool :=
  let lanes := q.taken.filter fun t => decide (t.2.2 ≠ 5)
  if pipe = 5 then q.taken.all fun t => decide (t.2.2 ≠ 5)
  else decide (lanes.length < 4) && (lanes.all fun t => decide (t.1 ≠ slot))
    && (match pipe with
        | 0 => true
        | 1 => q.sfu.all fun t => decide (t + 2 ≤ q.clk)
        | n => lanes.all fun t => decide (t.2.2 ≠ n))

/-- A word of a slot is chosen. -/
def Quarter.take (q : Quarter) (slot ptr pipe : Nat) : Quarter :=
  { q with taken := q.taken ++ [(slot, ptr, pipe)], sfu := if pipe = 1 then some q.clk else q.sfu }

/-- The rotation pointer that serves a gang: of its level or of promoted gangs, among lane words or among scalar words (R178). -/
def State.pointerOf (s : State) (G : Gang) (pipe : Nat) : Nat :=
  if pipe = 5 then (if G.promoS then 12 else 8 + s.level G) else if G.promo then 4 else s.level G

/-- Where a gang stands in the scan (R178, R444): words that can be paid for come first, then promoted gangs, then the levels from 3
down, and within a level the slots from the level's pointer upward. -/
def State.scanRank (s : State) (q : Quarter) (G : Gang) (pipe : Nat) : Nat :=
  let ptr := s.pointerOf G pipe
  let pays := decide (pipe = 5) || s.affords ⟨4 * G.place.core + G.place.qtr, G.vnum, 1⟩
  let level := if ptr % 8 = 4 then 0 else 4 - ptr % 8
  (!pays).toNat * 128 + level * 16 + (G.place.slot % 16 + 16 - SMap.getD ptr 0 q.ptrs) % 16

/-- A turn of a gang has issued its word, or has taken a fault; else it waits (R177). -/
def State.hasIssued (s : State) (g : Nat) (G : Gang) (o : Host.Outcome State Fault Refusal) : Bool :=
  match o with
  | .next t =>
    t.ask.short.isNone && (match t.gang? g with
      | none => true
      | some H => decide (H.pc ≠ G.pc) || decide (H.life ≠ G.life) || decide (H.wait ≠ G.wait) || decide (H.park ≠ G.park)
          || decide (H.issued ≠ G.issued) || decide (H.runs.map Run.serial ≠ G.runs.map Run.serial)
          || decide (H.runs.map Run.next ≠ G.runs.map Run.next) || t.stopped (partOfVnum G.vnum) != s.stopped (partOfVnum G.vnum))
  | _ => true

/-- The other gangs of a gang's quarter. -/
def State.rivals (s : State) (g : Nat) (G : Gang) : List (Nat × Gang) :=
  s.gangs.filter fun kv => decide (kv.1 ≠ g) && decide (kv.2.place.core = G.place.core) && decide (kv.2.place.qtr = G.place.qtr)
    && decide (s.wgStage kv.2 ≠ some .saved)

/-- The streams of a gang, by their words' pipes: its scalar words, and its lane words. -/
structure Stream where
  pipe : Gang → Nat
  turn : Nat → State → Host.Outcome State Fault Refusal
  name : Nat → Turn

def scalarStream : Stream := ⟨fun _ => 5, scalarTurn, .scalar⟩
def laneStream : Stream := ⟨Gang.pipe, laneTurn, .lane⟩

/-- A gang's next word of a stream is eligible: its turn would issue it (R177). -/
def State.eligible (s : State) (g : Nat) (G : Gang) (x : Stream) : Bool := s.hasIssued g G (x.turn g (s.asking (x.name g)))

/-- The quarter chooses a gang's word now: there is room for it, and no eligible word that has room comes before it in the scan
(R178). -/
def State.chosen (s : State) (g : Nat) (G : Gang) (x : Stream) : Bool :=
  let q := s.quarter G.place.core G.place.qtr
  q.room (G.place.slot % 16) (x.pipe G)
  && (s.rivals g G).all fun kv =>
      !(q.room (kv.2.place.slot % 16) (x.pipe kv.2) && decide (s.scanRank q kv.2 (x.pipe kv.2) < s.scanRank q G (x.pipe G))
        && s.eligible kv.1 kv.2 x)

/-- What a scalar word of a gang finds of the others of its quarter (R198): one has an eligible word that cannot issue in this clk any more,
a scalar word or a lane word without room; and one has a lane word that still can. -/
def State.others' (s : State) (g : Nat) (G : Gang) : Bool × Bool :=
  let q := s.quarter G.place.core G.place.qtr
  let lane := (s.rivals g G).filter fun kv => s.eligible kv.1 kv.2 laneStream
  let room := fun (kv : Nat × Gang) => q.room (kv.2.place.slot % 16) kv.2.pipe
  ((s.rivals g G).any (fun kv => s.eligible kv.1 kv.2 scalarStream) || lane.any fun kv => !room kv, lane.any room)

/-- Note a choice. -/
def State.noteChoice (s t : State) (G : Gang) (pipe : Nat) : State :=
  t.modCore G.place.core fun c =>
    { c with qtrs := SMap.upd G.place.qtr Quarter.init (fun q => (q.at' s.now).take (G.place.slot % 16) (s.pointerOf G pipe) pipe) c.qtrs }

/-- A turn of a stream: it takes place where the quarter chooses it, and the choice is noted where a word has issued. -/
def streamTurn (g : Nat) (x : Stream) (s : State) : Host.Outcome State Fault Refusal :=
  match s.gang? g with
  | none => .next s
  | some G =>
    if !s.chosen g G x then .next s
    else
      match x.turn g { s with ask := { s.ask with rivals := if x.pipe G = 5 then s.others' g G else (false, false) } } with
      | .next t => .next (if s.hasIssued g G (.next t) then s.noteChoice t G (x.pipe G) else t)
      | o => o

def stepScalar (g : Nat) (s : State) : Host.Outcome State Fault Refusal := streamTurn g scalarStream s

def stepLane (g : Nat) (s : State) : Host.Outcome State Fault Refusal := streamTurn g laneStream s

/-! ## The clock -/

/-- A gang's next word of a stream has been eligible in this clk without issuing: none of its own has been chosen (R177, R178). -/
def State.leftOver (s : State) (g : Nat) (G : Gang) (x : Stream) : Bool :=
  ((s.quarter G.place.core G.place.qtr).taken.all fun t =>
    decide (t.1 ≠ G.place.slot % 16) || (decide (t.2.2 = 5) != decide (x.pipe G = 5)))
  && s.eligible g G x

/-- A gang after a clk: a word that was not eligible in it, or issued, counts anew; one that has waited eligible for 4,096 clk is promoted
(R178). -/
def State.ageGang (s : State) (g : Nat) (G : Gang) : Gang :=
  let lane := !G.runs.isEmpty && s.leftOver g G laneStream
  let scalar := s.leftOver g G scalarStream
  let G := if lane then { G with promo := G.promo || decide (G.since + 4096 ≤ s.now + 1) } else { G with since := s.now + 1 }
  if scalar then { G with promoS := G.promoS || decide (G.sinceS + 4096 ≤ s.now + 1) } else { G with sinceS := s.now + 1 }

/-- The engines' clk is paid for (R294, R415, R445). -/
def State.payEngines (s : State) : State :=
  (SMap.keys s.engines).foldl (fun (s : State) e => (s.occupant e).elim s fun g => s.payTime (engArb e) g) s

/-- A quarter has an eligible lane word that still has room in this clk, which it takes before the clk ends (R178). -/
def State.wordsLeft (s : State) : Bool :=
  s.gangs.any fun kv =>
    (s.quarter kv.2.place.core kv.2.place.qtr).room (kv.2.place.slot % 16) kv.2.pipe && s.eligible kv.1 kv.2 laneStream

/-- The clock advances: engines are charged for the clk, gangs age, and what waits at the arbiters is granted where it can be (R178, R444,
R445). -/
def State.tick (s : State) : State :=
  let t := s.payEngines
  let t := { t with now := s.now + 1, gangs := t.gangs.map fun (kv : Nat × Gang) => (kv.1, s.ageGang kv.1 kv.2) }
  ({ t with queued := t.queued.filter fun w => !t.stale w } : State).drainQueues

/-! ## A turn -/

/-- What a turn does; one that names a word of a stream that waits, or an event whose operands name nothing of the part, does
nothing. -/
def takeTurn (t : Turn) (s : State) : Host.Outcome State Fault Refusal :=
  match t with
  | .scalar g => stepScalar g s
  | .lane g => stepLane g s
  | .event i => if (encode i).isEmpty && i.wf then exec i s else .next s
  | .outside x => outsideStep x s
  | .clk => .next (if s.wordsLeft then s else s.tick)

/-- The errors that a turn has met at a home, where no agent of the part stands for the access: counted, and halting in strict mode
(R392). -/
def State.countFound (s : State) : State :=
  s.found.foldl (fun s x => s.uncorrectable x.1 x.2.1 x.2.2 Agent.none) { s with found := [] }

/-- One turn. One in which a request could not be granted waits with that request, and nothing else of it happens (R444, R447). -/
def stepTurn (t : Turn) (s : State) : Host.Outcome State Fault Refusal :=
  let s := s.asking t
  match takeTurn t s with
  | .next u =>
    match u.ask.short with
    | some q => .next (s.waitFor u.ask.granted q)
    | none => .next ({ u with queued := u.queued.filter fun w => decide (w.turn ≠ some t), ask := Asking.none } : State).countFound
  | o => o

end Sys2Proof.Machine
end

