-- ==== Sys2Proof/Machine/Step.lean ====
section
/-! DEFINITION. The step: whoever moves next issues its next word, or a step of the part that is no word takes place, or
the clock advances. -/

namespace Sys2Proof.Machine

/-- One step: the first turn of the agenda, or one that nothing fixes. -/
def step (s : State) : Host.Outcome State Fault Refusal :=
  match s.agenda with
  | t :: rest => stepTurn t { s with agenda := rest }
  | [] => stepTurn (Config.nextTurn s.fresh) { s with fresh := s.fresh + 1 }

/-! ## A word placed where the next step fetches it -/

/-- The gang that runs a placed word: gang 0 of workgroup 0 of grid 0 of virtual device 0, in slot 0 of core 0, as at birth
(R27). -/
def placedGang (runs : List Run) : Gang :=
  { place := ⟨0, 0, 0, 0, 0, 0, 0⟩, pc := 0x1000, s := [], m := [(0, 0xFFFFFFFF)], c := false, stack := [],
    lane := ⟨[], [], [], [], []⟩, sp := ⟨0, 0x2000, 0, presets, false, false, 0, 0, []⟩, runs := runs, pend := [],
    eng := ⟨0, [], [], false, 0, 0⟩, life := .awake, wait := .none, park := none, owed := ⟨false, false, false⟩,
    restart := ⟨0, [], 0, false⟩, issued := 0, promo := false, since := 0, promoS := false, sinceS := 0, vnum := 0, grid := 0 }

/-- The grid of the placed gang: one workgroup of one gang with 256 registers, no scratch, barriers or tiles. -/
def placedGrid : Grid :=
  { vnum := 0, prio := 0, id := 0, w := 1, ngang := 1, regs := 256, scr := 0, bars := 0, tiles := 0, f := 0, mt := 0, v := 0,
    coh := 0, cpair := false, tsave := false, arg := 0, entry := 0x1000, wtest := false, lsbase := 0x2000, fmtbase := 0,
    seed := 0, spbase := 0, spstr := 0, seq := 0, next := 1, live := 1, kids := 0, killed := false, record := none,
    park := none, code := [], image := [], root := some 0x100000, quiet := false }

/-- The workgroup of the placed gang. -/
def placedWg : Wg :=
  { grid := 0, num := 0, child := none, core := 0, twin := false, gangs := [0], scratch := [], scrBad := [], bars := [],
    slots := [], older := [], tile := [], tileSc := [], tileBad := [], busy := [], latches := [], contrib := [], stage := .running,
    saved := false, ways := [], ways2 := [], ctx := none, lone := false, away := [], rings := [] }

/-- The run of a placed lane word: the word and an ENDRUN, or, for an ENDRUN, one LNOP and the word. -/
def placedRun (w : BitVec 96) : Run :=
  let trailer := decide (w.toNat / 2 ^ 88 = 0xF0)
  let ws : List (BitVec 96) := if trailer then [0, w] else [w, BitVec.ofNat 96 (0xF0 * 2 ^ 88)]
  let sets := runSets (ws.take 1)
  ⟨0, 0x1000, 0x2000, 0, 1, 0, ws, if trailer then 1 else 0, none, sets.1, sets.2, none⟩

/-- Page-table entries that map the first 1 GB of virtual device 0 to the first 1 GB of stack 0 with every right
(R350, R351). -/
def placedTables : List (Nat × Nat) :=
  [(0x100000, 0x101001), (0x101000, 0x102001), (0x102000, 0x40000000000001E1)]

/-- `s` with a resident gang whose next word is the given one, mapped, fetched by the very next step. It stands for the
launch of a one-gang grid (log entry 4). -/
def State.withFetchWord (s : State) (nbits w : Nat) : State :=
  let lane := decide (32 < nbits)
  let mem := placedTables.foldl (fun m e => Memory.write m e.1 (toBytes 8 e.2)) s.mem
  let mem := if lane then Memory.write mem 0x2000 (toBytes 12 w) else Memory.write mem 0x1000 (toBytes 4 w)
  { s with
    mem := mem
    gangs := SMap.put 0 (placedGang (if lane then [placedRun (BitVec.ofNat 96 w)] else []))
      (s.gangs.filter fun kv => !(decide (kv.2.place.core = 0) && decide (kv.2.place.qtr = 0)))
    cores := SMap.upd 0 Core.init (fun c => { c with qtrs := [] }) s.cores
    wgs := SMap.put 0 placedWg s.wgs
    grids := SMap.put 0 { placedGrid with image := mem } s.grids
    ctxs := SMap.put 0 ⟨true, 0x100000, 0, []⟩ s.ctxs
    parts := SMap.put 0 Partition.init s.parts
    pkg := { s.pkg with power := .running }
    agenda := [if lane then .lane 0 else .scalar 0] }

end Sys2Proof.Machine
end

