-- ==== Sys2Proof/Safety.lean ====
section
/-! DEFINITION. What counts as a safe run, and the terms that claims use: the canonical form of memory, a scalar word and a
lane word that nothing holds back, and what each leaves when it has issued. -/

namespace Sys2Proof.Machine

/-- The outcome is a next state. -/
def Completes (o : Host.Outcome State Fault Refusal) : Prop := ∃ t, o = .next t

/-- A state from which the next step is no fault and no refusal of the model. -/
def State.Safe (s : State) : Prop := Completes (step s)

/-- The canonical form of memory: bytes and sidecar listed at rising addresses and never as zero, poison marks listed once
each, rising. -/
def State.Canon (s : State) : Prop :=
  Memory.wf s.mem = true ∧ Memory.wf s.side = true ∧ s.bad.Pairwise (· < ·) ∧ s.sideBad.Pairwise (· < ·)

/-! ## A scalar word that issues -/

/-- The scalar word `i` is the one that gang `G` issues: the gang is the one whose turn it is, its stream is ready, and the
word is well-formed (R72, R177, R189, R379). -/
structure State.ScalarTurn (s : State) (G : Gang) (i : Instr) : Prop where
  gang  : s.gang? s.cur = some G
  ready : s.scalarReady G = true
  wf    : i.wf = true

/-- A scalar word of gang `g`, which was `G`, has issued and left the gang as `H`: the clocks of R36 and R38 are set. -/
def State.goOn (s : State) (g : Nat) (G H : Gang) : State := (s.putGang g H).issuedNow g G

/-- The gang whose turn it is has become `H` and its scalar word has issued. -/
def State.scalarDone (s : State) (G H : Gang) : State := s.goOn s.cur G H

/-! ## A lane word that issues -/

/-- The lane word `i`, under mask `msel` with operands `u`, is the next one of gang `G`'s oldest run `r`, and nothing holds it:
the stream is ready, the word is legal there, its operands wait for nothing, no freed register is trapped, no lane register has an
uncorrectable error, and the issue token is there, `p` being the state once it is paid (R25, R56, R67, R69, R72, R115, R120, R177, R367,
R379, R393, R444). -/
structure State.LaneTurn (s : State) (G : Gang) (r : Run) (i : Instr) (msel : Option Nat) (u : Use) (p : State) : Prop where
  gang  : s.gang? s.cur = some G
  run   : G.runs.head? = some r
  ready : s.laneReady G r = true
  wf    : i.wf = true
  more  : r.next < r.len
  role  : roleAllows G.place.role (laneOp i) = true
  alloc : u.allocated G (s.regsOf G) = true
  free  : u.waits i G (s.regsOf G) msel = false
  sound : G.lane.err = []
  live  : (G.sp.lutrap && u.trap) = true → u.freedLanes (mkIssue s s.cur G r msel) = none
  paid  : s.pay (4 * G.place.core + G.place.qtr) G.vnum 1 = some p

/-- The state in which a lane word's effect is taken: the token is paid and its last-use registers are freed (R119). -/
def State.laneIn (s : State) (G : Gang) (r : Run) (msel : Option Nat) (u : Use) (p : State) : State :=
  p.modGang s.cur fun H => { H with lane := u.freeAll (mkIssue s s.cur G r msel) H.lane }

/-- The illegal-instruction fault of a lane word or of a scalar word: the partition halts, and nothing of the word happens (R72). -/
def State.laneIllegal (s : State) (G : Gang) (r : Run) (i : Instr) : State :=
  s.illegalLane G r.addr r.next (laneWord.wordsNat (encode i))
def State.scalarIllegal (s : State) (G : Gang) (i : Instr) : State := s.illegalScalar G ((encode i).headD 0).toNat

/-- What a word of the vector pipes leaves: in every lane the registers and mask bits that `out` gives, and log records. -/
def State.vectorDone (s : State) (G : Gang) (r : Run) (msel : Nat) (u : Use) (p : State) (d : Dst) (out : Issue → Nat → LaneOut) :
    State :=
  let x := mkIssue s s.cur G r (some msel)
  (x.finish d (out x) (s.laneIn G r (some msel) u p)).laneIssued s.cur G r.serial

/-- What a word leaves whose result is a function `g` of its sources: in every lane one number in one or two registers, with
the OR of the sources' poison (R116, R128). -/
def State.numDone (s : State) (G : Gang) (r : Run) (msel : Nat) (srcs : List (Src × Bool)) (p : State) (d : Dst) (wide : Bool)
    (g : List Nat → Nat) : State :=
  s.vectorDone G r msel (srcUse srcs d wide) p d fun x l => { vals := Machine.cells wide (g (x.args l srcs).1) (x.args l srcs).2 }

/-- A lane word has issued whose result is outstanding: from the state `q` in which its effect was taken, the operation `k` joins
the gang's. -/
def State.heldDone (s : State) (G : Gang) (r : Run) (q : State) (k : Pend) : State :=
  (({ q with nextId := q.nextId + 1 } : State).addPend s.cur k).laneIssued s.cur G r.serial

/-- An operation of word `i` of run `r` as it begins: counted in class `c`, neither complete nor parked. -/
structure Pend.Begins (k : Pend) (id : Nat) (kind : PendKind) (c : Option Cnt) (r : Run) (i : Instr) : Prop where
  id   : k.id = id
  kind : k.kind = kind
  cls  : k.cls = c
  run  : k.run = some r.serial
  word : k.word = i
  done : k.done = false
  park : k.park = none

/-! ## A chain that an engine works on -/

/-- Engine `e` is held by chain `c`, which can proceed (R282). -/
structure State.Holds (s : State) (e : Nat) (c : Chain) : Prop where
  cur   : (s.engine e).cur = some c.id
  chain : s.chain? e c.id = some c
  go    : s.canProceed e c = true

/-! ## A memory word that issues -/

/-- Lanes carried out one after another without a fault, from one state to another; lane `l` gives `out l`. -/
def LanesOk {α : Type} (one : State → Nat → State × Except FaultInfo α) : State → List Nat → State → (Nat → α) → Prop
  | v, [], t, _ => t = v
  | v, l :: ls, t, out => ∃ w, one v l = (w, .ok (out l)) ∧ LanesOk one w ls t out

/-- The address of a lane of a memory word (R60, R235). -/
def Issue.laneAddr (x : Issue) (f : LM) (l : Nat) : Nat :=
  let base := if f.amode = 0 then 0 else (x.gang.spair f.aux.toNat).toNat
  let index : Int :=
    if f.amode = 2 then (BitVec.ofNat 32 (x.word l f.a false).1).toInt
    else ((x.word l f.a (decide (f.amode = 0))).1 : Nat)
  (((base : Int) + index + f.off.toInt) % 2 ^ 64).toNat

/-- A memory word that issues: its turn has come, its mask register is not empty, its counter has room; where it releases, every
earlier access is performed, and where it acquires, every earlier read (R310, R318, R320). -/
structure State.MemTurn (s : State) (G : Gang) (r : Run) (i : Instr) (f : LM) (u : Use) (c : Cnt) (p : State) : Prop where
  turn  : s.LaneTurn G r i (some f.msel.toNat) u p
  some  : G.mreg f.msel.toNat ≠ 0
  room  : G.full c = false
  order : f.order.toNat / 2 % 2 = 1 → G.releaseWaits = false
  acq   : f.order.toNat % 2 = 1 → G.acquireWaits = false

/-- The state in which the lanes of a memory word are carried out: the word has its number, and a release has taken its
effect on the caches, at the workgroup's scope where every address `as` that the word accesses is in the window (R235, R318). -/
def State.memIn (s : State) (G : Gang) (r : Run) (f : LM) (u : Use) (p : State) (as : List Nat) : State :=
  let q := s.laneIn G r (some f.msel.toNat) u p
  let scope := if 2 ≤ f.scope.toNat ∧ as.all inWindow then 1 else f.scope.toNat
  let q := ({ q with nextId := q.nextId + 1 } : State)
  if f.order.toNat / 2 % 2 = 1 then q.release G scope else q

/-- A memory word whose lanes stand alone and meet no fault leaves an outstanding operation of which no lane is performed
(R236, R237): performed at any time, lanes of it make their accesses `one` after another, and `regs` of what each finds are added
to what the word will deliver. -/
def State.MemLeaves {α : Type} (s : State) (G : Gang) (r : Run) (i : Instr) (f : LM) (u : Use) (p : State) (as : List Nat)
    (kind : PendKind) (c : Cnt) (zero : List (Nat × Cell)) (one : Gang → Agent → State → Nat → State × Except FaultInfo α) (regs : Nat → α → List (Nat × Cell)) :
    Prop :=
  let x := mkIssue s s.cur G r (some f.msel.toNat)
  ∀ (t : State) (out : Nat → α), LanesOk (one G (s.laneAgent G r.addr r.next)) (s.memIn G r f u p as) x.act t out →
    ∃ k, exec i s = .next (((s.memIn G r f u p as).addPend s.cur k).laneIssued s.cur G r.serial)
      ∧ k.Begins (s.laneIn G r (some f.msel.toNat) u p).nextId kind (some c) r i ∧ k.results = zero ∧ k.todo = maskOf x.act
      ∧ ∀ (H : Gang) (ag : Agent) (v w : State) (ls : List Nat) (out : Nat → α) (rs : List (Nat × Cell)) (n : Nat),
        (∀ l ∈ ls, l ∈ x.act) → LanesOk (one H ag) v ls w out →
          let y := wordTry s.cur H ag { k with results := rs, todo := n } ls v
          y.s = w ∧ y.faults = [] ∧ y.p.results = rs ++ ls.flatMap fun l => regs l (out l)

/-! ## A port that takes a command -/

/-- The translation command port of partition `p` takes a command now: the device is up with the partition in service, it is not halted, and no
flush and no cluster reset is under way (R359, R381, R476). -/
structure State.PortFree (s : State) (p : Nat) : Prop where
  live  : s.stopped p = false
  up    : s.inService p = true
  drain : (s.part p).port.drain = none
  reset : (s.part p).port.reset = none

/-- A command of the port has begun: its done and error bits are clear (R359). -/
def State.portBegun (s : State) (p : Nat) : State :=
  s.modPart p fun P => { P with port := { P.port with done := false, error := false } }

/-- The package mailbox answers with an error and does nothing else, or carries out a request that left the state `t`. -/
def State.mailRefused (s : State) : State := ({ s with pkg := { s.pkg with mailErr := true } } : State).emit .mailboxError
def State.mailDone (t : State) : State := ({ t with pkg := { t.pkg with mailErr := false } } : State).emit .mailboxOk

end Sys2Proof.Machine
end

