-- ==== Sys2Proof/Certificates/Slice0/Obligations.lean ====
section
/-! DEFINITION. The statements for the provers, with the rule of the spec each formalises. -/

open Sys2Proof Sys2Proof.Machine

/-! ## The scalar stream -/

/-- R181: what each of the SR words at op 0x01 leaves: its destination alone, with C, memory and everything else as before,
and its encoding. The word issues where no queued run still reads its destination (R173). -/
def Obligations.ScalarAluResults : Prop :=
  ∀ (s : State) (G : Gang) (d a b : BitVec 7),
    let A := G.sreg a.toNat
    let B := G.sreg b.toNat
    let P : Nat := A.toNat + 2 ^ 32 * (G.sreg (a.toNat + 1)).toNat
    let Q : Nat := B.toNat + 2 ^ 32 * (G.sreg (b.toNat + 1)).toNat
    let ones := (List.range 32).filter fun i => A.getLsbD i
    (∀ e ∈ ([(.sadd d a b, 0x00, BitVec.ofNat 32 (A.toNat + B.toNat)),
        (.ssub d a b, 0x01, BitVec.ofInt 32 ((A.toNat : Int) - B.toNat)),
        (.smul d a b, 0x02, BitVec.ofNat 32 (A.toNat * B.toNat)),
        (.smulh d a b, 0x03, BitVec.ofInt 32 (A.toInt * B.toInt / 2 ^ 32)),
        (.smulhN32 d a b, 0x04, BitVec.ofNat 32 (A.toNat * B.toNat / 2 ^ 32)),
        (.sand d a b, 0x05, A &&& B), (.sor d a b, 0x06, A ||| B), (.sxor d a b, 0x07, A ^^^ B),
        (.sshl d a b, 0x08, BitVec.ofNat 32 (A.toNat * 2 ^ (B.toNat % 32))),
        (.sshr d a b, 0x09, BitVec.ofNat 32 (A.toNat / 2 ^ (B.toNat % 32))),
        (.ssra d a b, 0x0A, BitVec.ofInt 32 (A.toInt / 2 ^ (B.toNat % 32))),
        (.smin d a b, 0x0B, BitVec.ofInt 32 (min A.toInt B.toInt)),
        (.sminN32 d a b, 0x0C, BitVec.ofNat 32 (min A.toNat B.toNat)),
        (.smax d a b, 0x0D, BitVec.ofInt 32 (max A.toInt B.toInt)),
        (.smaxN32 d a b, 0x0E, BitVec.ofNat 32 (max A.toNat B.toNat)),
        (.ssel d a b, 0x0F, if G.c then A else B)] : List (Instr × BitVec 5 × Word)),
      encode e.1 = [(0x01 : BitVec 6) ++ d ++ a ++ b ++ e.2.1]
      ∧ (s.ScalarTurn G e.1 → G.sregWriteWaits d.toNat = false →
          exec e.1 s = .next (s.scalarDone G (G.setS d.toNat e.2.2).next)))
    ∧ (∀ e ∈ ([(.smov d a, 0x10, A), (.spopc d a, 0x11, BitVec.ofNat 32 ones.length),
        (.sffs d a, 0x12, BitVec.ofNat 32 (ones.head?.getD 32)),
        (.sbrev d a, 0x13, A.reverse)] : List (Instr × BitVec 5 × Word)),
      encode e.1 = [(0x01 : BitVec 6) ++ d ++ a ++ (0 : BitVec 7) ++ e.2.1]
      ∧ (s.ScalarTurn G e.1 → G.sregWriteWaits d.toNat = false →
          exec e.1 s = .next (s.scalarDone G (G.setS d.toNat e.2.2).next)))
    ∧ (∀ e ∈ ([(.saddB64 d a b, 0x14, BitVec.ofNat 64 (P + Q)),
        (.ssubB64 d a b, 0x15, BitVec.ofInt 64 ((P : Int) - Q))] : List (Instr × BitVec 5 × DWord)),
      encode e.1 = [(0x01 : BitVec 6) ++ d ++ a ++ b ++ e.2.1]
      ∧ (s.ScalarTurn G e.1 → G.sregWriteWaits d.toNat = false → G.sregWriteWaits (d.toNat + 1) = false →
          exec e.1 s = .next (s.scalarDone G ((G.setS d.toNat (e.2.2.extractLsb' 0 32)).setS (d.toNat + 1)
            (e.2.2.extractLsb' 32 32)).next)))

/-- R182: SCMP leaves the comparison, as 1 or 0, in its destination and in C; cond 0x0A to 0x1F is the illegal-instruction
fault. -/
def Obligations.ScalarCompareResult : Prop :=
  ∀ (s : State) (G : Gang) (d a b : BitVec 7),
    let A := G.sreg a.toNat
    let B := G.sreg b.toNat
    (∀ e ∈ ([(0x00, decide (A = B)), (0x01, decide (A ≠ B)), (0x02, decide (A.toInt < B.toInt)),
        (0x03, decide (A.toInt ≤ B.toInt)), (0x04, decide (B.toInt < A.toInt)), (0x05, decide (B.toInt ≤ A.toInt)),
        (0x06, decide (A.toNat < B.toNat)), (0x07, decide (A.toNat ≤ B.toNat)), (0x08, decide (B.toNat < A.toNat)),
        (0x09, decide (B.toNat ≤ A.toNat))] : List (BitVec 5 × Bool)),
      s.ScalarTurn G (.scmp d a b e.1) → G.sregWriteWaits d.toNat = false →
        exec (.scmp d a b e.1) s =
          .next (s.scalarDone G ({ G.setS d.toNat (if e.2 then 1 else 0) with c := e.2 } : Gang).next))
    ∧ (∀ fn : BitVec 5, 0x0A ≤ fn.toNat → s.gang? s.cur = some G → s.scalarReady G = true →
        decodeScalar ((0x02 : BitVec 6) ++ d ++ a ++ b ++ fn) = .error .scalarField
        ∧ exec (.scmp d a b fn) s = .next (s.illegalScalar G ((0x02 : BitVec 6) ++ d ++ a ++ b ++ fn).toNat))

/-- R183: what the four immediate forms leave, and their encodings; the pairs of SADDI.b64 are even. -/
def Obligations.ScalarImmediateResults : Prop :=
  ∀ (s : State) (G : Gang) (d a : BitVec 7) (i12 : BitVec 12) (i19 : BitVec 19),
    let A := G.sreg a.toNat
    let P : Nat := A.toNat + 2 ^ 32 * (G.sreg (a.toNat + 1)).toNat
    (∀ e ∈ ([(.saddi d a i12, (0x03 : BitVec 6) ++ d ++ a ++ i12, BitVec.ofInt 32 (A.toInt + i12.toInt)),
        (.sli d i19, (0x04 : BitVec 6) ++ d ++ i19, BitVec.ofInt 32 i19.toInt),
        (.sliH d i19, (0x05 : BitVec 6) ++ d ++ i19,
          BitVec.ofNat 32 (i19.toNat * 2 ^ 13 + (G.sreg d.toNat).toNat % 0x2000))] : List (Instr × Word × Word)),
      encode e.1 = [e.2.1]
      ∧ (s.ScalarTurn G e.1 → G.sregWriteWaits d.toNat = false →
          exec e.1 s = .next (s.scalarDone G (G.setS d.toNat e.2.2).next)))
    ∧ encode (.saddiB64 d a i12) = [(0x06 : BitVec 6) ++ d ++ a ++ i12]
    ∧ (s.ScalarTurn G (.saddiB64 d a i12) → G.sregWriteWaits d.toNat = false → G.sregWriteWaits (d.toNat + 1) = false →
        let v := BitVec.ofInt 64 ((P : Int) + i12.toInt)
        exec (.saddiB64 d a i12) s = .next (s.scalarDone G ((G.setS d.toNat (v.extractLsb' 0 32)).setS (d.toNat + 1)
          (v.extractLsb' 32 32)).next))
    ∧ ((d.toNat % 2 = 1 ∨ a.toNat % 2 = 1) → (Instr.saddiB64 d a i12).wf = false)

/-- R184, R185: what the mask words leave, the reconvergence forms once every run queued before them has retired, and that
until then a reconvergence form changes nothing. -/
def Obligations.MaskResults : Prop :=
  ∀ (s : State) (G : Gang) (d a b : BitVec 7),
    let A := G.mreg a.toNat
    let B := G.mreg b.toNat
    let ones := (List.range 32).filter fun i => A.getLsbD i
    let free := fun (ks : List (BitVec 7)) => ∀ k ∈ ks, G.maskReadWaits k.toNat = false
    (∀ e ∈ ([(.mand d a b, [a, b], fun i => A.getLsbD i && B.getLsbD i),
        (.mor d a b false, [a, b], fun i => A.getLsbD i || B.getLsbD i),
        (.mandn d a b, [a, b], fun i => A.getLsbD i && !B.getLsbD i),
        (.mxor d a b, [a, b], fun i => A.getLsbD i != B.getLsbD i),
        (.mnot d a, [a], fun i => !A.getLsbD i),
        (.mmov d a false, [a], fun i => A.getLsbD i)] : List (Instr × List (BitVec 7) × (Nat → Bool))),
      s.ScalarTurn G e.1 → free e.2.1 → G.maskWriteWaits d.toNat = false →
        ∃ v : Word, (∀ i < 32, v.getLsbD i = e.2.2 i) ∧ exec e.1 s = .next (s.scalarDone G (G.setM d.toNat v).next))
    ∧ (∀ e ∈ ([(.mor d a b true, A ||| B), (.mmov d a true, A)] : List (Instr × Word)),
        s.ScalarTurn G e.1 →
        (G.runs = [] → exec e.1 s = .next (s.scalarDone G (G.setM d.toNat e.2).next))
        ∧ (G.runs ≠ [] → exec e.1 s = .next s))
    ∧ (∀ e ∈ ([(.mpop d a, ones.length), (.mfirst d a, ones.head?.getD 32)] : List (Instr × Nat)),
        s.ScalarTurn G e.1 → G.maskReadWaits a.toNat = false → G.sregWriteWaits d.toNat = false →
        exec e.1 s = .next (s.scalarDone G
          ({ G.setS d.toNat (BitVec.ofNat 32 e.2) with c := decide (A ≠ 0) } : Gang).next))

/-- R47, R186: where each branch goes on: at PC + 4 · off, modulo 2^57, if its condition holds, else at the next word. Below
the first address the modulus is the model's reading (log entry 21). R186, R187: CALL pushes its return PC and RET pops it; at 32 entries CALL, and at none RET, halt the partition with the
call-stack fault, cause 0x16; a RET that finds an entry of kind window is illegal. -/
def Obligations.BranchesAndCalls : Prop :=
  (
  ∀ (s : State) (G : Gang) (m : BitVec 7) (off : BitVec 15),
    let go := fun (taken : Bool) =>
      { G with pc := if taken then (((G.pc : Int) + 4 * off.toInt) % 2 ^ 57).toNat else (G.pc + 4) % 2 ^ 57 }
    (∀ e ∈ ([(.jmp off, true), (.bcT off, G.c), (.bcF off, !G.c)] : List (Instr × Bool)),
      s.ScalarTurn G e.1 → exec e.1 s = .next (s.scalarDone G (go e.2)))
    ∧ (∀ e ∈ ([(.bz m off, decide (G.mreg m.toNat = 0)), (.bnz m off, decide (G.mreg m.toNat ≠ 0))] : List (Instr × Bool)),
      s.ScalarTurn G e.1 → G.maskReadWaits m.toNat = false → exec e.1 s = .next (s.scalarDone G (go e.2)))
  ) ∧ (
  ∀ (s : State) (G : Gang) (off : BitVec 15),
    (s.ScalarTurn G (.call off) →
      exec (.call off) s = .next (if G.stack.length < 32 then
        s.scalarDone G { G with stack := ⟨(G.pc + 4) % 2 ^ 57, false, 0⟩ :: G.stack,
                                pc := (((G.pc : Int) + 4 * off.toInt) % 2 ^ 57).toNat }
        else s.haltScalar G (plainFault 0x16 0 0 0)))
    ∧ (s.ScalarTurn G .ret →
      exec .ret s = .next (match G.stack with
        | [] => s.haltScalar G (plainFault 0x16 0 0 0)
        | e :: rest =>
          if e.window then s.illegalScalar G 0x6C000000 else s.scalarDone G { G with stack := rest, pc := e.ret }))
  )
/-- R123 to R126, R187: CALLW slides the window and pushes its return where the window still fits; where it does not, it first spills
granules from LOW upward, each to its place in the spill area, and a window that does not fit with no spill granule left is the
window-overflow fault; a full call stack is the call-stack fault. RETW pops and slides back, filling granules downward until LOW is at
most the new base. Outside window mode both are illegal, as is a RETW whose top entry is plain. The model's choices: a full call stack
faults before any spill and before a window overflow (log entry 68), and which granules hold free values after a RETW (log entry 47). -/
def Obligations.WindowCalls : Prop :=
  ∀ (s : State) (G : Gang) (k : BitVec 4) (off : BitVec 15),
    let gr := s.regsOf G / 8
    (s.ScalarTurn G (.callw k off) → G.gated = false →
      (G.sp.win = false → exec (.callw k off) s = .next (s.illegalScalar G (wordOf (.callw k off))))
      ∧ (G.sp.win = true → G.windowWaits = false →
        (32 ≤ G.stack.length → exec (.callw k off) s = .next (s.haltScalar G (plainFault 0x16 0 0 0)))
        ∧ (G.stack.length < 32 →
          (G.sp.wb + k.toNat + gr / 2 ≤ gr + G.sp.low →
            exec (.callw k off) s = .next (s.scalarDone G { G with
              sp := { G.sp with wb := G.sp.wb + k.toNat },
              stack := ⟨(G.pc + 4) % 2 ^ 57, true, k.toNat⟩ :: G.stack,
              pc := (((G.pc : Int) + 4 * off.toInt) % 2 ^ 57).toNat }))
          ∧ (gr + G.sp.low < G.sp.wb + k.toNat + gr / 2 → s.spillStride G < G.sp.low + 1 →
            exec (.callw k off) s = .next (s.haltScalar G (plainFault 0x15 0 0 G.sp.low)))
          ∧ (∀ t, s.spill s.cur (G.sp.wb + k.toNat) 48 = .done t →
            exec (.callw k off) s = .next ((t.modGang s.cur fun H => { H with
              sp := { H.sp with wb := G.sp.wb + k.toNat },
              stack := ⟨(G.pc + 4) % 2 ^ 57, true, k.toNat⟩ :: G.stack,
              pc := (((G.pc : Int) + 4 * off.toInt) % 2 ^ 57).toNat }).issuedNow s.cur G)))))
    ∧ (s.ScalarTurn G .retw → G.gated = false →
      (G.sp.win = false → exec .retw s = .next (s.illegalScalar G 0x6C000001))
      ∧ (G.sp.win = true → G.stack = [] → exec .retw s = .next (s.haltScalar G (plainFault 0x16 0 0 0)))
      ∧ (∀ e rest, G.sp.win = true → G.stack = e :: rest →
        (e.window = false → exec .retw s = .next (s.illegalScalar G 0x6C000001))
        ∧ (e.window = true → G.windowWaits = false → G.sp.low ≤ G.sp.wb - e.slide →
          exec .retw s = .next (({ s.putGang s.cur { G.dropGranules (s.regsOf G) s.fresh (G.sp.wb - e.slide) with
            sp := { G.sp with wb := G.sp.wb - e.slide }, stack := rest, pc := e.ret } with
            fresh := s.fresh + 1 } : State).issuedNow s.cur G))
        ∧ (∀ t, e.window = true → G.windowWaits = false → s.fillTo s.cur (G.sp.wb - e.slide) 48 = .done t →
          exec .retw s = .next (({ t.modGang s.cur fun H => { H.dropGranules (t.regsOf G) t.fresh (G.sp.wb - e.slide) with
            sp := { H.sp with wb := G.sp.wb - e.slide }, stack := rest, pc := e.ret } with
            fresh := t.fresh + 1 } : State).issuedNow s.cur G))))
    ∧ (∀ (q u : State) (g base n : Nat) (H : Gang), q.gang? g = some H →
      let gr := q.regsOf H / 8
      let at' := fun a => (q.spillArea H + 1024 * a) % 2 ^ 57
      (gr + H.sp.low < base + gr / 2 → H.sp.low + 1 ≤ q.spillStride H →
        q.storeChunks g H (H.granule q.fresh (H.sp.low % gr)) (at' H.sp.low) = (u, none) →
        ∃ v : State, q.spill g base (n + 1) = State.spill { v with fresh := v.fresh + 1 } g base n
          ∧ v = (u.savingErrors H fun key => decide (key % 1024 / 8 = H.sp.low % gr)).modGang g fun K =>
            { K with sp := { K.sp with low := K.sp.low + 1, spoiled := K.sp.spoiled.erase K.sp.low } })
      ∧ (∀ cs, base < H.sp.low → q.loadChunks H (q.scalarAgent H 1 H.pc) 16 (at' (H.sp.low - 1)) = (u, .ok cs) →
        ∃ v : State, q.fillTo g base (n + 1) = State.fillTo { v with fresh := v.fresh + 1 } g base n
          ∧ v = u.modGang g fun K => { K.fillGranule ((H.sp.low - 1) % (u.regsOf H / 8))
              (if H.sp.spoiled.contains (H.sp.low - 1) then freeChunks u.fresh else cs) with sp := { K.sp with low := H.sp.low - 1 } }))
    ∧ (∀ (H : Gang) (f a r l : Nat), r < 8 → l < 32 → a < 32 →
      (((H.granule f a).getD (2 * r + l / 16) ([], false)).1.drop (4 * (l % 16))).take 4
          = toBytes 4 (H.lane.read f l (8 * a + r)).val.toNat
      ∧ ∀ cs : List (List Byte × Bool), cs.length = 16 →
          let c := cs.getD (2 * r + l / 16) ([], false)
          (H.fillGranule a cs).lane.read f l (8 * a + r) = ⟨BitVec.ofNat 32 (ofBytes ((c.1.drop (4 * (l % 16))).take 4)), c.2, true⟩)

/-- R31, R49, R72, R105, R172, R174: LRUN appends its run at the lane offset with s30 as it stands, and the run's fetch is made;
a fetch that succeeds leaves the run's words and its two sets. A fifth run waits; an illegal length or offset queues nothing
and is the illegal-instruction fault. -/
def Obligations.LrunQueuesARun : Prop :=
  ∀ (s : State) (G : Gang) (len : BitVec 5) (off : BitVec 21),
    let r : Run := ⟨s.nextId, G.pc, (G.sp.lsbase.toNat + 12 * off.toNat) % 2 ^ 64, off.toNat, len.toNat, G.sreg 30, [], 0, none,
      [], [], none⟩
    let H := { G.next with runs := G.runs ++ [r] }
    let q := ({ s with nextId := s.nextId + 1 } : State).putGang s.cur H
    (s.ScalarTurn G (.lrun len off) →
      (4 ≤ G.runs.length → exec (.lrun len off) s = .next s)
      ∧ (G.runs.length < 4 → exec (.lrun len off) s = .next ((q.fetchRun s.cur s.nextId).issuedNow s.cur G))
      ∧ (∀ u ws, G.runs.length < 4 → (∀ x ∈ G.runs, x.serial ≠ s.nextId) →
          q.fetchLane H (len.toNat + 1) r.addr = (u, .ok ws) →
          ∃ t, exec (.lrun len off) s = .next t ∧
            (t.gang? s.cur).map Gang.runs = some (G.runs ++ [{ r with
              words := ws, maskWr := (runSets (ws.take len.toNat)).1, scalRd := (runSets (ws.take len.toNat)).2 }])))
    ∧ (s.gang? s.cur = some G → s.scalarReady G = true → (Instr.lrun len off).wf = false →
        exec (.lrun len off) s = .next (s.illegalScalar G (wordOf (.lrun len off))))

/-- R37, R178, R198: NOP only goes on; YIELD sets C, to 1 where another gang of the quarter has an eligible word that cannot issue in this
clk and to 0 where none has an eligible word, and moves the pointers that serve its gang, of its level and of promoted gangs, past its
slot and no other; BKPT is a NOP without a debugger and otherwise stops the gang with a debug record, from which the debugger's resume
goes on at the next word; TRAP, once the runs have retired, issues and parks the gang with a record of cause 0x03 and its code. R28,
R189, R195, R252, R328: EXIT waits until the gang is drained, reports what it owes, counts as exited and ends its recomputable region,
and the waits that it was part of are checked; with a contribution of its set not accepted it is illegal. The model's choices: C is free
where another gang has an eligible word that may still issue in the clk, and which pointers are the gang's (log entry 6). -/
def Obligations.SystemWordsAndExit : Prop :=
  (
  ∀ (s : State) (G : Gang),
    (s.ScalarTurn G .nop → exec .nop s = .next (s.scalarDone G G.next))
    ∧ (s.ScalarTurn G .yield → ∃ c, exec .yield s = .next ((({ s.putGang s.cur { G.next with c := c } with
          fresh := s.fresh + 1 } : State).modCore G.place.core fun C =>
            { C with qtrs := SMap.upd G.place.qtr Quarter.init (fun q => (q.at' s.now).past (s.level G) (G.place.slot % 16)) C.qtrs }
            ).issuedNow s.cur G)
        ∧ (s.ask.rivals.1 = true → c = true) ∧ (s.ask.rivals = (false, false) → c = false))
    ∧ (∀ (q : Quarter) (level slot i : Nat), SMap.find? i (q.past level slot).ptrs =
        if i = level ∨ i = 4 ∨ i = 8 + level ∨ i = 12 then some ((slot + 1) % 16) else SMap.find? i q.ptrs)
    ∧ (s.ScalarTurn G .bkpt →
        ((s.vdev G.vnum).debug = false → exec .bkpt s = .next (s.scalarDone G G.next))
        ∧ ((s.vdev G.vnum).debug = true → G.runs = [] →
            exec .bkpt s = .next (((s.putGang s.cur { G with wait := .bkpt }).emit (.debugRecord s.cur G.pc)).issuedNow s.cur G)))
    ∧ (∀ g H, s.gang? g = some H → H.wait = .bkpt →
        exec (.debuggerResume g) s = .next (s.putGang g { H with pc := (H.pc + 4) % 2 ^ 57, wait := .none }))
    ∧ (∀ code : BitVec 19, s.ScalarTurn G (.trap code) →
        (G.runs ≠ [] → exec (.trap code) s = .next s)
        ∧ (G.runs = [] → exec (.trap code) s = .next ((((s.putGang s.cur { G with wait := .trap }).issuedNow s.cur G).modGang s.cur
            fun H => { H with park := some ⟨1, [(⟨0x03, 0, 0, 0, 0, 0, code.toNat⟩, 1)], false, [], false⟩ }).modPart
            (partOfVnum G.vnum) fun P => { P with groups := P.groups ++ [.scalar s.cur] })))
  ) ∧ (
  ∀ (s : State) (G : Gang), s.ScalarTurn G .exit →
    exec .exit s = .next (
      if G.runs ≠ [] then s
      else if G.place.role = 2 ∧ (s.wg? G.place.wg).any (fun W => W.unaccepted (s.setOf G).1) = true then
        s.illegalScalar G 0x70000000
      else if G.drained = false then s
      else
        let u := (((s.release G 4).acquire G 4).reportOwed s.cur).modGang s.cur fun G =>
          { G with life := .exited, restart := { G.restart with rv := false } }
        ((((u.checkBarriers G.place.wg).checkRendezvous G.place.wg s.cur 0x70000000).checkMixedWait G.place.wg s.cur
          0x70000000).issuedNow s.cur G))
  )

/-- R48, R311, R312, R324 to R326: what each waiting word waits for, and what it does once that holds; until then it changes
nothing. -/
def Obligations.WaitsAndFences : Prop :=
  ∀ (s : State) (G : Gang),
    (∀ (ld st cp tl gx pl : BitVec 4) (mode : BitVec 2), s.ScalarTurn G (.waitc ld st cp tl gx pl mode) →
      let ts := [(Cnt.ld, ld), (.st, st), (.cp, cp), (.tl, tl), (.gx, gx), (.pl, pl)]
      let met := if mode = 0 then ∀ x ∈ ts, x.2 ≠ 15 → G.count x.1 ≤ x.2.toNat
        else (∀ x ∈ ts, x.2 = 15) ∨ ∃ x ∈ ts, x.2 ≠ 15 ∧ G.count x.1 ≤ x.2.toNat
      (G.runsIssued = true ∧ met → exec (.waitc ld st cp tl gx pl mode) s = .next (s.scalarDone G G.next))
      ∧ (¬(G.runsIssued = true ∧ met) → exec (.waitc ld st cp tl gx pl mode) s = .next s))
    ∧ (∀ (a : BitVec 7) (cls : BitVec 3), s.ScalarTurn G (.waitr a cls) →
      let c := [Cnt.ld, .st, .cp, .tl, .gx, .pl].getD cls.toNat .pl
      exec (.waitr a cls) s = .next (if G.runsIssued = true ∧ G.count c ≤ (G.sreg a.toNat).toNat then s.scalarDone G G.next else s))
    ∧ (∀ (scope : BitVec 3) (ord : BitVec 2), s.ScalarTurn G (.fence scope ord) →
      let rel := ord.getLsbD 1
      let acq := ord.getLsbD 0
      exec (.fence scope ord) s = .next (if G.runsIssued = false ∨ (rel = true ∧ G.releaseWaits = true) ∨ (acq = true ∧ (G.acquiring = true ∨ G.acquireWaits = true)) then s
        else
          let u := if rel then s.release G scope.toNat else s
          (if acq then u.acquire G scope.toNat else u).goOn s.cur G G.next))
    ∧ (∀ paths : BitVec 4, s.ScalarTurn G (.pfence paths) →
      exec (.pfence paths) s = .next (if G.runsIssued = false ∨ G.releaseWaits = true then s
        else ((s.release G 3).dropPath G.place.core paths.toNat).goOn s.cur G G.next))
    ∧ (s.ScalarTurn G .xfence →
      exec .xfence s = .next (if G.drained = true then
        (((((s.release G 4).acquire G 4).reportOwed s.cur).modGang s.cur Gang.next).issuedNow s.cur G) else s))

/-- R194 to R196: BARI sets E and BARA and BARW count an arrival, each with its check; an illegal barrier number or count faults.
A check that finds the phase complete clears A and lets every gang that waits in BARW on the barrier go on at its next word;
one that does not changes nothing. -/
def Obligations.Barriers : Prop :=
  ∀ (s : State) (G : Gang) (W : Wg) (a : BitVec 7) (b : BitVec 6), s.wg? G.place.wg = some W →
    let e := (G.sreg a.toNat).toNat
    let fence := fun (H : Gang) => ((s.release G 1).arrive s.cur G.place.wg b.toNat).putGang s.cur H
    (s.ScalarTurn G (.bari a b) → exec (.bari a b) s = .next (
        if s.barriersOf W ≤ b.toNat ∨ 64 < e ∨ W.gangs.length < e then s.illegalScalar G (wordOf (.bari a b))
        else (((s.putGang s.cur G.next).modWg G.place.wg fun W =>
            { W with bars := SMap.upd b.toNat ⟨0, 0⟩ (fun B => { B with e := e }) W.bars }).checkBarrier G.place.wg b.toNat
          ).issuedNow s.cur G))
    ∧ (s.ScalarTurn G (.bara b) → exec (.bara b) s = .next (
        if s.barriersOf W ≤ b.toNat then s.illegalScalar G (wordOf (.bara b))
        else if G.arrivalWaits then s
        else ((fence G.next).checkBarrier G.place.wg b.toNat).issuedNow s.cur G))
    ∧ (s.ScalarTurn G (.barw b) → exec (.barw b) s = .next (
        if s.barriersOf W ≤ b.toNat then s.illegalScalar G (wordOf (.barw b))
        else if G.arrivalWaits then s
        else (((fence { G with wait := .barrier b.toNat }).checkBarrier G.place.wg b.toNat).checkMixedWait G.place.wg s.cur
          (wordOf (.barw b))).issuedNow s.cur G))
    ∧ (∀ (q : State) (w n : Nat) (V : Wg), q.wg? w = some V →
        let B := SMap.getD n ⟨0, 0⟩ V.bars
        let need := if B.e = 0 then (q.awakeGangs V).length else B.e
        (B.a < need → q.checkBarrier w n = q)
        ∧ (need ≤ B.a →
          ((q.checkBarrier w n).wg? w).map (fun V => SMap.getD n ⟨0, 0⟩ V.bars) = some { B with a := 0 }
          ∧ (V.gangs.Nodup → ∀ g H, q.gang? g = some H →
              (g ∈ V.gangs ∧ H.wait = .barrier n →
                (q.checkBarrier w n).gang? g = some { H with pc := (H.pc + 4) % 2 ^ 57, wait := .none })
              ∧ (¬(g ∈ V.gangs ∧ H.wait = .barrier n) → (q.checkBarrier w n).gang? g = some H))))

/-- R188 to R192: an arrival at a rendezvous waits until the gang is drained, and is illegal in a workgroup with roles or, for
REPACK, in window mode. At each position the packing of REPACK keeps every lane, puts the lanes that go on first, and fills as
many gangs as there are. A rendezvous completes when every awake gang has arrived, at one PC and with one word, and is illegal when they
differ. A gang of a completed REPACK that holds no lane that goes on sleeps; another wakes at the target with the scalar state of the
arrived gang of lowest GIDX and its lanes' masks; a gang of a completed UNPACK wakes at the next word with all lanes born in it. Lanes move
with their registers, scale registers stay, and the barriers are as at birth. -/
def Obligations.Rendezvous : Prop :=
  ∀ (s : State) (G : Gang) (W : Wg) (m : BitVec 7) (off : BitVec 15), s.wg? G.place.wg = some W →
    (s.ScalarTurn G (.repack m off) → exec (.repack m off) s = .next (
      if s.hasRoles W = true ∨ G.sp.win = true then s.illegalScalar G (wordOf (.repack m off))
      else if G.packReady = false then s
      else (s.arriveRendezvous s.cur G (.repack m off) true m.toNat
        (((G.pc : Int) + 4 * off.toInt) % 2 ^ 57).toNat).issuedNow s.cur G))
    ∧ (s.ScalarTurn G .unpack → exec .unpack s = .next (
      if s.hasRoles W = true then s.illegalScalar G 0x78000000
      else if G.packReady = false then s
      else (s.arriveRendezvous s.cur G .unpack false 0 0).issuedNow s.cur G))
    ∧ (∀ (P : List (Nat × Gang)) (p : Nat),
        ((packPosition P p).filterMap id).Perm (lanesAt P p)
        ∧ ((lanesAt P p).length ≤ P.length → (packPosition P p).length = P.length)
        ∧ (∀ i, i < ((lanesAt P p).filter Moved.go).length → ∃ x, (packPosition P p)[i]? = some (some x) ∧ x.go = true)
        ∧ (∀ i x, ((lanesAt P p).filter Moved.go).length ≤ i → (packPosition P p)[i]? = some (some x) → x.go = false))
    ∧ (∀ (g word : Nat) (lead : Nat × Gang) (rest : List (Nat × Gang)) (k target : Nat), (s.gang? g).isSome = true →
        s.awakeGangs W = lead :: rest →
        let aw := lead :: rest
        let P := (s.members W).filter fun x => decide (x.2.life ≠ .exited)
        ((∃ x ∈ aw, x.2.inRendezvous = false) → s.checkRendezvous G.place.wg g word = s)
        ∧ ((∀ x ∈ aw, x.2.inRendezvous = true) → (∃ x ∈ aw, x.2.pc ≠ lead.2.pc) → s.checkRendezvous G.place.wg g word
            = s.illegalScalar ((s.gang? g).getD G) word)
        ∧ ((∀ x ∈ aw, x.2.pc = lead.2.pc ∧ ∃ j a, x.2.wait = .rendezvous true j a) → lead.2.wait = .rendezvous true k target →
            s.checkRendezvous G.place.wg g word = s.repack G.place.wg P lead.2 target)
        ∧ ((∀ x ∈ aw, x.2.pc = lead.2.pc ∧ ∃ j a, x.2.wait = .rendezvous false j a) →
            (∀ p, p < 32 → ∀ x ∈ lanesAt P p, ∃ y ∈ P, y.2.place.gidx = x.birth) →
            s.checkRendezvous G.place.wg g word = s.unpack G.place.wg P lead.2))
    ∧ (∀ (P : List (Nat × Gang)) (lead : Gang) (target i g : Nat) (H : Gang), (P.map Prod.fst).Nodup → P[i]? = some (g, H) →
        let holds := fun p => (packPosition P p).getD i none
        let goes := fun p => decide (p < 32) && (holds p).any Moved.go
        let mine := fun p => ((lanesAt P p).find? fun x => decide (x.birth = H.place.gidx))
        (∃ K, (s.repack G.place.wg P lead target).gang? g = some K ∧ K.wait = .none ∧ K.lane.scale = H.lane.scale ∧ K.sp = H.sp
          ∧ (∀ p, p < 32 → SMap.find? p K.lane.pos = some ((holds p).map fun x => ⟨x.birth, !x.go⟩))
          ∧ K.lane.regs = ((H.placeLanes ((List.range 32).map fun p => (p, holds p))).lane).regs
          ∧ ((∀ p, goes p = false) → K.life = .asleep ∧ K.pc = H.pc)
          ∧ ((∃ p, goes p = true) → K.life = .awake ∧ K.pc = target ∧ K.s = lead.s ∧ K.c = lead.c ∧ K.stack = lead.stack
              ∧ ∀ j p, j < 8 → p < 32 → (K.mreg j).getLsbD p = (goes p && (decide (j = 0) || (holds p).any fun x => x.bits.getD j false))))
        ∧ (∃ K, (s.unpack G.place.wg P lead).gang? g = some K ∧ K.wait = .none ∧ K.life = .awake ∧ K.pc = (lead.pc + 4) % 2 ^ 57
          ∧ K.s = lead.s ∧ K.c = lead.c ∧ K.stack = lead.stack ∧ K.lane.scale = H.lane.scale ∧ K.sp = H.sp
          ∧ (∀ p, p < 32 → SMap.find? p K.lane.pos = some ((mine p).map fun x => ⟨x.birth, false⟩))
          ∧ K.lane.regs = ((H.placeLanes ((List.range 32).map fun p => (p, (mine p).map fun x => { x with go := true }))).lane).regs
          ∧ (∀ j p, j < 8 → p < 32 → (K.mreg j).getLsbD p = (decide (j = 0) && (mine p).isSome)))
        ∧ ((s.repack G.place.wg P lead target).wg? G.place.wg).map Wg.bars = some []
        ∧ ((s.unpack G.place.wg P lead).wg? G.place.wg).map Wg.bars = some [])
    ∧ (∀ (H : Gang) (f : Nat → Option Moved) (p : Nat) (x : Moved) (kc : Nat × Cell), p < 32 → f p = some x → kc ∈ x.regs →
        (x.regs.map Prod.fst).Nodup → (∀ q y, f q = some y → ∀ e ∈ y.regs, e.1 < 1024) →
        SMap.find? (p * 1024 + kc.1) (H.placeLanes ((List.range 32).map fun p => (p, f p))).lane.regs = some kc.2)

/-- R296 to R299, R315: the semaphore words at an aligned address whose page has the semaphore attribute, once every earlier run has
issued and, for a release, every earlier access is performed: SEMADD leaves the old word in its pair and the sum, modulo 2^64,
in memory; SEMSET leaves its value in memory; SEMWAIT goes on where its test holds and waits where it does not. R301, R302: RTAKE and RPOST at a ring in the workgroup's scratch: both wait while the cursor's slot is not ready for the
side; RTAKE then acquires; RPOST counts its arrival in the slot's state byte, flips the side's bit when the arrival is the
last of its side, and advances its cursor. The model's choices: these words make their accesses in the step in which they issue (log entry
8), and a ring word that waits has not issued (log entry 80). -/
def Obligations.SemaphoreAndRingWords : Prop :=
  (
  ∀ (s u : State) (G : Gang) (d a b : BitVec 7) (scope : BitVec 3) (ord : BitVec 2) (pa : Nat),
    let va := (G.spair a.toNat).toNat
    let v := (G.spair b.toNat).toNat
    let rel := ord.getLsbD 1
    let r := if rel then s.release G scope.toNat else s
    G.gated = false → G.runsIssued = true → (rel = true → G.releaseWaits = false) → va % 8 = 0 → addrFault va 0 = none →
      (s.ScalarTurn G (.semadd d a b scope ord) → s.comesAfter G G.pend [(va, 8)] = false → (ord.getLsbD 0 = true → G.acquireWaits = false) →
        G.sregWriteWaits d.toNat = false → G.sregWriteWaits (d.toNat + 1) = false →
        r.atHome G.place.core G.vnum .rmw true va = (u, .ok pa) →
        let h := u.homeAtomic G.req pa 8
        h.2 = false → h.1.extentBad pa 8 = false →
        let t := h.1.writePa pa (toBytes 8 ((h.1.read64 pa + v) % 2 ^ 64)) false
        let q := (t.writeThrough G.req pa 8).spoilSpills s.cur G va 8
        t.read64 pa = (h.1.read64 pa + v) % 2 ^ 64
        ∧ exec (.semadd d a b scope ord) s = .next (((if ord.getLsbD 0 then q.acquire G scope.toNat else q).modGang s.cur fun _ =>
            (G.setPair d.toNat (BitVec.ofNat 64 (h.1.read64 pa))).next).issuedNow s.cur G))
      ∧ (s.ScalarTurn G (.semset a b scope ord) → s.comesAfter G G.pend [(va, 8)] = false → r.atHome G.place.core G.vnum .write true va = (u, .ok pa) →
        let t := u.homeWrite G.req pa (toBytes 8 v) false
        ((isHost pa = true → hostLink ∉ u.lost) → ∃ q : State, q.read64 pa = v ∧ t = q.writeThrough G.req pa 8)
        ∧ exec (.semset a b scope ord) s = .next (((t.spoilSpills s.cur G va 8).modGang s.cur Gang.next).issuedNow s.cur G))
      ∧ (∀ test : BitVec 2, s.ScalarTurn G (.semwait a b scope test) → s.comesAfter G G.pend [(va, 8)] = false → G.acquireWaits = false →
        s.atHome G.place.core G.vnum .read true va = (u, .ok pa) →
        let h := u.homeRead G.req pa 8 true
        h.2.2 = false →
        let x := ofBytes h.2.1
        let holds := if test = 0 then v ≤ x else if test = 1 then x = v else x ≠ v
        (holds → exec (.semwait a b scope test) s = .next ((h.1.acquire G scope.toNat).goOn s.cur G { G.next with wait := .none }))
        ∧ (¬holds → exec (.semwait a b scope test) s = .next (h.1.goOn s.cur G
            { G with wait := .semaphore va v test.toNat scope.toNat })))
  ) ∧ (
  ∀ (s : State) (G : Gang) (d a : BitVec 7),
    let v := (G.sreg a.toNat).toNat
    let off := v / 64 * 64
    let side := v % 2
    let q := G.sreg d.toNat
    let c := ofBytes (s.scratchRead G off 8).bytes
    let n := c % 32 + 1
    let slot := off + 32 + q.toNat % n
    let b := ofBytes (s.scratchRead G slot 1).bytes
    let lap := q.toNat / n % 2
    let ready := b / 64 % 2 = lap ∧ (if side = 0 then b / 128 % 2 = lap else b / 128 % 2 ≠ lap)
    let full := (if side = 0 then c / 2 ^ 12 % 64 else c / 2 ^ 18 % 64) + 1
    let b' := if b % 64 + 1 = full then (if side = 0 then (b ^^^ 0x80) / 64 * 64 else (b ^^^ 0x40) / 64 * 64) else b / 64 * 64 + (b % 64 + 1) % 64
    v / 2 % 32 = 0 → s.scratchOk G off 64 = true → G.acquiring = false → c / 2 ^ 24 % 2 ^ 40 = 0 → c / 2 ^ 5 % 2 ^ 7 = 0 →
      (s.ScalarTurn G (.rtake d a) → s.comesAfter G G.pend [(windowBase + off, 64)] = false → G.acquireWaits = false →
        G.runsIssued = true →
        (ready → exec (.rtake d a) s = .next (((s.useRing G off).acquire G 1).goOn s.cur G { G.next with wait := .none }))
        ∧ (¬ready → exec (.rtake d a) s = .next ((s.useRing G off).putGang s.cur { G with wait := .ring off })))
      ∧ (s.ScalarTurn G (.rpost d a) → s.comesAfter G G.pend [(windowBase + off, 64)] = false → G.sregWriteWaits d.toNat = false →
        (ready → G.arrivalWaits = false →
          exec (.rpost d a) s = .next ((((s.useRing G off).release G 1).scratchWrite G slot [BitVec.ofNat 8 b'] false).goOn s.cur G
            { (G.setS d.toNat (q + 1)).next with wait := .none }))
        ∧ (¬ready → exec (.rpost d a) s = .next ((s.useRing G off).putGang s.cur { G with wait := .ring off })))
  )

/-- R228, R235, R345: a scalar load leaves the bytes at pair + offset, little-endian, in its register or pair, and a scalar store
writes them, in scratch or through the L1; both wait for every earlier run to issue and for the gang's own earlier accesses to a
byte in common, and halt on a misaligned address with cause 0x12, the size in DETAIL. The model's choices: the access is performed in the
step in which the word issues (log entry 8), and its alignment is checked first (log entry 45). -/
def Obligations.ScalarLoadStore : Prop :=
  ∀ (s : State) (G : Gang) (d a : BitVec 7) (imm : BitVec 12), G.gated = false → G.runsIssued = true →
    let va := (BitVec.ofInt 64 ((G.spair a.toNat).toInt + imm.toInt)).toNat
    (∀ e ∈ ([(.sldB32 d a imm, 4, fun v => G.setS d.toNat (BitVec.ofNat 32 v)),
        (.sldB64 d a imm, 8, fun v => G.setPair d.toNat (BitVec.ofNat 64 v))] : List (Instr × Nat × (Nat → Gang))),
      s.ScalarTurn G e.1 → G.sregWriteWaits d.toNat = false → G.sregWriteWaits (d.toNat + 1) = false →
        (va % e.2.1 ≠ 0 → exec e.1 s = .next (s.haltScalar G ⟨0x12, va % 2 ^ 57, 0, 0, 0, 0, e.2.1⟩))
        ∧ (va % e.2.1 = 0 → s.addressFault G 0 va e.2.1 e.2.1 true = none → s.comesAfter G G.pend [(va, e.2.1)] = true →
            exec e.1 s = .next s)
        ∧ (va % e.2.1 = 0 → s.addressFault G 0 va e.2.1 e.2.1 true = none → s.comesAfter G G.pend [(va, e.2.1)] = false →
          ∀ u x, s.lsLoad G (s.scalarAgent G 1 G.pc) false 0 va e.2.1 = (u, .ok x) →
            exec e.1 s = .next (u.goOn s.cur G (e.2.2 (ofBytes x.bytes)).next)))
    ∧ (∀ e ∈ ([(.sstB32 d a imm, 4, (G.sreg d.toNat).toNat), (.sstB64 d a imm, 8, (G.spair d.toNat).toNat)] :
        List (Instr × Nat × Nat)),
      s.ScalarTurn G e.1 →
        (va % e.2.1 ≠ 0 → exec e.1 s = .next (s.haltScalar G ⟨0x12, va % 2 ^ 57, 0, 0, 1, 0, e.2.1⟩))
        ∧ (va % e.2.1 = 0 → s.addressFault G 1 va e.2.1 e.2.1 true = none → s.comesAfter G G.pend [(va, e.2.1)] = true →
            exec e.1 s = .next s)
        ∧ (va % e.2.1 = 0 → s.addressFault G 1 va e.2.1 e.2.1 true = none → s.comesAfter G G.pend [(va, e.2.1)] = false →
          ∀ u, s.lsStore s.cur G false 0 va (toBytes e.2.1 e.2.2) false = (u, none) →
            exec e.1 s = .next ((u.modGang s.cur Gang.next).issuedNow s.cur G)))

/-- R336, R339, R341: LAUNCH appends its record's address to the virtual device's launch queue after a release at scope vdev; a
misaligned address halts with cause 0x12 and a full queue waits. SPAWN queues a child task on its cluster and sets C, or clears
C when the queue is full; an entry that is not a multiple of 4, or an sb that is not, is illegal, once every queued run has issued its
last word. The model's choice: the entry address is taken modulo 2^57 (log entry 44). -/
def Obligations.LaunchAndSpawn : Prop :=
  ∀ (s : State) (G : Gang) (a b : BitVec 7), G.gated = false → G.runsIssued = true →
    let va := (G.spair a.toNat).toNat
    let r := s.release G 3
    let k := G.place.core / 4
    (s.ScalarTurn G (.launch a) →
      (va % 128 ≠ 0 → exec (.launch a) s = .next (s.haltScalar G ⟨0x12, va % 2 ^ 57, 0, 0, 0, 0, 128⟩))
      ∧ (va % 128 = 0 → inWindow va = false →
        (64 ≤ (s.vdev G.vnum).queue.length → exec (.launch a) s = .next s)
        ∧ ((s.vdev G.vnum).queue.length < 64 → G.releaseWaits = false →
          exec (.launch a) s = .next ((r.modVdev G.vnum fun V => { V with queue := V.queue ++ [va] }).goOn s.cur G G.next))))
    ∧ (s.ScalarTurn G (.spawn a b) →
      (va % 4 ≠ 0 ∨ b.toNat % 4 ≠ 0 → exec (.spawn a b) s = .next (s.illegalScalar G (wordOf (.spawn a b))))
      ∧ (va % 4 = 0 → b.toNat % 4 = 0 → G.releaseWaits = false →
        (256 ≤ (r.cluster k).tasks.length → exec (.spawn a b) s = .next (r.goOn s.cur G { G.next with c := false }))
        ∧ ((r.cluster k).tasks.length < 256 → exec (.spawn a b) s = .next (
            ((r.modCluster k fun K => { K with tasks := K.tasks ++ [⟨va % 2 ^ 57,
                [G.sreg b.toNat, G.sreg (b.toNat + 1), G.sreg (b.toNat + 2), G.sreg (b.toNat + 3)], G.grid,
                (r.grid? G.grid).elim 0 Grid.kids, G.place.wg⟩] }).modGrid G.grid fun D =>
              { D with kids := (D.kids + 1) % 2 ^ 32, live := D.live + 1 }).goOn s.cur G { G.next with c := true }))))

/-- R53, R54, R87 to R91, R123, R197, R313, R368: GETSR gives each special register, 64-bit ones as a pair; %pcm reads 0 and waits
while a word is parked. SETSR writes the writable ones, and is illegal on the values that the spec names. The model's choice: setting
WIN clears WB and LOW on its change from 0 to 1 only (log entry 44). -/
def Obligations.SpecialRegisters : Prop :=
  ∀ (s : State) (G : Gang) (r : BitVec 7) (n : BitVec 12),
    (∀ wide : Bool, s.ScalarTurn G (.getsr r n) → G.sregWriteWaits r.toNat = false → G.sregWriteWaits (r.toNat + 1) = false →
      (n.toNat = 7 → G.parkedWord = false) → wide = specialWide n.toNat →
        exec (.getsr r n) s = .next (s.scalarDone G (if wide then G.setPair r.toNat (BitVec.ofNat 64 (s.special G n.toNat))
          else G.setS r.toNat (BitVec.ofNat 32 (s.special G n.toNat))).next))
    ∧ (∀ e ∈ ([(0x003, (s.gangIds G).2), (0x005, (s.gangIds G).1), (0x007, 0), (0x009, G.sp.seed.toNat),
        (0x00A, G.sp.lsbase.toNat), (0x00B, G.sp.fmtbase.toNat), (0x00D, 2 * G.sp.win.toNat + G.sp.lutrap.toNat),
        (0x008, (s.now - (s.core G.place.core).clkBase) % 2 ^ 64),
        (0x00C, G.count .ld + 2 ^ 6 * G.count .st + 2 ^ 12 * G.count .cp + 2 ^ 18 * G.count .tl + 2 ^ 24 * G.count .gx
          + 2 ^ 30 * G.count .pl)] : List (Nat × Nat)), s.special G e.1 = e.2)
    ∧ (∀ W, s.wg? G.place.wg = some W → 1 ≤ W.gangs.length →
        s.special G 0x002 = G.place.role * 2 ^ 30 + G.place.side * 2 ^ 29 + G.place.qtr * 2 ^ 27 + (W.gangs.length - 1) % 64 * 2 ^ 16
          + G.place.gidx % 64
        ∧ ∀ D, s.grid? G.grid = some D → s.special G 0x004 =
            if W.child.isSome = true ∨ D.coh = 0 then (s.gangIds G).2 else (s.gangIds G).2 / D.coh)
    ∧ s.special G 0x006 = (s.entry G.vnum).det.toNat * 2 ^ 15 + G.vnum % 8 * 2 ^ 12 + G.vnum / 8 * 2 ^ 8 + G.vnum
    ∧ (∀ k, k < 16 → s.special G (0x040 + k) = (SMap.getD k 0 G.sp.fmt).toNat)
    ∧ (let k := G.place.core / 4
       ∀ e ∈ ([(0, 4 * G.place.core + G.place.qtr), (2, 4000 + G.vnum / 8), (3, 5000 + k), (4, 2000 + 2 * k), (5, 3000 + k), (6, 7040)] :
          List (Nat × Nat)),
        let b := s.bucket e.2 G.vnum
        s.special G (0x020 + e.1) = b.level / 2 ^ 20 % 2 ^ 20 * 2 ^ 32 + b.refill / 2 ^ 20 % 2 ^ 16 * 2 ^ 16 + min b.last 4095 * 2 ^ 4
          + b.burst)
    ∧ s.special G 0x021 = s.linesHeld (G.vnum / 8) G.vnum % 2 ^ 20 * 2 ^ 32 + s.quota (G.vnum / 8) (some G.vnum) * 2 ^ 16
        + (s.rate G.vnum 1) / 2 ^ 32 % 16
    ∧ (s.ScalarTurn G (.setsr r 0x009) → G.runsIssued = true → exec (.setsr r 0x009) s = .next (s.scalarDone G
        { G.next with sp := { G.sp with seed := G.spair r.toNat } }))
    ∧ (s.ScalarTurn G (.setsr r 0x00A) → exec (.setsr r 0x00A) s = .next (
        if (G.spair r.toNat).toNat % 16 = 0 then s.scalarDone G { G.next with sp := { G.sp with lsbase := G.spair r.toNat } }
        else s.illegalScalar G (wordOf (.setsr r 0x00A))))
    ∧ (s.ScalarTurn G (.setsr r 0x00B) → G.gated = false → G.runsIssued = true → (G.spair r.toNat).toNat % 64 = 0 →
        s.comesAfter G G.pend [((G.spair r.toNat).toNat, 128)] = false → ∀ u, s.loadFormats s.cur G (G.spair r.toNat).toNat (fun t => t.illegalScalar G (wordOf (.setsr r 0x00B))) = .done u →
          exec (.setsr r 0x00B) s = .next ((u.modGang s.cur Gang.next).issuedNow s.cur G))
    ∧ (s.ScalarTurn G (.setsr r 0x00D) → G.runsIssued = true →
        let w := (G.sreg r.toNat).toNat
        exec (.setsr r 0x00D) s = .next (
          if 4 ≤ w ∨ (2 ≤ w ∧ s.regsOf G < 16) ∨ (w < 2 ∧ G.sp.win = true ∧ G.sp.wb ≠ 0) then
            s.illegalScalar G (wordOf (.setsr r 0x00D))
          else s.scalarDone G { G.next with sp := { G.sp with
            win := decide (2 ≤ w), lutrap := decide (w % 2 = 1),
            wb := if 2 ≤ w ∧ G.sp.win = false then 0 else G.sp.wb,
            low := if 2 ≤ w ∧ G.sp.win = false then 0 else G.sp.low } }))
    ∧ (∀ k : BitVec 4, let f : BitVec 12 := 0x040 + k.setWidth 12
        s.ScalarTurn G (.setsr r f) → G.runsIssued = true → exec (.setsr r f) s = .next (
          if entryOk (G.spair r.toNat).toNat then
            s.scalarDone G { G.next with sp := { G.sp with fmt := SMap.put k.toNat (G.spair r.toNat) G.sp.fmt } }
          else s.illegalScalar G (wordOf (.setsr r f))))

/-- R252, R269, R270: in a workgroup with matrix gangs MREST records its target, s0 to s31 and the exchange count, and sets RV;
MCOMMIT waits for the runs, the stores and the tile work and clears RV; elsewhere both are illegal. R279 to R283: each CBGO starts a chain at its block on its engine, numbers it with the next handle, which its destination
receives, and counts it on cp, or on pl for the posting-list engine; a block address that is no multiple of 64 halts with
cause 0x12. CBSTAT gives the status of a chain that has ended, 0x8000_0000 once it is more than 64 handles old, and waits for
one that runs; a handle not yet given is illegal. -/
def Obligations.RestartAndChainWords : Prop :=
  (
  ∀ (s : State) (G : Gang) (off : BitVec 15),
    (s.ScalarTurn G (.mrest off) → exec (.mrest off) s = .next (if s.hasMatrix G = true then
      s.scalarDone G { G.next with restart := ⟨(((G.pc : Int) + 4 * off.toInt) % 2 ^ 57).toNat,
        G.s.filter fun kv => decide (kv.1 < 32), G.eng.xxch, true⟩ }
      else s.illegalScalar G (wordOf (.mrest off))))
    ∧ (s.ScalarTurn G .mcommit → exec .mcommit s = .next (if s.hasMatrix G = false then s.illegalScalar G 0xE8000003
      else if G.runs = [] ∧ G.count .st = 0 ∧ G.count .tl = 0 then
        s.scalarDone G { G.next with restart := { G.restart with rv := false } }
      else s))
  ) ∧ (
  ∀ (s : State) (G : Gang) (d a : BitVec 7) (l : BitVec 1) (n : BitVec 2),
    let va := (G.spair a.toNat).toNat
    let k := G.place.core / 4
    let h := G.eng.chains
    (∀ e ∈ ([(.cbgoLadle d a l, 2 * k + l.toNat, .cp), (.cbgoPle d a, 216 + k, .pl),
        (.cbgoRunner d a n, 324 + 4 * (k / 54) + n.toNat, .cp)] : List (Instr × Nat × Cnt)),
      s.ScalarTurn G e.1 → G.sregWriteWaits d.toNat = false → G.gated = false → G.runsIssued = true →
        (va % 64 ≠ 0 → exec e.1 s = .next (s.haltScalar G ⟨0x12, va % 2 ^ 57, 0, 0, 0, 0, 64⟩))
        ∧ (va % 64 = 0 → inWindow va = false → G.count e.2.2 < 63 → s.engineFull e.2.1 = false → G.releaseWaits = false →
          ∃ id u, (id, u) = ((s.release G 3).addChain e.2.1 va G.sp.seed
              ⟨some G.vnum, some G.place.wg, some G.place.core, some s.cur, h, none, none, partOfVnum G.vnum, k⟩).newId
            ∧ exec e.1 s = .next (((u.addPend s.cur (chainPend id h e.2.2 e.1)).modGang s.cur fun G =>
                { (G.setS d.toNat (BitVec.ofNat 32 h)).next with eng := { G.eng with chains := h + 1 } }).issuedNow s.cur G)))
    ∧ (s.ScalarTurn G (.cbstat d a) → G.sregWriteWaits d.toNat = false →
        let x := (G.sreg a.toNat).toNat
        (h ≤ x → exec (.cbstat d a) s = .next (s.illegalScalar G (wordOf (.cbstat d a))))
        ∧ (64 < h - x → exec (.cbstat d a) s = .next (s.scalarDone G (G.setS d.toNat 0x80000000).next))
        ∧ (x < h → h ≤ x + 64 → SMap.find? x G.eng.status = none → exec (.cbstat d a) s = .next s)
        ∧ (∀ v, x < h → h ≤ x + 64 → SMap.find? x G.eng.status = some v →
            exec (.cbstat d a) s = .next ((s.acquire G 3).goOn s.cur G (G.setS d.toNat v).next)))
  )
/-! ## The lane stream: integer words -/

/-- R128 to R130: the element-wise integer words, type by type: each element of the destination is the exact function of the
elements, clamped to the type's Range with sat, modulo 2^w; and IMAD's widening form. -/
def Obligations.IntegerArithmetic : Prop :=
  ∀ (s p : State) (G : Gang) (r : Run) (f : L3),
    let t := f.fn.toNat % 8
    let w := [32, 64, 16, 8].getD (t / 2) 0
    let wide := decide (w = 64)
    let el := fun (v e : Nat) =>
      if t % 2 = 0 then (BitVec.ofNat w (v / 2 ^ (w * e))).toInt else ((v / 2 ^ (w * e) % 2 ^ w : Nat) : Int)
    let clamp := fun (lo hi x : Int) => if f.sat then max lo (min hi x) else x
    let lo : Int := if t % 2 = 0 then -2 ^ (w - 1) else 0
    let hi : Int := if t % 2 = 0 then 2 ^ (w - 1) - 1 else 2 ^ w - 1
    (∀ e ∈ ([(.iadd f, 2, fun a b _ => a + b), (.isub f, 2, fun a b _ => a - b), (.imul f, 2, fun a b _ => a * b),
        (.imulh f, 2, fun a b _ => a * b / 2 ^ w), (.imad f, 3, fun a b c => a * b + c),
        (.iabs f, 1, fun a _ _ => if a < 0 then -a else a), (.ineg f, 1, fun a _ _ => -a),
        (.imin f, 2, fun a b _ => min a b), (.imax f, 2, fun a b _ => max a b),
        (.iclamp f, 3, fun a b c => min (max a b) c)] : List (Instr × Nat × (Int → Int → Int → Int))),
      let srcs := [(f.a, wide), (f.b, wide), (f.c, wide)].take e.2.1
      s.LaneTurn G r e.1 (some f.msel.toNat) (srcUse srcs f.dst wide) p → f.fn.toNat < 8 →
        ∃ g : List Nat → Nat,
          (∀ vs k, k < (if wide then 1 else 32 / w) →
            ((g vs / 2 ^ (w * k) % 2 ^ w : Nat) : Int)
              = clamp lo hi (e.2.2 (el (vs.getD 0 0) k) (el (vs.getD 1 0) k) (el (vs.getD 2 0) k)) % 2 ^ w)
          ∧ exec e.1 s = .next (s.numDone G r f.msel.toNat srcs p f.dst wide g))
    ∧ (let srcs := [(f.a, false), (f.b, false), (f.c, true)]
      let sg := fun (n v : Nat) => if t = 0 then (BitVec.ofNat n v).toInt else ((v % 2 ^ n : Nat) : Int)
      s.LaneTurn G r (.imad f) (some f.msel.toNat) (srcUse srcs f.dst true) p → f.fn.toNat = 8 + t → t < 2 →
        ∃ g : List Nat → Nat,
          (∀ vs, ((g vs % 2 ^ 64 : Nat) : Int) = clamp (if t = 0 then -2 ^ 63 else 0) (if t = 0 then 2 ^ 63 - 1 else 2 ^ 64 - 1)
            (sg 32 (vs.getD 0 0) * sg 32 (vs.getD 1 0) + sg 64 (vs.getD 2 0)) % 2 ^ 64)
          ∧ exec (.imad f) s = .next (s.numDone G r f.msel.toNat srcs p f.dst true g))

/-- R132, R133: the logic words bit by bit, the shifts and rotates element by element with the count modulo the width, the bit
counts, and the two field words. -/
def Obligations.LogicAndShift : Prop :=
  ∀ (s p : State) (G : Gang) (r : Run) (f : L3),
    let t := f.fn.toNat % 8
    let w := [32, 64, 16, 8].getD (t / 2) 0
    let wide := decide (w = 64)
    let n := if wide then 64 else 32
    let nb := decide (f.fn.toNat / 8 = 1)
    let leaves := fun (i : Instr) (srcs : List (Src × Bool)) (wd : Bool) (spec : List Nat → Nat → Prop) =>
      s.LaneTurn G r i (some f.msel.toNat) (srcUse srcs f.dst wd) p →
        ∃ g : List Nat → Nat, (∀ vs, (∀ v ∈ vs, v < 2 ^ n) → spec vs (g vs))
          ∧ exec i s = .next (s.numDone G r f.msel.toNat srcs p f.dst wd g)
    (∀ e ∈ ([(.and f, fun a b => a && b), (.or f, fun a b => a || b), (.xor f, fun a b => a != b)] :
        List (Instr × (Bool → Bool → Bool))),
      leaves e.1 [(f.a, wide), (f.b, wide)] wide fun vs v =>
        ∀ i < n, v.testBit i = e.2 ((vs.getD 0 0).testBit i) ((vs.getD 1 0).testBit i != nb))
    ∧ (leaves (.not f) [(f.a, wide)] wide fun vs v => ∀ i < n, v.testBit i = !(vs.getD 0 0).testBit i)
    ∧ (∀ e ∈ ([(.shl f, fun a c => a * 2 ^ c % 2 ^ w), (.shr f, fun a c => a / 2 ^ c),
        (.sra f, fun a c => (((BitVec.ofNat w a).toInt / 2 ^ c) % 2 ^ w).toNat),
        (.rot f, fun a c => (a * 2 ^ (if nb then (w - c) % w else c) + a / 2 ^ (w - (if nb then (w - c) % w else c))) % 2 ^ w)] : List (Instr × (Nat → Nat → Nat))),
      leaves e.1 [(f.a, wide), (f.b, false)] wide fun vs v =>
        ∀ k < n / w, v / 2 ^ (w * k) % 2 ^ w
          = e.2 (vs.getD 0 0 / 2 ^ (w * k) % 2 ^ w) (vs.getD 1 0 / 2 ^ (w * k) % 2 ^ w % w))
    ∧ (leaves (.popc f) [(f.a, wide)] false fun vs v => v = ((List.range n).filter fun i => (vs.getD 0 0).testBit i).length)
    ∧ (leaves (.clz f) [(f.a, wide)] false fun vs v =>
        v ≤ n ∧ vs.getD 0 0 < 2 ^ (n - v) ∧ (v < n → 2 ^ (n - v - 1) ≤ vs.getD 0 0))
    ∧ (leaves (.brev f) [(f.a, wide)] wide fun vs v => ∀ i < n, v.testBit i = (vs.getD 0 0).testBit (n - 1 - i))
    ∧ (leaves (.bfx f) [(f.a, wide), (f.b, false)] wide fun vs v =>
        let pos := vs.getD 1 0 % 256
        let len := min (vs.getD 1 0 / 256 % 256) (n - pos)
        ∀ i < n, v.testBit i = (decide (0 < len) &&
          (if i < len then (vs.getD 0 0).testBit (pos + i) else decide (t % 2 = 0) && (vs.getD 0 0).testBit (pos + len - 1))))
    ∧ (leaves (.bfi f) [(f.a, wide), (f.b, wide), (f.c, false)] wide fun vs v =>
        let pos := vs.getD 2 0 % 256
        let len := min (vs.getD 2 0 / 256 % 256) (n - pos)
        ∀ i < n, v.testBit i
          = if pos ≤ i ∧ i < pos + len then (vs.getD 1 0).testBit (i - pos) else (vs.getD 0 0).testBit i)

/-- R131, R134, R135: IADDC adds with the carry of mask K, 0 for none, and leaves the carry in mask J, if there is one; ISET leaves
its test, combined as aux says, in mask J, false where a source is poisoned but for the two poison tests; SEL takes one source
and its poison by the bit of mask K. -/
def Obligations.MaskedWords : Prop :=
  ∀ (s p : State) (G : Gang) (r : Run) (f : L3),
    let w := if f.fn.toNat % 8 / 2 = 1 then 64 else 32
    let wide := decide (w = 64)
    let m := f.msel.toNat
    let x := mkIssue s s.cur G r (some m)
    let A := fun l => x.word l f.a wide
    let B := fun l => x.word l f.b wide
    (let j := f.aux.toNat % 8
      let k := f.aux.toNat / 8 % 8
      let u : Use := { srcUse [(f.a, false), (f.b, false)] f.dst false with
        mrd := if k = 0 then [] else [k], mwr := if j = 0 then [] else [j] }
      s.LaneTurn G r (.iaddc f) (some m) u p →
        let sum := fun l => (x.word l f.a false).1 + (x.word l f.b false).1 + (if k ≠ 0 ∧ (G.mreg k).getLsbD l = true then 1 else 0)
        exec (.iaddc f) s = .next (s.vectorDone G r m u p f.dst fun x l =>
          { vals := [⟨BitVec.ofNat 32 (sum l), (x.word l f.a false).2 || (x.word l f.b false).2, true⟩],
            bits := if j = 0 then [] else [(j, decide (2 ^ 32 ≤ sum l))] }))
    ∧ (let j := f.aux.toNat % 8
      let cond := f.fn.toNat / 8
      let one := decide (cond = 6 ∨ cond = 7)
      let u : Use := { srcUse (if one then [(f.a, wide)] else [(f.a, wide), (f.b, wide)]) f.dst false with mwr := [j] }
      s.LaneTurn G r (.iset f) (some m) u p →
        let num := fun v : Nat => if f.fn.toNat % 2 = 0 then (BitVec.ofNat w v).toInt else ((v : Nat) : Int)
        let c := fun l =>
          let a := num (A l).1
          let b := num (B l).1
          if cond = 6 then (A l).2 else if cond = 7 then !(A l).2
          else !((A l).2 || (B l).2) && decide (if cond = 0 then a = b else if cond = 1 then a ≠ b else if cond = 2 then a < b
            else if cond = 3 then a ≤ b else if cond = 4 then b < a else if cond = 5 then b ≤ a
            else if cond = 8 then (A l).1 &&& (B l).1 ≠ 0 else (A l).1 &&& (B l).1 = 0)
        let old := fun l => (G.mreg j).getLsbD l
        exec (.iset f) s = .next (s.vectorDone G r m u p f.dst fun _ l =>
          { bits := [(j, if f.aux.toNat / 8 % 4 = 1 then old l && c l else if f.aux.toNat / 8 % 4 = 2 then old l || c l else c l)] }))
    ∧ (let k := f.aux.toNat % 8
      let u : Use := { srcUse [(f.a, wide), (f.b, wide)] f.dst wide with mrd := [k] }
      s.LaneTurn G r (.sel f) (some m) u p →
        exec (.sel f) s = .next (s.vectorDone G r m u p f.dst fun _ l =>
          { vals := if (G.mreg k).getLsbD l then cells wide (A l).1 (A l).2 else cells wide (B l).1 (B l).2 }))

/-- R135 to R139: MOVL copies, LIM loads its immediate, LEA and LEA64 form addresses, CVTI converts elements between widths and
signedness, and IDOT4 sums four products onto C. -/
def Obligations.MovesAddressesConversions : Prop :=
  ∀ (s p : State) (G : Gang) (r : Run) (f : L3) (h : LI),
    let m := f.msel.toNat
    let bitAt := fun k => decide (f.fn.toNat / 2 ^ k % 2 = 1)
    let leaves := fun (i : Instr) (m : Nat) (srcs : List (Src × Bool)) (d : Dst) (wd : Bool) (spec : List Nat → Nat → Prop) =>
      s.LaneTurn G r i (some m) (srcUse srcs d wd) p →
        ∃ g : List Nat → Nat, (∀ vs, spec vs (g vs)) ∧ exec i s = .next (s.numDone G r m srcs p d wd g)
    (leaves (.movl f) m [(f.a, decide (f.fn.toNat % 8 = 3))] f.dst (decide (f.fn.toNat % 8 = 3)) fun vs v => v = vs.getD 0 0)
    ∧ (leaves (.lim h) h.msel.toNat [] h.dst (decide (h.fn ≠ 0)) fun _ v =>
        v = if h.fn = 1 then (h.imm.toInt % 2 ^ 64).toNat else h.imm.toNat)
    ∧ (leaves (.lea f) m [(f.a, !bitAt 4), (f.b, false)] f.dst (!bitAt 4) fun vs v =>
        let x := if bitAt 3 then (BitVec.ofNat 32 (vs.getD 1 0)).toInt else (vs.getD 1 0 : Int)
        (v : Int) = ((vs.getD 0 0 : Int) + x * 2 ^ (f.fn.toNat % 8)) % 2 ^ (if bitAt 4 then 32 else 64))
    ∧ (leaves (.lea64 f) m [(f.a, true), (f.b, true)] f.dst true fun vs v =>
        v = (vs.getD 0 0 + vs.getD 1 0 * 2 ^ (f.fn.toNat % 8)) % 2 ^ 64)
    ∧ (let st := f.fn.toNat / 8 % 8
      let dt := f.fn.toNat % 8
      let ws := [32, 64, 16, 8].getD (st / 2) 0
      let wd := [32, 64, 16, 8].getD (dt / 2) 0
      let ns := max 1 (32 / ws)
      let nd := max 1 (32 / wd)
      let k := f.aux.toNat
      let keeps := decide (wd < ws ∧ nd ≠ ns)
      let val := fun (v e : Nat) =>
        let x := if st % 2 = 0 then (BitVec.ofNat ws (v / 2 ^ (ws * e))).toInt else ((v / 2 ^ (ws * e) % 2 ^ ws : Nat) : Int)
        let lo : Int := if dt % 2 = 0 then -2 ^ (wd - 1) else 0
        let hi : Int := if dt % 2 = 0 then 2 ^ (wd - 1) - 1 else 2 ^ wd - 1
        (if f.sat then max lo (min hi x) else x) % 2 ^ wd
      leaves (.cvti f) m (if keeps then [(f.a, decide (ws = 64)), (⟨false, f.dst.file, f.dst.idx⟩, false)]
          else [(f.a, decide (ws = 64))]) f.dst (decide (wd = 64)) fun vs v =>
        ∀ e < nd, ((v / 2 ^ (wd * e) % 2 ^ wd : Nat) : Int) =
          if wd < ws then
            (if k * ns ≤ e ∧ e < k * ns + ns then val (vs.getD 0 0) (e - k * ns)
             else if keeps then ((vs.getD 1 0 / 2 ^ (wd * e) % 2 ^ wd : Nat) : Int) else 0)
          else val (vs.getD 0 0) (k * nd + e))
    ∧ (leaves (.idot4 f) m [(f.a, false), (f.b, false), (f.c, false)] f.dst false fun vs v =>
        let byte := fun k e => BitVec.ofNat 8 (vs.getD k 0 / 2 ^ (8 * e))
        let a := fun e => if bitAt 0 then ((byte 0 e).toNat : Int) else (byte 0 e).toInt
        let b := fun e => if bitAt 3 then (byte 1 e).toInt else ((byte 1 e).toNat : Int)
        let sum := (BitVec.ofNat 32 (vs.getD 2 0)).toInt + a 0 * b 0 + a 1 * b 1 + a 2 * b 2 + a 3 * b 3
        (v : Int) = (if f.sat then max (-2 ^ 31) (min (2 ^ 31 - 1) sum) else sum) % 2 ^ 32)

/-! ## The lane stream: floating point -/

/-- R141, R143, R144, R148, R149, R160: each element of the arithmetic words is the exact function of the modified sources, rounded
once into the entry; an entry of another class is the illegal-instruction fault; and the functions are exact on finite
values: sums, products and sums of products lose no bit. -/
def Obligations.FloatArithmetic : Prop :=
  ∀ (s p : State) (G : Gang) (r : Run) (f : L3),
    let m := f.msel.toNat
    let x := mkIssue s s.cur G r (some m)
    let F := G.fmt f.fmt.toNat
    let E := G.fmt (f.aux.toNat % 16)
    let rdn := decide (f.rnd = 2)
    let a := fun l => x.word l f.a false
    let b := fun l => x.word l f.b false
    let c := fun l => x.word l f.c false
    let val := fun (H : Fmt) (k v j : Nat) =>
      let y := H.decode (v / 2 ^ (32 / H.perLane * j) % 2 ^ H.width)
      let y := if f.fn.getLsbD (2 * k + 1) then y.abs else y
      if f.fn.getLsbD (2 * k) then y.neg else y
    let out := fun (H : Fmt) (pz : Bool) (es : List Elem) =>
      ({ vals := [⟨BitVec.ofNat 32 (H.pack (es.map Elem.code)), pz, true⟩],
         cond := if pz then {} else es.foldl (fun c e => c.or e.cond) {} } : LaneOut)
    (∀ e ∈ ([(.fadd f, 2, Fmt.s32, fun a b _ => Machine.Num.sum [a, b] rdn), (.fsub f, 2, Fmt.s32, fun a b _ => Machine.Num.sum [a, b.neg] rdn),
        (.fmul f, 2, Fmt.s32, fun a b _ => a.mul b), (.ffma f, 3, Fmt.s32, fun a b c => Machine.Num.dot [(a, b)] [c] rdn),
        (.hadd2 f, 2, Fmt.s16, fun a b _ => Machine.Num.sum [a, b] rdn), (.hmul2 f, 2, Fmt.s16, fun a b _ => a.mul b),
        (.hfma2 f, 3, Fmt.s16, fun a b c => Machine.Num.dot [(a, b)] [c] rdn),
        (.fmin f, 2, Fmt.s32, fun a b _ => (a.minOf b, false)), (.fmax f, 2, Fmt.s32, fun a b _ => (a.maxOf b, false))] :
        List (Instr × Nat × (Fmt → Bool) × (Machine.Num → Machine.Num → Machine.Num → Machine.Num × Bool))),
      let u := srcUse ([(f.a, false), (f.b, false), (f.c, false)].take e.2.1) f.dst false
      s.LaneTurn G r e.1 (some m) u p →
        (e.2.2.1 F = false → exec e.1 s = .next (s.laneIllegal G r e.1))
        ∧ (e.2.2.1 F = true → exec e.1 s = .next (s.vectorDone G r m u p f.dst fun x l =>
            let third := if e.2.1 = 3 then (c l).1 else 0
            out F ((a l).2 || (b l).2 || (decide (e.2.1 = 3) && (c l).2)) ((List.range F.perLane).map fun j =>
              F.round f.rnd.toNat f.sat (x.rb l j) (e.2.2.2 (val F 0 (a l).1 j) (val F 1 (b l).1 j) (val F 2 third j))))))
    ∧ (let u := srcUse [(f.a, false), (f.b, false), (f.c, false)] f.dst false
      s.LaneTurn G r (.fdot2 f) (some m) u p →
        ((F.s16 && E.s32) = false → exec (.fdot2 f) s = .next (s.laneIllegal G r (.fdot2 f)))
        ∧ ((F.s16 && E.s32) = true → exec (.fdot2 f) s = .next (s.vectorDone G r m u p f.dst fun x l =>
          let o := E.round f.rnd.toNat f.sat (x.rb l 0)
            (Machine.Num.dot [(val F 0 (a l).1 0, val F 1 (b l).1 0), (val F 0 (a l).1 1, val F 1 (b l).1 1)] [val E 2 (c l).1 0] rdn)
          let pz := (a l).2 || (b l).2 || (c l).2
          { vals := [⟨BitVec.ofNat 32 o.code, pz, true⟩], cond := if pz then {} else o.cond })))
    ∧ (∀ (sa sb sc : Bool) (ma mb mc : Nat) (ea eb ec i j : Int) (z : Bool), i ≤ ea → j ≤ eb → i + j ≤ ec →
        let A := Machine.Num.fin sa ma ea
        let B := Machine.Num.fin sb mb eb
        let C := Machine.Num.fin sc mc ec
        (A.mul B).2 = false ∧ (A.mul B).1.scaled (i + j) = A.scaled i * B.scaled j
        ∧ (i + j ≤ 0 → (Machine.Num.dot [(A, B)] [C] z).2 = false
            ∧ (Machine.Num.dot [(A, B)] [C] z).1.scaled (i + j) = A.scaled i * B.scaled j + C.scaled (i + j))
        ∧ (∀ (sd sf : Bool) (md mf : Nat) (ed ef : Int), i ≤ ed → j ≤ ef → i + j ≤ 0 →
            let D := Machine.Num.fin sd md ed
            let H := Machine.Num.fin sf mf ef
            (Machine.Num.dot [(A, B), (D, H)] [C] z).2 = false
            ∧ (Machine.Num.dot [(A, B), (D, H)] [C] z).1.scaled (i + j)
                = A.scaled i * B.scaled j + D.scaled i * H.scaled j + C.scaled (i + j))
        ∧ (i ≤ 0 → i ≤ eb → (Machine.Num.sum [A, B] z).2 = false ∧ (Machine.Num.sum [A, B] z).1.scaled i = A.scaled i + B.scaled i))

/-- R99, R100, R134, R150 to R155: a value that binary32 holds converts to its own code, unrounded and without a cause, in every
mode; infinities keep their sign. FSET leaves its comparison, combined as aux says, in mask J, and false where a source is poisoned; FCLASS,
FRND, FCVT, FTOI and ITOF leave their values; an entry or a k that the word does not allow is the illegal-instruction fault. -/
def Obligations.FloatCompareConvert : Prop :=
  (
  ∀ (mode : Nat) (sat : Bool) (rb code : Nat), rb < 2 ^ 32 → code < 2 ^ 32 →
    (code / 2 ^ 23 % 2 ^ 8 ≠ 255 → binary32.conv mode sat rb (binary32.decode code) = ⟨code, false, false⟩)
    ∧ (code / 2 ^ 23 % 2 ^ 8 = 255 → code % 2 ^ 23 ≠ 0 → binary32.conv mode sat rb (binary32.decode code) = ⟨0x7FC00000, false, false⟩)
    ∧ (code / 2 ^ 23 % 2 ^ 8 = 255 → code % 2 ^ 23 = 0 → binary32.conv mode sat rb (binary32.decode code) = ⟨code, false, false⟩)
  ) ∧ (
  ∀ (s p : State) (G : Gang) (r : Run) (f : L3),
    let m := f.msel.toNat
    let x := mkIssue s s.cur G r (some m)
    let F := G.fmt f.fmt.toNat
    let D := G.fmt (f.aux.toNat % 16)
    let a := fun l => x.word l f.a false
    let b := fun l => x.word l f.b false
    let mode := f.rnd.toNat
    let u1 := srcUse [(f.a, false)] f.dst false
    let one := fun (v : Nat) (pz : Bool) (c : Cond) => ({ vals := [⟨BitVec.ofNat 32 v, pz, true⟩], cond := c } : LaneOut)
    (let j := f.aux.toNat % 8
      let u : Use := { srcUse [(f.a, false), (f.b, false)] f.dst false with mwr := [j] }
      s.LaneTurn G r (.fset f) (some m) u p →
        (F.s32 = false → exec (.fset f) s = .next (s.laneIllegal G r (.fset f))) ∧ (F.s32 = true →
        let c := fun l =>
          let A := F.decode ((a l).1 / 2 ^ 0 % 2 ^ F.width)
          let B := F.decode ((b l).1 / 2 ^ 0 % 2 ^ F.width)
          let nan := A.isNan || B.isNan
          !((a l).2 || (b l).2) && (match f.fn.toNat with
            | 0 => !nan && A.eqv B
            | 1 => nan || !A.eqv B
            | 2 => !nan && A.lt B
            | 3 => !nan && !B.lt A
            | 4 => !nan && B.lt A
            | 5 => !nan && !A.lt B
            | 6 => !nan
            | _ => nan)
        let old := fun l => (G.mreg j).getLsbD l
        exec (.fset f) s = .next (s.vectorDone G r m u p f.dst fun _ l =>
          { bits := [(j, if f.aux.toNat / 8 % 4 = 1 then old l && c l else if f.aux.toNat / 8 % 4 = 2 then old l || c l else c l)] })))
    ∧ (∀ i ∈ ([.fclass f, .frnd f] : List Instr), s.LaneTurn G r i (some m) u1 p → (F.s32 || F.s16) = false →
        exec i s = .next (s.laneIllegal G r i))
    ∧ (s.LaneTurn G r (.fclass f) (some m) u1 p → (F.s32 || F.s16) = true →
        exec (.fclass f) s = .next (s.vectorDone G r m u1 p f.dst fun _ l =>
          let cls := fun e => 2 ^ classBit F ((a l).1 / 2 ^ (F.slot * e) % 2 ^ F.width) + (a l).2.toNat * 2 ^ 9
          one (if F.s32 then cls 0 else cls 0 + cls 1 * 2 ^ 16) false {}))
    ∧ (s.LaneTurn G r (.frnd f) (some m) u1 p → (F.s32 || F.s16) = true →
        exec (.frnd f) s = .next (s.vectorDone G r m u1 p f.dst fun x l =>
          one (F.pack ((List.range F.perLane).map fun e =>
            (F.conv mode false (x.rb l e) ((F.elem (a l).1 e).integral mode (x.rb l e))).code)) (a l).2 {}))
    ∧ (let k := f.aux.toNat / 16 % 8
      let keeps := decide (F.perLane < D.perLane)
      let u := srcUse (if keeps then [(f.a, false), (⟨false, f.dst.file, f.dst.idx⟩, false)] else [(f.a, false)]) f.dst false
      s.LaneTurn G r (.fcvt f) (some m) u p →
        (fcvtOk F D k = false → exec (.fcvt f) s = .next (s.laneIllegal G r (.fcvt f)))
        ∧ (fcvtOk F D k = true → exec (.fcvt f) s = .next (s.vectorDone G r m u p f.dst fun x l =>
            let d := if keeps then x.word l ⟨false, f.dst.file, f.dst.idx⟩ false else (0, false)
            let o := fcvtLane F D mode f.sat (x.rb l) k (a l).1 d.1
            let pz := (a l).2 || d.2
            one o.1 pz (if pz then {} else o.2.foldl (fun c e => c.or e.cond) {}))))
    ∧ (let t := f.fn.toNat % 8
      let wide := decide (t = 2 ∨ t = 3)
      let u := srcUse [(f.a, false)] f.dst wide
      let lo : Int := if t % 2 = 0 then -2 ^ (if wide then 63 else 31) else 0
      let hi : Int := if t % 2 = 0 then 2 ^ (if wide then 63 else 31) - 1 else 2 ^ (if wide then 64 else 32) - 1
      s.LaneTurn G r (.ftoi f) (some m) u p → t < 4 →
        (F.s32 = false → exec (.ftoi f) s = .next (s.laneIllegal G r (.ftoi f))) ∧ (F.s32 = true →
        exec (.ftoi f) s = .next (s.vectorDone G r m u p f.dst fun x l =>
          let v : Int × Bool := match (F.elem (a l).1 0).integral mode (x.rb l 0) with
            | .nan => (0, true)
            | .inf neg => (if neg then lo else hi, true)
            | .fin neg n _ =>
              let n : Int := if neg then -n else n
              if n < lo then (lo, true) else if hi < n then (hi, true) else (n, false)
          { vals := cells wide (v.1 % 2 ^ 64).toNat (a l).2, cond := if (a l).2 then {} else { inv := v.2 } })))
    ∧ (let t := f.fn.toNat % 8
      let wide := decide (t = 2 ∨ t = 3)
      let u := srcUse [(f.a, wide)] f.dst false
      s.LaneTurn G r (.itof f) (some m) u p → t < 4 →
        (F.s32 = false → exec (.itof f) s = .next (s.laneIllegal G r (.itof f))) ∧ (F.s32 = true →
        exec (.itof f) s = .next (s.vectorDone G r m u p f.dst fun x l =>
          let v := x.word l f.a wide
          let n : Int := if t = 0 then (BitVec.ofNat 32 v.1).toInt else if t = 2 then (BitVec.ofNat 64 v.1).toInt
            else ((v.1 % 2 ^ (if wide then 64 else 32) : Nat) : Int)
          one (F.conv mode false (x.rb l 0) (.fin (decide (n < 0)) n.natAbs 0)).code v.2 {})))
  )

/-- R114, R156 to R159: a special-function word reads its sources at issue and leaves an outstanding result: the code and the poison
of every lane for its destination, and the causes of its active lanes, none where a source is poisoned; with an entry that it does
not allow it is the illegal-instruction fault. Special inputs give R158's values. The quotient and the root that FRCP, FDIVS and FSQRT round are exact but for a sticky
bit, and those two functions are what FRCP, FDIVS and FSQRT give of finite operands. An inexact result of the other six is within R157's
bound of the model's reference value, or is that reference rounded to nearest: that the references are accurate, and that the code is free
inside the bound, are the model's (log entry 12). FRSQ, FEXP2 and FLOG2 are exact where R157 says so, FSIN and FTANH are odd and FCOS is
even, bit for bit. -/
def Obligations.SpecialFunctions : Prop :=
  ∀ (s p : State) (G : Gang) (r : Run) (f : L3),
    let m := f.msel.toNat
    let x := mkIssue s s.cur G r (some m)
    let F := G.fmt f.fmt.toNat
    (∀ e ∈ ([(.frcp f, 1, frcpVal), (.frsq f, 1, frsqVal), (.fsqrt f, 1, fsqrtVal), (.fexp2 f, 1, fexp2Val), (.flog2 f, 1, flog2Val),
        (.fsin f, 1, fsinVal), (.fcos f, 1, fcosVal), (.ftanh f, 1, ftanhVal), (.fdivs f, 2, fdivsVal)] :
        List (Instr × Nat × (Machine.Num → Machine.Num → Nat → SfuOut))),
      let u := srcUse ([(f.a, false), (f.b, false)].take e.2.1) f.dst false
      let q := s.laneIn G r (some m) u p
      let A := fun l => x.word l f.a false
      let B := fun l => if e.2.1 = 2 then x.word l f.b false else (0, false)
      let res := fun l =>
        e.2.2 (F.elem (A l).1 0) (F.elem (B l).1 0) ((A l).1 % 2 ^ 31 * 8 + (A l).1 / 2 ^ 31 * 4 + F.sub.toNat * 2 + F.sat.toNat)
      let elem := fun l => F.conv f.rnd.toNat f.sat 0 (res l).val
      let pz := fun l => (A l).2 || (B l).2
      s.LaneTurn G r e.1 (some m) u p →
        (F.s32 = false → exec e.1 s = .next (s.laneIllegal G r e.1))
        ∧ (F.s32 = true → ∃ k : Pend,
            exec e.1 s = .next ((({ q with nextId := q.nextId + 1 } : State).addPend s.cur k).laneIssued s.cur G r.serial)
            ∧ k.id = q.nextId ∧ k.kind = .sfu ∧ k.cls = none ∧ k.pins = []
            ∧ k.dests = (u.writes G (s.regsOf G)).filter (fun r => decide (r < 256))
            ∧ k.results = (x.act ++ x.help).map (fun l => (l * 1024 + G.rkey (s.regsOf G) f.dst.file f.dst.idx.toNat,
                ⟨BitVec.ofNat 32 (elem l).code, pz l, true⟩))
            ∧ k.conds = condRecords (x.act.map fun l =>
                (l, if pz l then {} else ⟨(res l).inv || (elem l).inv, (res l).dz, (elem l).ov⟩))
            ∧ k.lanes = maskOf x.act ∧ k.masks = [] ∧ k.scales = [] ∧ k.done = false ∧ k.park = none
            ∧ k.run = some r.serial ∧ k.widx = r.next ∧ k.lrun = r.lrun))
    ∧ (∀ (m n : Nat) (e d : Int) (sa sb : Bool), n ≠ 0 → ∃ q k st rem : Nat,
        divNum (.fin sa m e) (.fin sb n d) = .fin (sa != sb) (2 * q + st) (e - d - k - 1)
          ∧ m * 2 ^ k = q * n + rem ∧ rem < n ∧ n ≤ 2 ^ (k - 79) ∧ st ≤ 1 ∧ (st = 0 ↔ rem = 0))
    ∧ (∀ (m : Nat) (e : Int), ∃ (M q st : Nat) (x : Int),
        sqrtNum (.fin false m e) = .fin false (2 * q + st) x
          ∧ (M = m * 2 ^ 120 ∧ 2 * x = e - 122 ∨ M = m * 2 ^ 121 ∧ 2 * x = e - 123)
          ∧ q * q ≤ M ∧ M < (q + 1) * (q + 1) ∧ st ≤ 1 ∧ (st = 0 ↔ q * q = M))
    ∧ (∀ (b : Machine.Num) (key m n : Nat) (sg sb : Bool) (e d : Int), m ≠ 0 → n ≠ 0 →
        let a := Machine.Num.fin sg m e
        frcpVal a b key = { val := divNum (.fin false 1 0) a } ∧ fsqrtVal (.fin false m e) b key = { val := sqrtNum (.fin false m e) }
        ∧ fdivsVal a (.fin sb n d) key = { val := divNum a (.fin sb n d) }
        ∧ (∀ g ∈ [frsqVal, fsqrtVal, flog2Val], g (.fin true m e) b key = { val := .nan, inv := true })
        ∧ fdivsVal a (.fin sb 0 d) key = { val := .inf (sg != sb), dz := true } ∧ fdivsVal (.fin sb 0 d) a key = { val := .fin (sb != sg) 0 0 }
        ∧ fdivsVal a (.inf sb) key = { val := .fin (sg != sb) 0 0 } ∧ fdivsVal (.inf sb) a key = { val := .inf (sb != sg) })
    ∧ (∀ (b : Machine.Num) (key : Nat) (sg sb : Bool) (e d : Int),
        let z := Machine.Num.fin sg 0 e
        (∀ g ∈ [frcpVal, frsqVal], g z b key = { val := .inf sg, dz := true }) ∧ flog2Val z b key = { val := .inf true, dz := true }
        ∧ (∀ g ∈ [fsqrtVal, fsinVal, ftanhVal], g z b key = { val := .fin sg 0 0 })
        ∧ (∀ g ∈ [fexp2Val, fcosVal], g z b key = { val := .fin false 1 0 })
        ∧ fdivsVal z (.fin sb 0 d) key = { val := .nan, inv := true } ∧ fdivsVal (.inf sg) (.inf sb) key = { val := .nan, inv := true }
        ∧ fdivsVal (.inf sg) (.fin sb 0 d) key = { val := .inf (sg != sb) } ∧ fdivsVal z (.inf sb) key = { val := .fin (sg != sb) 0 0 }
        ∧ frcpVal (.inf sg) b key = { val := .fin sg 0 0 } ∧ frsqVal (.inf false) b key = { val := .fin false 0 0 }
        ∧ (∀ g ∈ [fsqrtVal, fexp2Val, flog2Val], g (.inf false) b key = { val := .inf false })
        ∧ fexp2Val (.inf true) b key = { val := .fin false 0 0 } ∧ ftanhVal (.inf sg) b key = { val := .fin sg 1 0 }
        ∧ (∀ g ∈ [frsqVal, fsqrtVal, flog2Val, fsinVal, fcosVal], g (.inf true) b key = { val := .nan, inv := true })
        ∧ (∀ g ∈ [fsinVal, fcosVal], g (.inf false) b key = { val := .nan, inv := true })
        ∧ (∀ g ∈ [frcpVal, frsqVal, fsqrtVal, fexp2Val, flog2Val, fsinVal, fcosVal, ftanhVal, fdivsVal], g .nan b key = { val := .nan })
        ∧ ∀ a, fdivsVal a .nan key = { val := .nan })
    ∧ (∀ (b : Machine.Num) (key key' m : Nat) (sg : Bool) (e : Int), m ≠ 0 → key / 8 = key' / 8 → key % 4 = key' % 4 →
        let a := Machine.Num.fin sg m e
        let near := fun (v ref : Machine.Num) (n : Nat) (u : Int) =>
          v = ref ∨ v = binary32.decode (round32 ref).code ∨ within v ref n u = true
        let flip := fun (v : Machine.Num) => if sg then v.neg else v
        let rsq := divNum (.fin false 1 0) (sqrtNum (.fin false m e))
        let lg : Machine.Num := .fin (decide (log2Ref m e < 0)) (log2Ref m e).natAbs (-90)
        let v : Int := if sg then -(fix192 m e : Nat) else (fix192 m e : Nat)
        let large := Machine.Num.lt (.fin false 200 0) (.fin false m e)
        (near (frsqVal (.fin false m e) b key).val rsq 1 (ulp32 rsq)
          ∨ ∃ (n : Int) (k : Nat), (frsqVal (.fin false m e) b key).val = .fin false 1 n ∧ m = 2 ^ k ∧ e + k = -2 * n)
        ∧ (near (flog2Val (.fin false m e) b key).val lg 1 (-22) ∨ near (flog2Val (.fin false m e) b key).val lg 2 (ulp32 lg)
            ∨ ∃ (n : Int) (k : Nat), (flog2Val (.fin false m e) b key).val = .fin (decide (n < 0)) n.natAbs 0 ∧ m = 2 ^ k ∧ n = e + k)
        ∧ (large = false → near (fexp2Val a b key).val (exp2Ref v) 2 (ulp32 (exp2Ref v))
            ∨ ∃ n : Int, (fexp2Val a b key).val = .fin false 1 n ∧ v = n * 2 ^ 192)
        ∧ (large = true → sg = true → near (fexp2Val a b key).val (.fin false 1 (-400)) 2 (-149))
        ∧ (large = true → sg = false → (fexp2Val a b key).val = .fin false 1 400)
        ∧ near (flip (fsinVal a b key).val) (sinRef m e) 1 (-22) ∧ near (fcosVal a b key).val (cosRef m e) 1 (-22)
        ∧ (near (flip (ftanhVal a b key).val) (tanhRef m e) 1 (-22) ∨ ftanhVal a b key = { val := .fin sg 1 0 })
        ∧ (Machine.Num.lt (.fin false m e) (.fin false 9 0) = false → ftanhVal a b key = { val := .fin sg 1 0 })
        ∧ (fsinVal (.fin (!sg) m e) b key').val = (fsinVal a b key).val.neg ∧ (fcosVal (.fin (!sg) m e) b key').val = (fcosVal a b key).val
        ∧ (ftanhVal (.fin (!sg) m e) b key').val = (ftanhVal a b key).val.neg)
    ∧ (∀ (b : Machine.Num) (key k : Nat) (e : Int), k ≤ 32 →
        flog2Val (.fin false (2 ^ k) e) b key = { val := .fin (decide (e + k < 0)) (e + k).natAbs 0 }
        ∧ ((e + k) % 2 = 0 → frsqVal (.fin false (2 ^ k) e) b key = { val := .fin false 1 (-((e + k) / 2)) }))
    ∧ (∀ (b : Machine.Num) (key n : Nat) (sg : Bool), n ≠ 0 → n ≤ (if sg then 149 else 199) →
        fexp2Val (.fin sg n 0) b key = { val := .fin false 1 (if sg then -(n : Int) else n) })

/-! ## The lane stream: blocks and reductions -/

/-- R161, R162, R164 to R167: the block words on the entries they accept. Entry `F` has `c` elements in a lane and blocks of
`span` lanes; a word that quantises leaves what its blocks give, each element rounded once from its exact value. R94, R102, R103, R162, R164: what a quantised block is. The scale of a whole block is R102's, written to the block's byte; a
block that is not whole, or a word that chooses none, converts under the byte as it stands. Each active element is its
value times 2^-X, rounded into the entry; under 0xFF it is NaN; a renormalised block that keeps its scale keeps its codes. The model's
choices: a result with P set raises no cause (log entry 14); BRNM of a block that is not whole keeps its codes where its bytes agree (log
entry 66); BSDOT's accumulator is decoded under the result's entry (log entry 67). -/
def Obligations.BlockScaling : Prop :=
  (
  ∀ (s p : State) (G : Gang) (r : Run) (f : L3),
    let m := f.msel.toNat
    let x := mkIssue s s.cur G r (some m)
    let F := G.fmt f.fmt.toNat
    let E := G.fmt (f.aux.toNat % 16)
    let c := if F.width = 4 then 8 else 4
    let span := if F.width = 4 ∨ F.blockLen = 16 then 4 else 8
    let lanes := fun l => (List.range span).map fun i => span * (l / span) + i
    let group := fun e => binary32.decode (x.cell (e / c) f.a (e % c)).val.toNat
    let anyP := fun (ls : List Nat) (a : Src) (k : Nat) => ls.any fun l => (List.range k).any fun i => (x.cell l a i).p
    let A : BlockOp := ⟨F, f.a, f.xA.toNat⟩
    let B : BlockOp := ⟨F, f.b, f.xB.toNat⟩
    let C : BlockOp := ⟨F, f.c, f.xD.toNat⟩
    let S : BlockOp := ⟨E, f.a, f.xA.toNat⟩
    let rdn := decide (f.rnd = 2)
    let start := fun (idx : Nat) (file : RegFile) => idx % c = 0 ∧ file ≠ .special
    ( let u : Use := { srcs := [(f.a, c)], dsts := [(f.dst, 1)] }
      s.LaneTurn G r (.bmax f) (some m) u p → F.b = true → start f.a.idx.toNat f.a.file →
        exec (.bmax f) s = .next (s.vectorDone G r m u p f.dst fun _ l =>
          { vals := [⟨BitVec.ofNat 32 (round32 (maxMagnitude ((List.range (span * c)).map fun i =>
              group (span * c * (l / span) + i)))).code, anyP (lanes l) f.a c, true⟩] }))
    ∧ (∀ e ∈ ([(.bscl f, true), (.bqnt f, false)] : List (Instr × Bool)),
      let u : Use := { srcs := [(f.a, c)], dsts := [(f.dst, 1)] }
      s.LaneTurn G r e.1 (some m) u p → F.b = true → start f.a.idx.toNat f.a.file →
        exec e.1 s = .next (((⟨f, F, e.2, fun k => (group k, false), fun j => anyP (lanes (span * j)) f.a c, none⟩ : Quant).apply x
          (s.laneIn G r (some m) u p)).laneIssued s.cur G r.serial))
    ∧ (∀ e ∈ ([(.badd f, [A, B], none, fun k => Machine.Num.sum [A.value x k, B.value x k] rdn),
          (.bmul f, [A, B], none, fun k => (A.value x k).mul (B.value x k)),
          (.bfma f, [A, B, C], none, fun k => Machine.Num.dot [(A.value x k, B.value x k)] [C.value x k] rdn),
          (.brnm f, [A], some A, fun k => (A.value x k, false)),
          (.bcvt f, [S], none, fun k => (S.value x k, false))] :
          List (Instr × List BlockOp × Option BlockOp × (Nat → Machine.Num × Bool))),
      let u : Use := { srcs := e.2.1.map fun b => (b.src, 1), dsts := [(f.dst, 1)] }
      s.LaneTurn G r e.1 (some m) u p → F.b = true → (∀ b ∈ e.2.1, b.fmt.b = true ∧ b.fmt.blkLane = c) →
        exec e.1 s = .next (((⟨f, F, true, e.2.2.2, fun j => e.2.1.any fun b => anyP (lanes (span * j)) b.src 1, e.2.2.1⟩ :
          Quant).apply x (s.laneIn G r (some m) u p)).laneIssued s.cur G r.serial))
    ∧ (let u : Use := { srcs := [(f.a, 1)], dsts := [(f.dst, c)] }
      s.LaneTurn G r (.bdqt f) (some m) u p → F.b = true → E.s32 = true → start f.dst.idx.toNat f.dst.file →
        exec (.bdqt f) s = .next (s.vectorDone G r m u p f.dst fun x l =>
          let pz := anyP (lanes l) f.a 1
          let es := (List.range c).map fun k => E.round f.rnd.toNat f.sat (x.rb l k) (A.value x (c * l + k), false)
          { vals := es.map fun e => ⟨BitVec.ofNat 32 e.code, pz, true⟩,
            cond := if pz then {} else es.foldl (fun c e => c.or e.cond) {} }))
    ∧ (let H : BlockOp := ⟨E, f.b, f.xB.toNat⟩
      let T := G.fmt (f.aux.toNat / 16 % 16)
      let u : Use := { srcs := [(f.a, 1), (f.b, 1), (f.c, 1)], dsts := [(f.dst, 1)] }
      s.LaneTurn G r (.bsdot f) (some m) u p → F.b = true → E.b = true → T.s32 = true → E.blkLane = c →
        exec (.bsdot f) s = .next (s.vectorDone G r m u p f.dst fun x l =>
          let g := l / (32 / c)
          let ls := (List.range (32 / c)).map fun i => 32 / c * g + i
          let sum := Machine.Num.dot ((List.range 32).map fun i => (A.value x (32 * g + i), H.value x (32 * g + i))) [] false
          let P := round32 sum.1
          let acc := x.cell l f.c 0
          let pz := acc.p || anyP ls f.a 1 || anyP ls f.b 1
          let o := T.round 0 f.sat 0 (Machine.Num.sum [T.elem acc.val.toNat 0, binary32.decode P.code] false)
          { vals := [⟨BitVec.ofNat 32 o.code, pz, true⟩],
            cond := if pz then {} else o.cond.or { inv := sum.2, ov := P.ov } }))
  ) ∧ (
  (∀ (F : Fmt) (xs : List Machine.Num),
    ((∃ y ∈ xs, y.isNan = true ∨ y.isInf = true) → chooseScale F xs = 0xFF)
    ∧ ((∀ y ∈ xs, y.isZero = true) → chooseScale F xs = 0)
    ∧ ((∀ y ∈ xs, y.isNan = false ∧ y.isInf = false) → ∀ y ∈ xs, y.isZero = false →
        (∀ z ∈ xs, z.isZero = false → z.log2 ≤ y.log2) →
        (chooseScale F xs : Int) = max (-127) (min 127 (y.log2 - F.emax)) + 127))
  ∧ (∀ (neg : Bool) (n : Nat) (e : Int), (Machine.Num.fin neg n e).log2 = (n.log2 : Int) + e)
  ∧ (∀ (q : Quant) (x : Issue) (j : Nat),
      let F := q.fmt
      let c := F.blkLane
      let span := F.blkSpan
      let byte := j + F.blkCount * (q.f.dst.idx.toNat % 2)
      let whole := ∀ i < span, x.gang.holds (span * j + i) = true → span * j + i ∈ x.act
      let o := q.block x j
      (q.choose = true ∧ whole →
        o.scale = some (byte, chooseScale F ((List.range (span * c)).map fun i => (q.value (span * c * j + i)).1)))
      ∧ (¬(q.choose = true ∧ whole) → o.scale = none)
      ∧ (∀ lo ∈ o.lanes, lo.1 / span = j ∧ (lo.1 ∈ x.act ∨ lo.1 ∈ x.help) ∧
          ∃ es : List Elem, es.length = c
            ∧ lo.2.vals = [⟨BitVec.ofNat 32 (es.zipIdx.foldl (fun v ek => v + ek.1.code * 2 ^ (32 / c * ek.2)) 0), q.poison j, true⟩]
            ∧ lo.2.cond = (if q.poison j then {} else es.foldl (fun c e => c.or e.cond) {})
            ∧ ∀ k < c,
              let sc := (o.scale.map Prod.snd).getD (x.gang.lane.scaleByte q.f.xD.toNat byte)
              let v := q.value (c * lo.1 + k)
              (q.keep = none → es[k]? = some (F.round q.f.rnd.toNat q.f.sat (x.rb lo.1 k)
                (if sc = 0xFF then .nan else v.1.scale2 (127 - (sc : Int)), v.2)))
              ∧ (∀ b, q.keep = some b → b.byte x (c * lo.1 + k) = sc → es[k]? = some ⟨b.code x (c * lo.1 + k), {}⟩)))
  )

/-! ## The lane stream: the Marver -/

/-- R200 to R203, R210 to R212: each moving word leaves an outstanding result, counted in gx, with one register for every active
and helper lane: each of its elements is the source element that the word picks, or zero, with the OR of the picked
registers' poison. With an empty mask register the word does nothing. R220 to R223: an exchange with a partner workgroup and fewer than four outstanding is left outstanding with what it sends; where
the partner's exchange of the same number has issued, each receives what the other sent at its receiving positions; a
different tag, and a gang without a partner workgroup, is the illegal-instruction fault. The completion delivers a paired
exchange and does nothing to an unpaired one. The model's choice: an exchange with an empty mask takes its place and counts nothing
(log entry 18). -/
def Obligations.CrossLaneMovesAndExchange : Prop :=
  (
  ∀ (s p : State) (G : Gang) (r : Run) (f : LX),
    let m := f.msel.toNat
    let x := mkIssue s s.cur G r (some m)
    let n := 2 ^ f.esz.toNat
    let w := 32 / n
    let code := f.fn.toNat / 4 % 8
    let z := if code = 0 then 32 * n else 2 * 2 ^ code
    let d := f.imm.toNat
    let key := fun l => l * 1024 + G.phys (s.regsOf G) f.dst.idx.toNat
    let element := fun i => ((x.cell (i % (32 * n) / n) f.a (i / (32 * n))).val.toNat / 2 ^ (w * (i % n)) % 2 ^ w,
      (x.cell (i % (32 * n) / n) f.a (i / (32 * n))).p)
    let leaves := fun (i : Instr) (u : Use) (spec : (Nat → Cell) → Prop) =>
      let q := s.laneIn G r (some m) u p
      s.LaneTurn G r i (some m) u p →
        (G.mreg m = 0 → exec i s = .next (q.laneIssued s.cur G r.serial))
        ∧ (G.mreg m ≠ 0 → G.full .gx = false → ∃ (k : Pend) (out : Nat → Cell), exec i s = .next (s.heldDone G r q k)
            ∧ k.Begins q.nextId .marver (some .gx) r i ∧ k.pins = [] ∧ spec out
            ∧ k.results = (x.act ++ x.help).map fun l => (key l, out l))
    let picks := fun (pick : Nat → Option Nat) (extra : Nat → Bool) (out : Nat → Cell) => ∀ l,
      (∀ e < n, (out l).val.toNat / 2 ^ (w * e) % 2 ^ w = ((pick (n * l + e)).elim 0 fun i => (element i).1))
      ∧ (out l).p = ((List.range n).any (fun e => (pick (n * l + e)).any fun i => (element i).2) || extra l)
    let u : Use := { srcs := [(f.a, 1)], dsts := [(f.dst, 1)], gated := true }
    (leaves (.xshf f) u (picks (fun i =>
        if f.fn.toNat % 4 = 0 then (if i < z * (i / z) + d then none else some (i - d))
        else if f.fn.toNat % 4 = 1 then (if z * (i / z) + z ≤ i + d then none else some (i + d))
        else if f.fn.toNat % 4 = 2 then some (z * (i / z) + (i - z * (i / z) + d) % z)
        else some (i ^^^ d)) fun _ => false))
    ∧ leaves (.xbcst f) u (picks (fun i => some (z * (i / z) + d)) fun _ => false)
    ∧ (let two := f.fn = 1
      let nb := if f.esz = 3 then 2 else 1
      let size := 32 * n * (if two then 2 else 1)
      let ib := fun i => (x.cell (i / n) f.b (i % n / 4)).val.toNat / 256 ^ (i % n % 4) % 256
      leaves (.xgath f) { srcs := [(f.a, if two then 2 else 1), (f.b, nb)], dsts := [(f.dst, 1)], gated := true }
        (picks (fun i => if size ≤ 128 ∧ 128 ≤ ib i then none else some (ib i % size))
          fun l => (List.range nb).any fun k => (x.cell l f.b k).p))
    ∧ leaves (.qswz f) u (fun out => ∀ l, out l = x.cell (4 * (l / 4) + d / 4 ^ (l % 4) % 4) f.a 0)
    ∧ leaves (.qbcst f) u (fun out => ∀ l, out l = x.cell (4 * (l / 4) + d % 4) f.a 0)
  ) ∧ (
  ∀ (s p : State) (G : Gang) (r : Run) (f : LX) (W : Wg) (D : Grid),
    let m := f.msel.toNat
    let x := mkIssue s s.cur G r (some m)
    let K := f.imm.toNat % 8
    let u : Use := { srcs := [(f.a, 1)], dsts := [(f.dst, 1)], mrd := [K], gated := true }
    let q := s.laneIn G r (some m) u p
    let sent := x.act.map fun l => (l, x.cell l f.a 0)
    let there := decide (D.cpair = true ∧ D.coh ≠ 0 ∧ ((W.num / D.coh) ^^^ 1) * D.coh + W.num % D.coh < D.w)
    let num := ((W.num / D.coh) ^^^ 1) * D.coh + W.num % D.coh
    let count := fun (v : State) => v.modGang s.cur fun G => { G with eng := { G.eng with xxch := G.eng.xxch + 1 } }
    s.LaneTurn G r (.xxch f) (some m) u p → q.wg? G.place.wg = some W → q.grid? G.grid = some D →
      ((there = false ∨ W.child.isSome = true) → exec (.xxch f) s = .next (s.laneIllegal G r (.xxch f)))
      ∧ (there = true → W.child = none → G.exchanges < 4 → (G.mreg m = 0 ∨ G.full .gx = false) →
          ((∀ h H, q.partner G num = some h → q.gang? h = some H → H.exchange G.eng.xxch = none) →
            ∃ k, exec (.xxch f) s = .next ((count (({ q with nextId := q.nextId + 1 } : State).addPend s.cur k)).laneIssued s.cur G r.serial)
              ∧ k.Begins q.nextId (.xxch G.eng.xxch W.lone sent (maskOf (G.active K)))
                  (if G.mreg m = 0 then none else some .gx) r (.xxch f)
              ∧ k.results = [])
          ∧ (∀ h H y, q.partner G num = some h → q.gang? h = some H → H.exchange G.eng.xxch = some y →
            (y.tag ≠ f.fn.toNat → exec (.xxch f) s = .next (s.laneIllegal G r (.xxch f)))
            ∧ (y.tag = f.fn.toNat → ∃ k t, exec (.xxch f) s = .next t
                ∧ t = (count ((({ q with nextId := q.nextId + 1 } : State).modGang h fun H =>
                    { H with pend := H.pend.map fun z => if z.id = y.id then y.receive sent else z }).addPend s.cur k)).laneIssued
                      s.cur G r.serial
                ∧ k.kind = .xxch G.eng.xxch true sent (maskOf (G.active K))
                ∧ k.results = (y.sent.filter fun lc => (maskOf (G.active K)).testBit lc.1).map fun lc =>
                    (lc.1 * 1024 + G.phys (s.regsOf G) f.dst.idx.toNat, lc.2))))
      ∧ (∀ (v : State) (g op : Nat) (k : Pend) (n lanes : Nat) (b : Bool) (out : List (Nat × Cell)) (H : Gang), v.gang? g = some H → v.pend? g op = some k →
          k.kind = .xxch n b out lanes → k.done = false → k.park = none → (v.part (partOfVnum H.vnum)).halted = false →
          exec (.xxchExchangeComplete g op) v = .next (if b then v.complete g k else v))
  )

/-- R204 to R207, R209: XLDP binds its slot at issue to the aligned address in the lowest active lane's pair and its image is then
resident; XPAT moves elements as the bytes of its slot's image say, and waits while the image of a bound slot is being
loaded. A misaligned address and an unbound slot are the illegal-instruction fault. R218, R219: SDEC once its claimed words are read: the active lanes whose reservoir is too short claim the words of the stream in
home-lane order, and each lane's field, reservoir and count, and the advanced cursor, are left outstanding. The model's choice: XLDP,
XPAT and SDEC read memory in the step in which they issue (log entry 8). -/
def Obligations.PatternsAndStreams : Prop :=
  (
  ∀ (s p : State) (G : Gang) (r : Run) (f : LX),
    let m := f.msel.toNat
    let x := mkIssue s s.cur G r (some m)
    let n := 2 ^ f.esz.toNat
    let w := 32 / n
    let N := 32 * n
    let slot := f.pat.toNat
    let ag := s.laneAgent G r.addr r.next;
    (∀ (u : Use), u = { srcs := [(f.a, 1)], dsts := [(f.dst, 1)], gated := true } →
      s.LaneTurn G r (.xpat f) (some m) u p → ((s.laneIn G r (some m) u p).binding G.place.wg slot s.cur).2 = none →
        exec (.xpat f) s = .next (s.laneIllegal G r (.xpat f)))
    ∧ (G.mreg m ≠ 0 → G.full .gx = false →
      (∀ (l : Nat) (ls : List Nat) (t : State) (e : PatEntry), x.act = l :: ls →
        let u : Use := { srcs := [(f.a, 2)], gated := true }
        let q := s.laneIn G r (some m) u p
        let addr := (x.word l f.a true).1
        let bound := ({ q with nextId := q.nextId + 1 } : State).modWg G.place.wg fun W => W.bind slot addr s.cur
        s.LaneTurn G r (.xldp f) (some m) u p →
          (addr % 64 ≠ 0 → exec (.xldp f) s = .next (s.laneIllegal G r (.xldp f)))
          ∧ (addr % 64 = 0 → ({ q with nextId := q.nextId + 1 } : State).comesAfter G G.pend [(addr, 256)] = false → bound.pattern G.place.core G.vnum addr ag = (t, .ok e) →
              ∃ k, exec (.xldp f) s = .next ((t.addPend s.cur k).laneIssued s.cur G r.serial)
                ∧ k.Begins q.nextId .xldp (some .gx) r (.xldp f) ∧ k.results = []))
      ∧ (∀ (t : State) (W : Wg) (e : PatEntry),
        let u : Use := { srcs := [(f.a, 1)], dsts := [(f.dst, 1)], gated := true }
        let q := s.laneIn G r (some m) u p
        let img := fun i => (e.bytes.getD i 0).toNat
        let pick := fun i => if N ≤ 128 ∧ 128 ≤ img i then none else some ((img i % N + f.imm.toNat) % N)
        let element := fun i => ((x.cell (i / n) f.a 0).val.toNat / 2 ^ (w * (i % n)) % 2 ^ w, (x.cell (i / n) f.a 0).p)
        s.LaneTurn G r (.xpat f) (some m) u p → q.wg? G.place.wg = some W →
          let b := ({ q with nextId := q.nextId + 1 } : State).binding G.place.wg slot s.cur
          ((∀ o ∈ W.older, o.slot = slot → s.cur ∉ o.seers) → b.2 = SMap.find? slot W.slots)
          ∧ (∀ addr, b.2 = some addr →
            (q.slotPending G.place.wg slot = true → exec (.xpat f) s = .next s)
            ∧ (q.slotPending G.place.wg slot = false → b.1.comesAfter G G.pend [(addr, 256)] = false →
                b.1.pattern G.place.core G.vnum addr ag = (t, .ok e) →
                ∃ (k : Pend) (out : Nat → Cell), exec (.xpat f) s = .next ((t.addPend s.cur k).laneIssued s.cur G r.serial)
                  ∧ k.Begins q.nextId .marver (some .gx) r (.xpat f)
                  ∧ k.results = (x.act ++ x.help).map (fun l => (l * 1024 + G.phys (s.regsOf G) f.dst.idx.toNat, out l))
                  ∧ ∀ l ∈ x.act ++ x.help,
                    (f.fn = 0 →
                      (∀ j < n, (out l).val.toNat / 2 ^ (w * j) % 2 ^ w = (pick (n * l + j)).elim 0 fun i => (element i).1)
                      ∧ (out l).p = ((List.range n).any (fun j => (pick (n * l + j)).any fun i => (element i).2) || e.bad))
                    ∧ (f.fn ≠ 0 →
                      (out l).val = (pick l).elim 0 (fun i =>
                        if f.fn = 2 then (BitVec.ofNat w (element i).1).signExtend 32 else BitVec.ofNat 32 (element i).1)
                      ∧ (out l).p = ((pick l).any (fun i => (element i).2) || e.bad)))))
      ∧ (∀ (v t : State) (c as a : Nat) (g : Agent) (e : PatEntry), v.pattern c as a g = (t, .ok e) →
          e.va = a ∧ e.asid = as ∧ t.hasPattern c as a = true)
      ∧ (∀ (W : Wg) (sl a g : Nat), (W.bind sl a g).bindings sl g = [some a]
          ∧ (∀ h ∈ W.gangs, h ≠ g → (W.bind sl a g).bindings sl h = some a :: W.bindings sl h)
          ∧ ∀ sl' h, sl' ≠ sl → (W.bind sl a g).bindings sl' h = W.bindings sl' h))
  ) ∧ (
  ∀ (s p t : State) (G : Gang) (r : Run) (f : LX) (l0 : Nat) (ls : List Nat) (ws : List (Nat × Bool)),
    let m := f.msel.toNat
    let x := mkIssue s s.cur G r (some m)
    let srcs := [(f.a, 2), (f.b, 1), (f.c, 2)]
    let u : Use := { srcs := srcs, dsts := [(f.dst, 1), (⟨f.a.file, f.a.idx⟩, 2), (⟨f.c.file, f.c.idx⟩, 2)], gated := true }
    let q := s.laneIn G r (some m) u p
    let res := fun l => (x.cell l f.a 0).val.toNat
    let n := fun l => min ((x.cell l f.a 1).val.toNat % 64) 32
    let wid := fun l => min ((x.cell l f.b 0).val.toNat % 64) 32
    let claimers := x.act.filter fun l => decide (n l < wid l)
    let cursor := (x.word l0 f.c true).1 / 4 * 4
    let key := fun l (d : BitVec 8) j => l * 1024 + G.phys (s.regsOf G) (d.toNat + j)
    s.LaneTurn G r (.sdec f) (some m) u p → x.act = l0 :: ls → G.mreg m ≠ 0 → G.full .gx = false →
    ({ q with nextId := q.nextId + 1 } : State).comesAfter G G.pend [(cursor, 128)] = false → ({ q with nextId := q.nextId + 1 } : State).streamWords G (s.laneAgent G r.addr r.next) claimers.length cursor = (t, [], ws) →
      (ws.length = claimers.length)
      ∧ ∃ k, exec (.sdec f) s = .next ((t.addPend s.cur k).laneIssued s.cur G r.serial)
        ∧ k.Begins q.nextId .marver (some .gx) r (.sdec f)
        ∧ (∀ l ∈ x.act,
            let w := if n l < wid l then (ws.getD (claimers.filter fun j => decide (j < l)).length (0, false)).1 else 0
            let all := w * 2 ^ n l + res l % 2 ^ n l
            let v := all % 2 ^ wid l
            let pz := (x.cell l f.a 0).p || (x.cell l f.a 1).p || (x.cell l f.b 0).p || (x.word l0 f.c true).2 || ws.any Prod.snd
            let after := cursor + 4 * claimers.length
            (key l f.dst.idx 0, ⟨if f.fn = 1 ∧ wid l ≠ 0 then (BitVec.ofNat (wid l) v).signExtend 32 else BitVec.ofNat 32 v, pz, true⟩) ∈ k.results
            ∧ (key l f.a.idx 0, ⟨BitVec.ofNat 32 (all / 2 ^ wid l), pz, true⟩) ∈ k.results
            ∧ (key l f.a.idx 1, ⟨BitVec.ofNat 32 (if n l < wid l then n l + 32 - wid l else n l - wid l), pz, true⟩) ∈ k.results
            ∧ (key l f.c.idx 0, ⟨BitVec.ofNat 32 after, pz, true⟩) ∈ k.results
            ∧ (key l f.c.idx 1, ⟨BitVec.ofNat 32 (after / 2 ^ 32), pz, true⟩) ∈ k.results)
  )

/-- R213 to R217: VBAL, VANY and VALL leave the ballot of the active lanes or its summary in every lane and, with J not 0, in mask
J; XSCAN leaves in each lane the prefix over the active lanes of its segment; TOPK and XSORT leave the entries of a
segment's active lanes on its first active positions in rank order, equal keys by home lane. -/
def Obligations.VotesScansRanks : Prop :=
  ∀ (s p : State) (G : Gang) (r : Run) (f : LX),
    let m := f.msel.toNat
    let x := mkIssue s s.cur G r (some m)
    let key := fun l j => l * 1024 + G.phys (s.regsOf G) (f.dst.idx.toNat + j)
    let A := fun l => x.cell l f.a 0
    let B := fun l => x.cell l f.b 0
    let holds := fun l => decide ((A l).val ≠ 0) && !(A l).p
    let leaves := fun (i : Instr) (u : Use) (spec : Pend → Prop) =>
      let q := s.laneIn G r (some m) u p
      s.LaneTurn G r i (some m) u p → G.mreg m ≠ 0 → G.full .gx = false →
        ∃ k, exec i s = .next (s.heldDone G r q k) ∧ k.Begins q.nextId .marver (some .gx) r i ∧ k.pins = [] ∧ spec k
    let ballot := x.act.filter holds
    (let J := f.imm.toNat % 8
      let u : Use := { srcs := [(f.a, 1)], dsts := if f.dst.file = .special then [] else [(f.dst, 1)],
                       mwr := if J = 0 then [] else [J], gated := true }
      ∀ e ∈ ([(.vbal f, maskOf ballot, fun l => ballot.contains l),
          (.vany f, if ballot = [] then 0 else 1, fun _ => decide (ballot ≠ [])),
          (.vall f, if ballot = x.act then 1 else 0, fun _ => decide (ballot = x.act))] : List (Instr × Nat × (Nat → Bool))),
        leaves e.1 u fun k =>
          k.results = (if f.dst.file = .special then [] else (x.act ++ x.help).map fun l =>
            (key l 0, ⟨BitVec.ofNat 32 e.2.1, x.act.any fun j => (A j).p, true⟩))
          ∧ k.masks = (if J = 0 then [] else [(J, maskOf x.act, maskOf (x.act.filter e.2.2))]))
    ∧ (let op := f.fn.toNat % 8
      let rnd := f.fn.toNat / 8 % 8
      let ex := f.fn.toNat / 64 % 2
      let z := if f.imm.toNat % 4 = 0 then 32 else 2 * 2 ^ (f.imm.toNat % 4)
      let flt := fun v => binary32.decode v
      let least := fun (v : Machine.Num) => (binary32.conv 0 false 0 v).code
      let table : List (Nat × (Nat → Nat → Nat)) :=
        [(0, fun a v => (a + v) % 2 ^ 32),
         (0x80000000, fun a v => (binary32.round rnd false 0 (Machine.Num.sum [flt a, flt v] (decide (rnd = 2)))).code),
         (0x7FFFFFFF, fun a v => if (BitVec.ofNat 32 a).toInt ≤ (BitVec.ofNat 32 v).toInt then a else v),
         (0x80000000, fun a v => if (BitVec.ofNat 32 a).toInt ≤ (BitVec.ofNat 32 v).toInt then v else a),
         (0xFFFFFFFF, fun a v => min a v), (0, fun a v => max a v),
         (0x7FC00000, fun a v => least ((flt a).minOf (flt v))), (0x7FC00000, fun a v => least ((flt a).maxOf (flt v)))]
      let step := table.getD op (0, fun a _ => a)
      leaves (.xscan f) { srcs := [(f.a, 1)], dsts := [(f.dst, 1)], gated := true } fun k =>
        (∀ kc ∈ k.results, ∃ l ∈ x.act ++ x.help, kc.1 = key l 0)
        ∧ ∀ l ∈ x.act ++ x.help,
          let into := x.act.filter fun j => decide (j / z = l / z) && (decide (j < l) || (decide (j = l) && decide (ex = 0)))
          (key l 0, ⟨BitVec.ofNat 32 (into.foldl (fun a j => step.2 a (A j).val.toNat) step.1), into.any fun j => (A j).p, true⟩)
            ∈ k.results)
    ∧ (let code := f.imm.toNat / 64 % 8
      let z := if code = 0 then 32 else 2 * 2 ^ code
      let asc := f.fn.toNat / 4 % 2 = 1
      let rank := fun l => rankKey (f.fn.toNat % 4) (A l).val.toNat
      let better := fun a b => if asc then rank a < rank b else rank b < rank a
      ∀ e ∈ ([(.topk f, f.imm.toNat % 64), (.xsort f, 32)] : List (Instr × Nat)),
        leaves e.1 { srcs := [(f.a, 1), (f.b, 1)], dsts := [(f.dst, 2)], gated := true } fun k =>
          let segment := fun g => x.act.filter fun l => decide (l / z = g)
          ∃ order : Nat → List Nat,
            (∀ g, (order g).Perm (segment g) ∧ (order g).Pairwise fun a b => better a b ∨ (rank a = rank b ∧ a < b))
            ∧ k.results = (List.range (32 / z)).flatMap fun g =>
                let pz := (segment g).any fun l => (A l).p || (B l).p
                (((segment g).zip (order g)).take e.2).flatMap fun lj =>
                  [(key lj.1 0, { A lj.2 with p := pz }), (key lj.1 1, { B lj.2 with p := pz })])
    ∧ (∀ a b : Nat, a < 2 ^ 32 → b < 2 ^ 32 →
        let nan := fun v => decide (v / 2 ^ 23 % 256 = 255 ∧ v % 2 ^ 23 ≠ 0)
        (rankKey 0 a < rankKey 0 b ↔ a < b)
        ∧ (rankKey 1 a < rankKey 1 b ↔ (BitVec.ofNat 32 a).toInt < (BitVec.ofNat 32 b).toInt)
        ∧ (nan a = true → nan b = true → rankKey 2 a = rankKey 2 b)
        ∧ (nan a = false → nan b = true → rankKey 2 a < rankKey 2 b)
        ∧ (nan a = false → nan b = false → (rankKey 2 a < rankKey 2 b ↔
            (2 ^ 31 ≤ a ∧ b < 2 ^ 31) ∨ (a < b ∧ b < 2 ^ 31) ∨ (2 ^ 31 ≤ b ∧ b < a))))

/-! ## The lane stream: memory -/

/-- R60, R233, R235, R236, R238: the element loads whose addresses are aligned and legal and whose lanes meet no translation fault
are left outstanding in ld with no lane performed; helper lanes get zero. Lanes that an event performs get as registers the
elements of the bytes read for them, extended as the width says. -/
def Obligations.ElementLoads : Prop :=
  ∀ (s p : State) (G : Gang) (r : Run) (f : LM),
    let x := mkIssue s s.cur G r (some f.msel.toNat)
    let w := f.width.toNat
    let count := 2 ^ f.fn.toNat
    let size := [1, 1, 2, 2, 4, 8].getD w 4
    let span := count * (if w = 5 then 2 else 1)
    let key := fun l j => l * 1024 + G.phys (s.regsOf G) (f.dst.idx.toNat + j)
    let element := fun (d : Data) k => ofBytes ((d.bytes.drop (k * size)).take size)
    let register := fun (d : Data) j =>
      if w = 5 then BitVec.ofNat 32 (element d (j / 2) / 2 ^ (32 * (j % 2)))
      else if w = 1 then (BitVec.ofNat 8 (element d j)).signExtend 32
      else if w = 3 then (BitVec.ofNat 16 (element d j)).signExtend 32
      else BitVec.ofNat 32 (element d j)
    let loads := fun (i : Instr) (u : Use) (as : List Nat) (one : Gang → Agent → State → Nat → State × Except FaultInfo Data) =>
      s.MemLeaves G r i f u p as .load .ld (x.help.flatMap fun l => (List.range span).map fun j => (key l j, ⟨0, false, true⟩)) one
        fun l d => (List.range span).map fun j => (key l j, ⟨register d j, d.bad, true⟩)
    let u : Use := { srcs := [(f.a, if f.amode = 0 then 2 else 1)], dsts := [(f.dst, span)], gated := true }
    let legal := fun window => ∀ l ∈ x.act,
      (s.laneIn G r (some f.msel.toNat) u p).addressFault G 0 (x.laneAddr f l) (size * count) (size * count) window = none
    (s.MemTurn G r (.ldg f) f u .ld p → legal true →
      loads (.ldg f) u (x.act.map (x.laneAddr f)) fun H ag v l => v.lsLoad H ag (v.far H f.scope.toNat) f.hint.toNat (x.laneAddr f l) (size * count))
    ∧ (s.MemTurn G r (.ldc f) f u .ld p → legal false →
      loads (.ldc f) u (x.act.map (x.laneAddr f)) fun H ag v l =>
        match v.pathRead (.const H.place.core) (clusterOf H.place.core) H.vnum (x.laneAddr f l) (size * count) with
        | (v, .error e) => (v, .error e)
        | (v, .ok d) => (v.metData (partOfVnum H.vnum) d ag, .ok d))
    ∧ (let u : Use := { srcs := [(f.a, 1)], dsts := [(f.dst, span)], gated := true }
      let off := fun l => ((x.word l f.a false).1 : Int) + f.off.toInt
      s.MemTurn G r (.lds f) f u .ld p →
      (∀ l ∈ x.act, 0 ≤ off l ∧ off l % (size * count : Nat) = 0 ∧
        (s.laneIn G r (some f.msel.toNat) u p).scratchOk G (off l).toNat (size * count) = true) →
      loads (.lds f) u (x.act.map fun l => windowBase + (off l).toNat) fun H ag v l =>
        let d := v.scratchRead H (off l).toNat (size * count)
        (if d.bad then v.metPoisonIn (partOfVnum H.vnum) 2 (off l).toNat ag else v, .ok d))

/-- R235, R236, R239, R242: the element stores whose addresses are aligned and legal and whose lanes meet no fault are left
outstanding in st with no lane performed. Lanes that an event performs store their registers one lane after another at their
own addresses, CSTORE packed from the lowest lane's address on. Stores to scratch change no byte of scratch but those of their
lanes and the state bytes of ring headers in use (R301, log entry 46), and nothing of memory, of the gangs or of other
workgroups. -/
def Obligations.ElementStores : Prop :=
  ∀ (s p : State) (G : Gang) (r : Run) (f : LM),
    let x := mkIssue s s.cur G r (some f.msel.toNat)
    let w := f.width.toNat
    let count := 2 ^ f.fn.toNat
    let size := [1, 1, 2, 2, 4, 8].getD w 4
    let span := count * (if w = 5 then 2 else 1)
    let data := fun l => (List.range span).map fun j => (toBytes (min 4 size) (x.cell l f.b j).val.toNat, (x.cell l f.b j).p)
    let stores := fun (i : Instr) (u : Use) (as : List Nat) (one : Gang → Agent → State → Nat → State × Except FaultInfo Unit) =>
      s.MemLeaves G r i f u p as .store .st [] one fun _ _ => []
    let quiet := fun (one : Gang → Agent → State → Nat → State × Except FaultInfo Unit) (at' : Nat → Nat) =>
      ∀ (H : Gang) (ag : Agent) (v t : State) (ls : List Nat), (∀ l ∈ ls, l ∈ x.act) → LanesOk (one H ag) v ls t (fun _ => ()) →
        t.mem = v.mem ∧ t.side = v.side ∧ t.bad = v.bad ∧ t.sideBad = v.sideBad ∧ t.gangs = v.gangs
        ∧ (∀ w, w ≠ H.place.wg → t.wg? w = v.wg? w)
        ∧ ∀ a, (∀ l ∈ ls, ¬(at' l ≤ a ∧ a < at' l + min 4 size * span)) →
          (∀ h ∈ v.ringsInUse H.place.wg, ¬(h + 32 ≤ a ∧ a < h + 64)) →
            (t.scratchRead H a 1).bytes = (v.scratchRead H a 1).bytes
    let one := fun (addr : Nat → Nat) (H : Gang) (_ : Agent) (v : State) (l : Nat) =>
      ((match storeLane v s.cur H (v.far H f.scope.toNat) f.hint.toNat (data l) (addr l) with
        | (v, some e) => (v, .error e)
        | (v, none) => (v, .ok ())) : State × Except FaultInfo Unit)
    let u : Use := { srcs := [(f.a, if f.amode = 0 then 2 else 1), (f.b, span)], dsts := [], gated := true }
    let q := s.laneIn G r (some f.msel.toNat) u p
    (s.MemTurn G r (.stg f) f u .st p →
      (∀ l ∈ x.act, q.addressFault G 1 (x.laneAddr f l) (size * count) (size * count) true = none) →
      stores (.stg f) u (x.act.map (x.laneAddr f)) (one (x.laneAddr f)))
    ∧ (∀ addr : Nat → Nat, (∀ l ∈ x.act, ∀ j < min 4 size * span, inWindow (addr l + j) = true) →
      quiet (one addr) fun l => addr l - windowBase)
    ∧ (let packed := fun l => (x.laneAddr f (x.act.headD 0) + (x.act.filter fun j => decide (j < l)).length * size) % 2 ^ 64
      s.MemTurn G r (.cstore f) f u .st p →
      (∀ l ∈ x.act, q.addressFault G 1 (packed l) size size true = none) →
      stores (.cstore f) u (x.act.map packed) (one packed))
    ∧ (let u : Use := { srcs := [(f.a, 1), (f.b, span)], dsts := [], gated := true }
      let off := fun l => ((x.word l f.a false).1 : Int) + f.off.toInt
      s.MemTurn G r (.sts f) f u .st p →
      (∀ l ∈ x.act, 0 ≤ off l ∧ off l % (size * count : Nat) = 0 ∧
        (s.laneIn G r (some f.msel.toNat) u p).scratchOk G (off l).toNat (size * count) = true) →
      let one : Gang → Agent → State → Nat → State × Except FaultInfo Unit := fun H _ v l => (((data l).zipIdx.foldl (fun v cj =>
        v.scratchWrite H ((off l).toNat + min 4 size * cj.2) cj.1.1 cj.1.2) v).spoilRings H (off l).toNat (min 4 size * span), .ok ())
      stores (.sts f) u (x.act.map fun l => windowBase + (off l).toNat) one ∧ quiet one fun l => (off l).toNat)

/-- R96 to R98, R240, R241: the line words at a 256-byte aligned legal address whose lines meet no fault are left outstanding with
nothing performed. Performed, LDL leaves word l of each line and word l + 32 in the registers of lane l; LDB leaves its lanes'
bytes of a block line and the scale bytes of the whole blocks; STB stores its lanes' bytes, and outside the window the scale
bytes of whole blocks and the tag. An entry or part that a block line does not allow is the illegal-instruction fault. -/
def Obligations.LineWords : Prop :=
  ∀ (s p t : State) (G : Gang) (r : Run) (f : LM),
    let x := mkIssue s s.cur G r (some f.msel.toNat)
    let key := fun l j => l * 1024 + G.phys (s.regsOf G) (f.dst.idx.toNat + j)
    let ag := s.laneAgent G r.addr r.next
    let va := x.laneAddr f (x.act.headD 0)
    let count := 2 ^ f.fn.toNat
    let zeros := fun n => x.help.flatMap fun l => (List.range n).map fun j => (key l j, (⟨0, false, true⟩ : Cell))
    let F := G.fmt f.width.toNat
    let part := f.fn.toNat
    let far := fun (v : State) (H : Gang) => v.far H f.scope.toNat
    let lanes := if part = 1 then x.act.filter fun l => decide (l < 16) else x.act
    let bytesOf := if F.width = 6 then 3 else 4
    let offs := fun l h => 192 * part + bytesOf * (32 * h + l)
    let whole := fun H => (List.range (lineBlocks F part)).filter (wholeBlock F H (maskOf x.act))
    let legal := fun (u : Use) acc n => (s.laneIn G r (some f.msel.toNat) u p).addressFault G acc va n 256 true = none
    let left := fun (i : Instr) (u : Use) (kind : PendKind) (c : Cnt) (zero : List (Nat × Cell)) (k : Pend) =>
      exec i s = .next (((s.memIn G r f u p [va]).addPend s.cur k).laneIssued s.cur G r.serial)
        ∧ k.Begins (s.laneIn G r (some f.msel.toNat) u p).nextId kind (some c) r i ∧ k.results = zero ∧ k.todo = maskOf x.act
    let performed := fun (k : Pend) (H : Gang) (g : Agent) (rs : List (Nat × Cell)) (n : Nat) (v : State) =>
      wordTry s.cur H g { k with results := rs, todo := n } x.act v
    (∀ (ds : List LineData),
      let u : Use := { srcs := [(f.a, if f.amode = 0 then 2 else 1)], dsts := [(f.dst, 2 * count)], gated := true }
      s.MemTurn G r (.ldl f) f u .ld p → x.act ≠ [] → legal u 0 (256 * count) →
      (s.memIn G r f u p [va]).loadLines G ag (far (s.memIn G r f u p [va]) G) f.hint.toNat count va = (t, [], ds) →
        ∃ k, left (.ldl f) u .load .ld (zeros (2 * count)) k
          ∧ ∀ (H : Gang) (g : Agent) (rs : List (Nat × Cell)) (n : Nat) (v w : State) (ds : List LineData),
            v.loadLines H g (far v H) f.hint.toNat count va = (w, [], ds) →
            let y := performed k H g rs n v
            ds.length = count ∧ y.s = w ∧ y.faults = []
            ∧ y.p.results = rs ++ x.act.flatMap fun l => (List.range (2 * count)).map fun j =>
              (key l j, ⟨BitVec.ofNat 32 (ofBytes ((((ds.map LineData.bytes).getD (j / 2) []).drop (128 * (j % 2) + 4 * l)).take 4)),
                ds.any fun d => ((d.bad.drop (4 * l)).take 4).any id || ((d.bad.drop (128 + 4 * l)).take 4).any id, true⟩))
    ∧ (∀ i : Instr, i ∈ [.ldb f, .stb f] → s.LaneTurn G r i (some f.msel.toNat)
          (if i = .ldb f then { srcs := [(f.a, if f.amode = 0 then 2 else 1)], dsts := [(f.dst, 2 - part)], gated := true }
           else { srcs := [(f.a, if f.amode = 0 then 2 else 1), (f.b, 2 - part)], dsts := [], gated := true }) p →
        (F.b = false ∨ (part = 1 ∧ F.width ≠ 6)) → exec i s = .next (s.laneIllegal G r i))
    ∧ (let u : Use := { srcs := [(f.a, if f.amode = 0 then 2 else 1)], dsts := [(f.dst, 2 - part)], gated := true }
      let reads := fun (H : Gang) (g : Agent) (v : State) (d : LineData) (w : State) (sc : List Byte) (sbad : Bool) =>
        ∃ t1 t2, v.loadLine H g (far v H) f.hint.toNat va = (t1, .ok d)
          ∧ ((inWindow va = true ∧ w = t1 ∧ sc = List.replicate 17 0 ∧ sbad = false) ∨
            (inWindow va = false ∧ t1.loadSide H.place.core H.vnum (far v H) va d.pa = (t2, sc, sbad)
              ∧ w = if sbad then t2.uncorrectable (partOfVnum H.vnum) 11 d.pa g else t2))
      s.MemTurn G r (.ldb f) f u .ld p → x.act ≠ [] → F.b = true → (part = 0 ∨ F.width = 6) → legal u 0 256 →
      (∃ d sc sbad, reads G ag (s.memIn G r f u p [va]) d t sc sbad) →
        ∃ k, left (.ldb f) u .load .ld (zeros (2 - part)) k
          ∧ ∀ (H : Gang) (g : Agent) (rs : List (Nat × Cell)) (n : Nat) (v w : State) (d : LineData) (sc : List Byte) (sbad : Bool),
            reads H g v d w sc sbad →
            let y := performed k H g rs n v
            y.s = w ∧ y.faults = []
            ∧ y.p.results = rs ++ lanes.flatMap (fun l => (List.range (2 - part)).map fun h =>
              let raw := ofBytes ((d.bytes.drop (offs l h)).take bytesOf);
              (key l h, ⟨BitVec.ofNat 32 (if F.width = 6 then raw % 64 + raw / 64 % 64 * 2 ^ 8 + raw / 2 ^ 12 % 64 * 2 ^ 16
                  + raw / 2 ^ 18 % 64 * 2 ^ 24 else raw),
                sbad || (List.range (2 - part)).any fun h => ((d.bad.drop (offs l h)).take bytesOf).any id, true⟩))
            ∧ y.p.scales = (whole H).map fun j => (f.xB.toNat, j, sc.getD (8 * part + j) 0))
    ∧ (let u : Use := { srcs := [(f.a, if f.amode = 0 then 2 else 1), (f.b, 2 - part)], dsts := [], gated := true }
      let lines := fun (H : Gang) (v : State) => storeLines v s.cur H (far v H) f.hint.toNat ((List.range (2 - part)).flatMap fun h =>
        lanes.map fun l =>
          let v := (x.cell l f.b h).val.toNat;
          (va + offs l h, toBytes bytesOf (if F.width = 6 then v % 64 + v / 2 ^ 8 % 64 * 2 ^ 6 + v / 2 ^ 16 % 64 * 2 ^ 12
            + v / 2 ^ 24 % 64 * 2 ^ 18 else v), (x.cell l f.b h).p))
      s.MemTurn G r (.stb f) f u .st p → lanes ≠ [] → F.b = true → (part = 0 ∨ F.width = 6) → legal u 1 256 →
      lines G (s.memIn G r f u p [va]) = (t, none) →
        ∃ k, left (.stb f) u .store .st [] k ∧ k.dests = []
          ∧ ∀ (H : Gang) (g : Agent) (n : Nat) (v t1 : State), lines H v = (t1, none) →
            let y := performed k H g [] n v
            y.faults = [] ∧ y.p.results = []
            ∧ y.s = if inWindow va then t1 else t1.storeSide H.place.core H.vnum (far v H) f.hint.toNat va
              ((whole H).map (fun j => (8 * part + j, BitVec.ofNat 8 (G.lane.scaleByte f.xB.toNat j)))
                ++ [(16, BitVec.ofNat 8 (formatTag (F.raw % 2 ^ 24)))]))

/-- R99, R107 to R109, R234, R243 to R246: the atomic words whose addresses are aligned and legal and whose lanes meet no fault are
left outstanding with no lane performed. A lane of ATOM or REDG that an event performs replaces the word at its address, one lane
after another, by the operation's result, ATOM keeping the old word for its registers; a lane of ATOMX adds to, reads or clears
the exact cell at its address in the shadow area of its slice. That P of ATOM's result is that of the memory read alone, and that a word of ATOMX
which reads puts back the whole image, is the model's choice (log entry 11); so is which granules of a spill area a store leaves
undefined (R124, log entry 47). PREF completes whatever its lanes meet and leaves every gang's
registers and outstanding operations as they were. -/
def Obligations.AtomicWords : Prop :=
  ∀ (s p : State) (G : Gang) (r : Run) (f : LM),
    let x := mkIssue s s.cur G r (some f.msel.toNat)
    let wide := decide (f.width = 5)
    let n := if wide then 8 else 4
    let W := 8 * n
    let key := fun l j => l * 1024 + G.phys (s.regsOf G) (f.dst.idx.toNat + j)
    let arg := fun l k => ((List.range (n / 4)).foldl (fun v j => v + (x.cell l f.b (n / 4 * k + j)).val.toNat * 2 ^ (32 * j)) 0,
      (List.range (n / 4)).any fun j => (x.cell l f.b (n / 4 * k + j)).p)
    let flt := fun v => binary32.decode v
    let f32 := fun v => (binary32.conv 0 false 0 v).code
    let signed := fun v => (BitVec.ofNat W v).toInt
    let new := fun a b c => ([(a + b) % 2 ^ W, if signed a ≤ signed b then a else b, if signed a ≤ signed b then b else a,
      min a b, max a b, a &&& b, a ||| b, a ^^^ b, b, if a = b then c else a, f32 (Machine.Num.sum [flt a, flt b] false).1,
      f32 ((flt a).minOf (flt b)), f32 ((flt a).maxOf (flt b))] : List Nat).getD f.fn.toNat 0
    let lane := fun (acc : Acc) (H : Gang) (ag : Agent) (v : State) (l : Nat) =>
      let va := x.laneAddr f l
      let b := arg l 0
      let c := if f.fn = 9 then arg l 1 else (0, false)
      ((if inWindow va then
          let d := v.scratchRead H (va - windowBase) n
          let v := if d.bad then v.metPoisonIn (partOfVnum H.vnum) 2 (va - windowBase) ag else v
          ((v.scratchWrite H (va - windowBase) (toBytes n (new (ofBytes d.bytes) b.1 c.1)) (d.bad || b.2 || c.2)).spoilRings H
            (va - windowBase) n, .ok (ofBytes d.bytes, d.bad))
        else match v.atHome H.place.core H.vnum acc false va with
          | (v, .error e) => (v, .error e)
          | (v, .ok pa) =>
            let h := v.homeAtomic H.req pa n
            let old := ofBytes (h.1.readPa pa n)
            let bad := h.1.extentBad pa n || h.2
            let v := if bad then h.1.metPoison (partOfVnum H.vnum) pa ag else h.1
            ((v.putAtomic H.req h.2 pa (toBytes n (new old b.1 c.1)) (bad || b.2 || c.2)).spoilSpills s.cur H va n,
              .ok (old, bad))) :
        State × Except FaultInfo (Nat × Bool))
    let cell := fun (acc : Acc) (writes : Bool) (g : Exact → Nat → Exact) (pz : Nat → Bool) (H : Gang) (ag : Agent) (v : State) (l : Nat) =>
      ((match v.atHome H.place.core H.vnum acc false (x.laneAddr f l) with
        | (v, .error e) => (v, .error e)
        | (v, .ok pa) =>
          let c := v.takeCell H.req pa
          let old := Exact.ofImage c.2
          let bad := c.1.extentBad pa 64
          let v := (if bad then c.1.metPoison (partOfVnum H.vnum) pa ag else c.1).putCell H.req pa (g old l).image
          let v := if writes then v.spoilSpills s.cur H (x.laneAddr f l) 64 else v
          (if pz l then v.setSectorBad (pa / 64) true else v, .ok (old, bad))) :
        State × Except FaultInfo (Exact × Bool))
    let legal := fun (u : Use) acc size window => ∀ l ∈ x.act,
      (s.laneIn G r (some f.msel.toNat) u p).addressFault G acc (x.laneAddr f l) size size window = none
    let zeros := fun n => x.help.flatMap fun l => (List.range n).map fun j => (key l j, (⟨0, false, true⟩ : Cell))
    let regs := fun (n l : Nat) (o : Nat × Bool) => (List.range n).map fun j => (key l j, (⟨BitVec.ofNat 32 (o.1 / 2 ^ (32 * j)), o.2, true⟩ : Cell))
    let a := (f.a, if f.amode = 0 then 2 else 1);
    ( let u : Use := { srcs := [a, (f.b, n / 4 * (if f.fn = 9 then 2 else 1))], dsts := [(f.dst, n / 4)], gated := true }
      s.MemTurn G r (.atom f) f u .ld p → legal u 2 n true →
        s.MemLeaves G r (.atom f) f u p (x.act.map (x.laneAddr f)) .load .ld (zeros (n / 4)) (lane .rmw) (regs (n / 4)))
    ∧ (let u : Use := { srcs := [a, (f.b, n / 4 * (if f.fn = 9 then 2 else 1))], dsts := [], gated := true }
      s.MemTurn G r (.redg f) f u .st p → legal u 1 n true →
        s.MemLeaves G r (.redg f) f u p (x.act.map (x.laneAddr f)) .store .st [] (lane .write) fun _ _ => [])
    ∧ (let u : Use := { srcs := [a, (f.b, 1)], dsts := [], gated := true }
      s.MemTurn G r (.atomxAdd f) f u .st p → legal u 1 64 false →
        s.MemLeaves G r (.atomxAdd f) f u p (x.act.map (x.laneAddr f)) .store .st []
          (cell .write true (fun e l => e.add (flt (x.cell l f.b 0).val.toNat)) fun l => (x.cell l f.b 0).p) fun _ _ => [])
    ∧ (let u : Use := { srcs := [a], dsts := [], gated := true }
      s.MemTurn G r (.atomxClr f) f u .st p → legal u 1 64 false →
        s.MemLeaves G r (.atomxClr f) f u p (x.act.map (x.laneAddr f)) .store .st []
          (cell .write true (fun _ _ => Exact.zero) fun _ => false) fun _ _ => [])
    ∧ (∀ e ∈ ([(.atomxRd f, false, fun e _ => e), (.atomxRdclr f, true, fun _ _ => Exact.zero)] : List (Instr × Bool × (Exact → Nat → Exact))),
      let u : Use := { srcs := [a], dsts := [(f.dst, 1)], gated := true }
      s.MemTurn G r e.1 f u .ld p → legal u 2 64 false →
        s.MemLeaves G r e.1 f u p (x.act.map (x.laneAddr f)) .load .ld (zeros 1) (cell .rmw e.2.1 e.2.2 fun _ => false) fun l o => regs 1 l
          ((binary32.round (f.fn.toNat / 4 % 8) (decide (f.fn.toNat / 32 % 2 = 1)) 0 o.1.value).code, o.2))
    ∧ (let u : Use := { srcs := [a], gated := true }
      s.LaneTurn G r (.pref f) (some f.msel.toNat) u p →
        ∃ t, exec (.pref f) s = .next t
          ∧ (∀ g, g ≠ s.cur → (t.gang? g).map (fun H => { H with owed := ⟨false, false, false⟩ })
              = (p.gang? g).map fun H => { H with owed := ⟨false, false, false⟩ })
          ∧ (t.gang? s.cur).map (fun H => (H.lane, H.s, H.m, H.pc)) = some (u.freeAll x G.lane, G.s, G.m, G.pc)
          ∧ (t.gang? s.cur).map Gang.pend = some G.pend)
/-! ## The lane stream: matrix and tile words -/

/-- R252, R253, R255 to R259, R262 to R264: MCONV and MCONV.dis turn the gang's convened flag and empty its set's latch; a matrix
word of a convened gang with legal operands reads its registers, rises tl, and joins operation k of its set; with fewer
than four contributions nothing is accepted, and four that agree, in whatever order they came, are accepted as one operation of the twin: A from the set's latch where it is valid, else
from the contributions in GIDX order, one row group or those of GMMA's table, whose status mask bit says whether rows were cut off; the
latch then holds A where the word says reuse, else nothing (R261). Four of which the first has no active lane complete with no effect;
four that differ, a latch of another form, and a table or metadata area that is misaligned or illegal are the illegal-instruction fault;
one outside scratch is the protection fault with DETAIL 5 (log entry 90). -/
def Obligations.MatrixContributions : Prop :=
  ∀ (s p : State) (G : Gang) (r : Run) (f : LT),
    let m := f.msel.toNat
    let x := mkIssue s s.cur G r (some m)
    let q := fun u => s.laneIn G r (some m) u p
    let set := fun u => ((q u).setOf G).1
    let empty := fun (v : State) u => v.modWg G.place.wg fun W => { W with latches := SMap.erase (set u) W.latches }
    let A := G.fmt f.fmt.toNat
    let B := G.fmt (f.aux.toNat % 16)
    let md := (if A.width = 4 then 32 else 16) / 4
    ( let u : Use := { gated := true }
      s.LaneTurn G r (.mconv f) (some m) u p →
        (G.eng.conv = false → exec (.mconv f) s = .next ((empty ((q u).modGang s.cur fun H =>
          { H with eng := { H.eng with conv := true, opnum := 0 } }) u).laneIssued s.cur G r.serial))
        ∧ (G.eng.conv = true → exec (.mconv f) s = .next (s.laneIllegal G r (.mconv f))))
    ∧ (let u : Use := { gated := true }
      let pending := ((q u).wg? G.place.wg).any fun W => W.unaccepted (set u)
      s.LaneTurn G r (.mconvDis f) (some m) u p →
        (G.eng.conv = true → pending = false → exec (.mconvDis f) s = .next ((empty ((q u).modGang s.cur fun H =>
          { H with eng := { H.eng with conv := false } }) u).laneIssued s.cur G r.serial))
        ∧ ((G.eng.conv = false ∨ pending = true) → exec (.mconvDis f) s = .next (s.laneIllegal G r (.mconvDis f))))
    ∧ (∀ e ∈ ([(.mma f, 0, 2, []), (.mmas f, if f.fn = 0 then md else 0, 2 * 2 ^ f.spat.toNat, []),
          (.gmma f, 0, 0, if f.xD.toNat % 8 = 0 then [] else [f.xD.toNat % 8])] : List (Instr × Nat × Nat × List Nat)),
      let u : Use := { srcs := if e.2.1 = 0 then [(⟨false, .v, f.vA⟩, 16)] else [(⟨false, .v, f.vA⟩, 16), (⟨false, .v, f.vM⟩, e.2.1)],
                       mwr := e.2.2.2, gated := true, trap := false }
      let T := s.tiles G
      s.LaneTurn G r e.1 (some m) u p →
      (G.eng.conv = false → exec e.1 s = .next (s.laneIllegal G r e.1))
      ∧ (G.eng.conv = true → denseK A B ≠ 0 → (if A.b then f.xA.toNat ≤ 24 else f.xA = 0) → f.zD.toNat + 16 ≤ T →
        f.zB.toNat + e.2.2.1 ≤ T → (e.2.2.1 = 0 ∨ f.zD.toNat + 16 ≤ f.zB.toNat ∨ f.zB.toNat + e.2.2.1 ≤ f.zD.toNat) →
        (e.1 = .mmas f → A.b = true ∧ (f.fn = 0 → f.vM.toNat % md = 0) ∧ (f.fn = 1 → f.vM.toNat < T)) →
        G.full .tl = false → G.contributions < 4 → (q u).tableAfter G e.1 f = false →
        ∃ (k : Pend) (c : Contrib),
          let joined := ((({ q u with nextId := (q u).nextId + 1 } : State).addPend s.cur k).modGang s.cur fun H =>
            { H with eng := { H.eng with opnum := G.eng.opnum + 1 } }).modWg G.place.wg fun W =>
              { W with contrib := SMap.upd (set u * 2 ^ 32 + G.eng.opnum) [] (· ++ [c]) W.contrib }
          exec e.1 s = .next ((joined.accept G.place.wg (set u) G.eng.opnum).laneIssued s.cur G r.serial)
          ∧ k.Begins (q u).nextId (.matrix G.eng.opnum) (some .tl) r e.1
          ∧ c.gang = s.cur ∧ c.pend = k.id ∧ c.word = e.1 ∧ c.lanes = (G.mreg m).toNat ∧ c.sS = (G.sreg f.sS.toNat).toNat
          ∧ (∀ j < 16, ∀ l < 32, SMap.getD (32 * j + l) ⟨0, false, true⟩ c.a = x.cell l ⟨false, .v, f.vA⟩ j)
          ∧ (∀ j < e.2.1, ∀ l < 32, SMap.getD (32 * j + l) ⟨0, false, true⟩ c.md = x.cell l ⟨false, .v, f.vM⟩ j)
          ∧ (∀ j < 128, c.asc[j]? = some (G.lane.scaleByte (f.xA.toNat + j / 16) (j % 16)))))
    ∧ (∀ (v : State) (w g k : Nat) (W : Wg), v.wg? w = some W →
        let cs := SMap.getD (g * 2 ^ 32 + k) [] W.contrib
        let gidx := fun (c : Contrib) => (v.gang? c.gang).elim 0 fun H => H.place.gidx
        (cs.length ≠ 4 → v.accept w g k = v)
        ∧ (∀ c d1 d2 d3 H, [c, d1, d2, d3].Perm cs → gidx c < gidx d1 → gidx d1 < gidx d2 → gidx d2 < gidx d3 →
            v.gang? c.gang = some H →
            let f := ltOf c.word
            let four := [c, d1, d2, d3]
            let taken := v.modWg w fun W => { W with contrib := SMap.erase (g * 2 ^ 32 + k) W.contrib }
            let faults := fun (e : FaultInfo) => v.accept w g k = taken.halt (partOfVnum H.vnum) (taken.laneAgent H c.run c.widx) e 0
            let agree := ∀ d ∈ four, laneOp d.word = laneOp c.word ∧ sharedFields (ltOf d.word) = sharedFields f
            let latch := SMap.find? g W.latches
            let fits := ∀ l, latch = some l → l.fmt = f.fmt.toNat ∧ l.spat = f.spat.toNat
            let n := if c.word = .gmma f then 4 * (f.aux.toNat / 16 % 16 + 1)
              else if c.word = .mmas f ∧ f.fn = 2 then 128 * (if (Fmt.ofEntry c.fa).width = 4 then 32 else 16) else 0
            let align := if c.word = .gmma f then 64 else 256
            let entry := fun i => ofBytes (((v.scratchRead H c.sS n).bytes.drop (4 * i)).take 4)
            let sum := fun i => (List.range i).foldl (fun m j => m + entry j % 2 ^ 16) 0
            let slot := fun i => entry i / 2 ^ 16 % 128
            let good := fun i => entry i / 2 ^ 23 = 0 ∧ slot i % 2 = 0 ∧ slot i + 1 < v.tiles H
              ∧ (f.zD.toNat + 16 ≤ slot i ∨ slot i + 2 ≤ f.zD.toNat)
            let table := ∀ i < n / 4, c.word = .gmma f → good i
            (¬agree → faults (contribIllegal c))
            ∧ (agree → c.lanes = 0 → v.accept w g k = taken.retireContribs four)
            ∧ (agree → c.lanes ≠ 0 → ¬fits → faults (contribIllegal c))
            ∧ (agree → c.lanes ≠ 0 → fits → n ≠ 0 → c.sS % align ≠ 0 → faults (contribIllegal c))
            ∧ (agree → c.lanes ≠ 0 → fits → n ≠ 0 → c.sS % align = 0 → v.scratchOk H c.sS n = false →
                faults (protection (windowBase + c.sS) 0 5))
            ∧ (agree → c.lanes ≠ 0 → fits → n ≠ 0 → c.sS % align = 0 → v.scratchOk H c.sS n = true → ¬table → faults (contribIllegal c))
            ∧ (agree → c.lanes ≠ 0 → fits → (n ≠ 0 → c.sS % align = 0 ∧ v.scratchOk H c.sS n = true) → table →
                ∃ o : MatOp, (v.accept w g k).twins = SMap.upd (twinOf H.place.core) [] (· ++ [o]) v.twins
                  ∧ o.id = c.pend ∧ o.wg = w ∧ o.set = g ∧ o.contribs = four ∧ o.started = none
                  ∧ o.a = (match latch with
                    | some l => l.a
                    | none => four.map Contrib.a)
                  ∧ o.asc = (match latch with
                    | some l => l.asc
                    | none => four.map Contrib.asc)
                  ∧ (c.word ≠ .gmma f → o.groups = [(0, 128, f.zB.toNat)])
                  ∧ (c.word = .gmma f →
                    o.groups = (List.range (n / 4)).filterMap (fun i =>
                      if min 128 (sum i) < min 128 (sum (i + 1)) then some (min 128 (sum i), min 128 (sum (i + 1)), slot i) else none)
                    ∧ (f.xD.toNat % 8 ≠ 0 → ((v.accept w g k).gang? c.gang).map (fun K => K.mreg (f.xD.toNat % 8)) =
                        some (if 128 < sum (n / 4) then 1 else 0)))
                  ∧ ((v.accept w g k).wg? w).map (fun V => SMap.find? g V.latches) =
                      some (if f.reuse then some ⟨f.fmt.toNat, f.spat.toNat, o.a, o.asc⟩ else none))))

/-- R110, R249, R253 to R258, R260: a twin dispatches its oldest accepted operation that has not started, once no earlier tile word or
Ladle holds a slot of it the other way, and retires the oldest that
has; at that point the accumulators of a dense operation are those of R260: each group of 32 products summed exactly and
rounded once, then added with one rounding, groups in ascending order; a sparse operation takes for each kept value of a row the value
of B at the k that its pattern and the row's metadata name, from registers, a slot or scratch (R262, R263); GMMA gives each row group
its own slots of B (R264), and rows in no group keep theirs. That B and the accumulators are read, and the results written, in the one
step of retirement is the model's choice (log entry 15). -/
def Obligations.MatrixOperations : Prop :=
  (∀ (s : State) (twin : Nat) (done rest : List MatOp) (o : MatOp), SMap.getD twin [] s.twins = done ++ o :: rest →
    (∀ d ∈ done, d.started ≠ none) → o.started = none → s.stopped (twin / 18) = false →
      (s.slotsFree twin o = false → exec (.matrixOperationDispatch twin) s = .next s)
      ∧ (s.slotsFree twin o = true → ∃ (md : List Byte) (t : State), exec (.matrixOperationDispatch twin) s =
          .next { t with twins := SMap.put twin (done ++ { o with md := md, started := some s.now } :: rest) t.twins }
        ∧ ((∀ c cs f, o.contribs = c :: cs → c.word = .mmas f → f.fn ≠ 2) → t = s ∧ md = [])
        ∧ (∀ c cs f G, o.contribs = c :: cs → c.word = .mmas f → f.fn = 2 → s.gang? c.gang = some G →
            let d := s.scratchRead G c.sS (128 * (if (Fmt.ofEntry c.fa).width = 4 then 32 else 16))
            md = d.bytes ∧ t = if d.bad then s.metPoisonIn (partOfVnum G.vnum) 2 c.sS (s.laneAgent G c.run c.widx) else s)))
  ∧ (∀ (s : State) (twin : Nat) (rest : List MatOp) (o : MatOp) (W : Wg) (c : Contrib) (cs : List Contrib),
    SMap.getD twin [] s.twins = o :: rest → o.started ≠ none → s.arrayStopped twin = false → s.wg? o.wg = some W → o.contribs = c :: cs →
      ∃ t, exec (.matrixOperationRetire twin) s = .next t
        ∧ t.twins = SMap.put twin rest s.twins
        ∧ (t.wg? o.wg).map (fun V => (V.tile, V.tileSc, V.tileBad, V.scratch)) =
            some ((o.perform W).1.tile, W.tileSc, (o.perform W).1.tileBad, W.scratch))
  ∧ (∀ (sat : Bool) (acc n : Nat) (terms : List (Nat × Machine.Num × Machine.Num)),
    (accumulate sat acc 0 terms).code = acc
    ∧ (accumulate sat acc (n + 1) terms).code = (binary32.round 0 sat 0 (Machine.Num.sum [binary32.decode (accumulate sat acc n terms).code,
        binary32.decode (round32 (Machine.Num.dot ((terms.filter fun t => decide (t.1 / 32 = n)).map Prod.snd) [] false).1).code] false)).code)
  ∧ (∀ (o : MatOp) (W : Wg) (side row col b : Nat) (f : LT) (c : Contrib), row < 128 → col < 128 → b = 2 * 2 ^ f.spat.toNat →
    let A := Fmt.ofEntry c.fa
    let B := Fmt.ofEntry c.fb
    let K := denseK A B
    let acc := ofBytes (Memory.read W.tile (tileKey side f.zD.toNat (512 * row + 4 * col)) 4)
    let mb := if A.width = 4 then 32 else 16
    let per := 128 / mb
    let words := ((o.contribs[row / 32]?).map Contrib.md).getD []
    let md := if f.fn = 0 then (List.range (mb / 4)).foldl (fun n j => n +
          (SMap.getD (32 * (row % 32 / per) + mb / 4 * (row % per) + j) ⟨0, false, true⟩ words).val.toNat * 2 ^ (32 * j)) 0
      else if f.fn = 1 then ofBytes (Memory.read W.tile (tileKey side f.vM.toNat (mb * row)) mb)
      else ofBytes ((o.md.drop (mb * row)).take mb)
    let at' := fun q => if f.spat = 0 then q else if f.spat = 1 then 4 * (q / 2) + md / 4 ^ q % 4 else 4 * q + md / 4 ^ q % 4
    (∀ q < K, at' q < K * b / 2) →
    ((o.row W side row f c (W.bColumns side f.zB.toNat b B (K * b / 2)))[col]?).map Prod.fst =
      some (accumulate f.sat acc (K * b / 2 / 32) ((List.range K).map fun q =>
        (at' q, o.aValue A f.vA.toNat K row q, (W.bValue side f.zB.toNat b B (at' q) col).1))).code)
  ∧ (∀ (o : MatOp) (W : Wg) (c : Contrib) (cs : List Contrib), o.contribs = c :: cs →
    let f := ltOf c.word
    let V := (o.perform W).1
    let b := 2 * 2 ^ f.spat.toNat
    f.zD.toNat + 16 ≤ 96 → (o.groups.Pairwise fun g h => g.2.1 ≤ h.1) → (∀ g ∈ o.groups, g.2.1 ≤ 128) →
      (∀ side < 2, ∀ row < 128, ∀ col < 128,
        let key := tileKey side f.zD.toNat (512 * row + 4 * col)
        (∀ g ∈ o.groups, g.1 ≤ row → row < g.2.1 → Memory.read V.tile key 4 = toBytes 4 (((o.row W side row f c
            (W.bColumns side g.2.2 b (Fmt.ofEntry c.fb) (denseK (Fmt.ofEntry c.fa) (Fmt.ofEntry c.fb) * b / 2)))[col]?).elim 0 Prod.fst))
        ∧ ((∀ g ∈ o.groups, ¬(g.1 ≤ row ∧ row < g.2.1)) → Memory.read V.tile key 4 = Memory.read W.tile key 4))
      ∧ ∀ a, (∀ side < 2, ¬(tileKey side f.zD.toNat 0 ≤ a ∧ a < tileKey side f.zD.toNat 0 + 65536)) →
          Memory.byte V.tile a = Memory.byte W.tile a)

/-- R180, R247, R249, R265 to R267: a tile word whose slots exist issues, takes its place in tile-time order among the uses of its slots,
and is outstanding, TZERO, TLD and TST in tl; with no active lane it does nothing; a slot that does not exist, and scale bytes under
an entry that is no block entry, are the illegal-instruction fault. Its event does nothing while an earlier use holds a slot; then
TZERO clears data, scale bytes and poison of its slots and nothing else, TLD and TST move their lines one by one, TRD delivers its
units, with their poison, and the scale bytes of whole blocks, and TWR stores the units and scale bytes that it read at issue: a
register with P poisons its sector, sixteen lanes without P clear it, any other sector's poison stays. When
nothing of it is left it completes and its uses end. That a helper lane of TRD gets its value, and that a word's effect is an event
of its own in tile-time order, after the clk of its tile time, are the model's choices (log entry 17); so are the granules that
TST leaves undefined (log entry 47). -/
def Obligations.TileWords : Prop :=
  ∀ (s p : State) (G : Gang) (r : Run) (f : LT),
    let m := f.msel.toNat
    let x := mkIssue s s.cur G r (some m)
    let q := fun u => s.laneIn G r (some m) u p
    let count := f.aux.toNat / 16 % 64 + 1
    let regs := 2 ^ (f.fn.toNat % 8)
    let u0 := f.aux.toNat / 16 % 64
    let slots := (u0 + regs - 1) / 32 + 1
    let scales := decide (f.fn.toNat / 8 % 2 = 1)
    let F := G.fmt f.fmt.toNat
    let unit := fun (side : Nat) (z : BitVec 7) j l => tileKey side (z.toNat + (u0 + j) / 32) (128 * ((u0 + j) % 32) + 4 * l)
    let scale := fun (side : Nat) (z : BitVec 7) i j =>
      tileScKey side (z.toNat + (u0 + 2 * i) / 32) ((u0 + 2 * i) % 32 / 2) j
    let blocks := fun (H : Gang) => if scales then (List.range (2 * F.blkCount)).filter (wholeBlock F H (maskOf x.act)) else []
    let a : Src := ⟨false, .v, f.vA⟩
    let u : Use := { gated := true }
    let uR : Use := { dsts := [(⟨.v, f.vA⟩, regs)], gated := true }
    let uW : Use := { srcs := [(a, regs)], gated := true }
    let begun := fun (u : Use) => ({ q u with nextId := (q u).nextId + 1 } : State)
    let left := fun (i : Instr) (u : Use) (cls : Option Cnt) (write : Bool) (z : BitVec 7) (n : Nat) (k : Pend) =>
      exec i s = .next ((((begun u).modWg G.place.wg fun W =>
          W.hold k.id s.now G.place.qtr write (slotKeys G.place.side z.toNat n)).addPend s.cur k).laneIssued s.cur G r.serial)
        ∧ k.Begins (q u).nextId .tile cls r i ∧ k.todo = maskOf x.act ∧ k.results = []
    let performed := fun (k : Pend) (H : Gang) (g : Agent) (n : Nat) (v : State) => tileTry s.cur H g { k with todo := n } x.act v
    (∀ e ∈ ([(.tzero f, f.zD, count, u, true), (.tld f, f.zD, count, u, true), (.tst f, f.zB, count, u, true),
        (.trd f, f.zB, slots, uR, !scales || F.b), (.twr f, f.zD, slots, uW, !scales || F.b)] :
          List (Instr × BitVec 7 × Nat × Use × Bool)),
      s.LaneTurn G r e.1 (some m) e.2.2.2.1 p →
        ((e.2.2.2.2 = false ∨ (q e.2.2.2.1).tiles G < e.2.1.toNat + e.2.2.1) → exec e.1 s = .next (s.laneIllegal G r e.1))
        ∧ (e.2.2.2.2 = true → e.2.1.toNat + e.2.2.1 ≤ (q e.2.2.2.1).tiles G → x.act = [] →
            exec e.1 s = .next ((q e.2.2.2.1).laneIssued s.cur G r.serial)))
    ∧ (∀ (v : State) (g op : Nat) (H : Gang) (k : Pend) (W : Wg), v.ripe g op = some (H, k) → k.kind = .tile →
        v.wg? H.place.wg = some W →
        (W.slotWaits k.id v.now (tileUse H k).1 (tileUse H k).2 = true → exec (.tileWordComplete g op) v = .next v)
        ∧ (W.slotWaits k.id v.now (tileUse H k).1 (tileUse H k).2 = false → k.park = none → k.todo = 0 →
            exec (.tileWordComplete g op) v = .next ((v.complete g k).modWg H.place.wg fun W => W.release k.id)))
    ∧ (x.act ≠ [] →
      (s.LaneTurn G r (.tzero f) (some m) u p → f.zD.toNat + count ≤ (q u).tiles G → G.full .tl = false →
        ∃ k, left (.tzero f) u (some .tl) true f.zD count k
          ∧ ∀ (H : Gang) (g : Agent) (n : Nat) (v : State) (W : Wg), v.wg? H.place.wg = some W →
            let side := H.place.side
            let y := performed k H g n v
            y.faults = [] ∧ y.p.results = [] ∧ ∃ V, y.s = v.modWg H.place.wg (fun _ => V)
              ∧ V = { W with tile := V.tile, tileSc := V.tileSc, tileBad := V.tileBad }
              ∧ (∀ b, Memory.byte V.tile b = if tileKey side f.zD.toNat 0 ≤ b ∧ b < tileKey side f.zD.toNat 0 + 4096 * count then 0
                  else Memory.byte W.tile b)
              ∧ (∀ b, Memory.byte V.tileSc b = if tileScKey side f.zD.toNat 0 0 ≤ b ∧ b < tileScKey side f.zD.toNat 0 0 + 256 * count
                  then 0 else Memory.byte W.tileSc b)
              ∧ (∀ b, b ∈ V.tileBad ↔ b ∈ W.tileBad ∧ ¬(64 * (96 * side + f.zD.toNat) ≤ b ∧ b < 64 * (96 * side + f.zD.toNat + count))))
      ∧ ((G.spair f.sS.toNat).toNat % 256 = 0 → G.full .tl = false →
        let va := (G.spair f.sS.toNat).toNat
        let reads := fun (H : Gang) (g : Agent) (v : State) (i : Nat) =>
          ((match v.tileRead (clusterOf H.place.core) H.vnum (va + 256 * i) with
            | (v, .error e) => (v, .error e)
            | (v, .ok l) =>
              let v := if l.bad = 0 then v else v.uncorrectable (partOfVnum H.vnum) (v.lineStruct l) l.pa g
              let v := if l.scBad then v.uncorrectable (partOfVnum H.vnum) 11 l.pa g else v
              (v.modWg H.place.wg fun W => W.putLine H.place.side (f.zD.toNat + i / 16) (i % 16) l, .ok ())) :
            State × Except FaultInfo Unit)
        let writes := fun (H : Gang) (g : Agent) (V : Wg) (v : State) (i : Nat) =>
          let l := V.getLine H.place.side (f.zB.toNat + i / 16) (i % 16)
          ((match v.tileWrite (clusterOf H.place.core) H.vnum (va + 256 * i) l with
            | (v, some e) => (v, .error e)
            | (v, none) =>
              let v := v.spoilSpills s.cur H (va + 256 * i) 256
              (if l.bad = 0 then v else v.metTiles (partOfVnum H.vnum) g [H.place.side * 96 + f.zB.toNat + i / 16], .ok ())) : State × Except FaultInfo Unit)
        (∀ t, s.LaneTurn G r (.tld f) (some m) u p → f.zD.toNat + count ≤ (q u).tiles G →
          LanesOk (reads G (s.laneAgent G r.addr r.next)) (begun u) (List.range (16 * count)) t (fun _ => ()) →
          ∃ k, left (.tld f) u (some .tl) true f.zD count k ∧ ∀ (H : Gang) (g : Agent) (n : Nat) (v w : State),
            LanesOk (reads H g) v (List.range (16 * count)) w (fun _ => ()) →
              (performed k H g n v).s = w ∧ (performed k H g n v).faults = [])
        ∧ (∀ (t : State) (V : Wg), s.LaneTurn G r (.tst f) (some m) u p → f.zB.toNat + count ≤ (q u).tiles G →
          (begun u).wg? G.place.wg = some V →
          LanesOk (writes G (s.laneAgent G r.addr r.next) V) (begun u) (List.range (16 * count)) t (fun _ => ()) →
          ∃ k, left (.tst f) u (some .tl) false f.zB count k ∧ ∀ (H : Gang) (g : Agent) (n : Nat) (V : Wg) (v w : State),
            v.wg? H.place.wg = some V → LanesOk (writes H g V) v (List.range (16 * count)) w (fun _ => ()) →
              (performed k H g n v).s = w ∧ (performed k H g n v).faults = []))
      ∧ (s.LaneTurn G r (.trd f) (some m) uR p → f.zB.toNat + slots ≤ (q uR).tiles G → (scales = true → F.b = true) →
        ∃ k, left (.trd f) uR none false f.zB slots k
          ∧ k.dests = (List.range regs).map (fun j => G.phys (s.regsOf G) (f.vA.toNat + j))
          ∧ ∀ (H : Gang) (g : Agent) (n : Nat) (v : State) (W : Wg), v.wg? H.place.wg = some W →
            let side := H.place.side
            let bad := fun j l => W.tileBad.contains (unit side f.zB j l / 64)
            let y := performed k H g n v
            y.faults = []
            ∧ y.p.results = (x.act ++ H.helpers x.act).flatMap (fun l => (List.range regs).map fun j =>
                (l * 1024 + G.phys (s.regsOf G) (f.vA.toNat + j),
                  (⟨BitVec.ofNat 32 (ofBytes (Memory.read W.tile (unit side f.zB j l) 4)), bad j l, true⟩ : Cell)))
            ∧ y.p.scales = (List.range (regs / 2)).flatMap (fun i => (blocks H).map fun j =>
                (f.xD.toNat + i, j, Memory.byte W.tileSc (scale side f.zB i j)))
            ∧ y.s = v.metTiles (partOfVnum H.vnum) g ((List.range regs).filterMap fun j =>
                if x.act.any (bad j) then some (side * 96 + f.zB.toNat + (u0 + j) / 32) else none))
      ∧ (s.LaneTurn G r (.twr f) (some m) uW p → f.zD.toNat + slots ≤ (q uW).tiles G → (scales = true → F.b = true) →
        ∃ k, left (.twr f) uW none true f.zD slots k
          ∧ ∀ (H : Gang) (g : Agent) (n : Nat) (v : State) (W : Wg), v.wg? H.place.wg = some W →
            let side := H.place.side
            let y := performed k H g n v
            y.faults = [] ∧ ∃ V, y.s = v.modWg H.place.wg (fun _ => V)
              ∧ V = { W with tile := V.tile, tileSc := V.tileSc, tileBad := V.tileBad }
              ∧ (∀ j < regs, ∀ l ∈ x.act, Memory.read V.tile (unit side f.zD j l) 4 = toBytes 4 (x.cell l a j).val.toNat)
              ∧ (∀ b, (∀ j < regs, ∀ l ∈ x.act, b < unit side f.zD j l ∨ unit side f.zD j l + 4 ≤ b) →
                  Memory.byte V.tile b = Memory.byte W.tile b)
              ∧ (∀ j < regs, ∀ h ∈ [0, 16],
                  let sector := unit side f.zD j h / 64
                  let met := x.act.filter fun l => decide (h ≤ l ∧ l < h + 16)
                  ((∃ l ∈ met, (x.cell l a j).p = true) → sector ∈ V.tileBad)
                  ∧ ((∀ l ∈ met, (x.cell l a j).p = false) →
                    (W.tileBad.Pairwise (· < ·) → (∀ l, h ≤ l → l < h + 16 → l ∈ x.act) → sector ∉ V.tileBad)
                    ∧ ((∃ l, h ≤ l ∧ l < h + 16 ∧ l ∉ x.act) → (sector ∈ V.tileBad ↔ sector ∈ W.tileBad))))
              ∧ (∀ b, (∀ j < regs, ∀ h ∈ [0, 16], b ≠ unit side f.zD j h / 64) → (b ∈ V.tileBad ↔ b ∈ W.tileBad))
              ∧ (∀ i < regs / 2, ∀ j ∈ blocks G,
                  Memory.byte V.tileSc (scale side f.zD i j) = BitVec.ofNat 8 (G.lane.scaleByte (f.xA.toNat + i) j))
              ∧ (∀ b, (∀ i < regs / 2, ∀ j ∈ blocks G, b ≠ scale side f.zD i j) → Memory.byte V.tileSc b = Memory.byte W.tileSc b)))

/-- R113, R144, R268: LMMA leaves, in each lane of a group of g positions, the fused sums of its first len products, len being the
group's own, each product added with one rounding. R108, R109, R168: XRED leaves in every lane of a segment the exact sum, read once into the entry, or the largest magnitude of its
active lanes; the sum does not depend on the lanes' order. -/
def Obligations.ReductionsAndProducts : Prop :=
  (
  ∀ (s p : State) (G : Gang) (r : Run) (f : L3),
    let g := 4 * 2 ^ f.fn.toNat
    let d : Src := ⟨false, f.dst.file, f.dst.idx⟩
    let x := mkIssue s s.cur G r (some f.msel.toNat)
    let E := G.fmt f.fmt.toNat
    let u : Use := { srcs := [(f.a, g), (f.b, 1), (f.c, 1), (d, 1)], dsts := [(f.dst, 1)] }
    s.LaneTurn G r (.lmma f) (some f.msel.toNat) u p →
      (E.s32 = false → exec (.lmma f) s = .next (s.laneIllegal G r (.lmma f)))
      ∧ (E.s32 = true → ∃ (n : Nat → Nat) (acc : Nat → Nat → Nat) (out : Nat → LaneOut),
          exec (.lmma f) s = .next (s.vectorDone G r f.msel.toNat u p f.dst fun _ => out)
          ∧ ∀ l, n l = min (x.cell (g * (l / g)) f.c 0).val.toNat g
            ∧ acc l 0 = (x.cell l d 0).val.toNat
            ∧ (∀ k < n l, acc l (k + 1) = (E.round 0 f.sat 0 (Machine.Num.dot [(E.elem (x.cell l f.a k).val.toNat 0,
                E.elem (x.cell (g * (l / g) + k) f.b 0).val.toNat 0)] [E.elem (acc l k) 0] false)).code)
            ∧ (out l).vals = [⟨BitVec.ofNat 32 (acc l (n l)), (x.cell l d 0).p || (x.cell (g * (l / g)) f.c 0).p
                || (List.range (n l)).any (fun k => (x.cell l f.a k).p || (x.cell (g * (l / g) + k) f.b 0).p), true⟩]
            ∧ (out l).bits = [])
  ) ∧ (
  (∀ (s p : State) (G : Gang) (r : Run) (f : L3),
    let m := f.msel.toNat
    let x := mkIssue s s.cur G r (some m)
    let E := G.fmt f.fmt.toNat
    let z := 4 * 2 ^ (f.fn.toNat / 2 % 4)
    let u := srcUse [(f.a, false)] f.dst false
    s.LaneTurn G r (.xred f) (some m) u p → E.s32 = true →
      exec (.xred f) s = .next (s.vectorDone G r m u p f.dst fun _ l =>
        let lanes := x.act.filter fun k => decide (k / z = l / z)
        let vs := lanes.map fun k => E.elem (x.cell k f.a 0).val.toNat 0
        let pz := lanes.any fun k => (x.cell k f.a 0).p
        let o := if f.fn.toNat % 2 = 1 then E.round f.rnd.toNat f.sat 0 (vs.foldl Exact.add Exact.zero).value
          else ⟨(E.conv 0 false 0 (maxMagnitude vs)).code, {}⟩
        { vals := [⟨BitVec.ofNat 32 o.code, pz, true⟩], cond := if pz then {} else o.cond }))
  ∧ (∀ vs ws : List Machine.Num, vs.Perm ws → vs.foldl Exact.add Exact.zero = ws.foldl Exact.add Exact.zero)
  ∧ (∀ vs : List Machine.Num, (∃ v ∈ vs, v.isNan = true) → maxMagnitude vs = .nan)
  )
/-! ## The lane stream: sprues, query handles, runs -/

/-- R303 to R307: QPOST and QTAKE on a sprue that the gang's virtual device owns and that no other is bound to: the word binds its
side and is outstanding in pl. A post completes when its entries fit and appends them in lane order, the last marked where
the word says; a take completes when its entries are there, up to and with a marked one, and removes them. A sprue that is not the
virtual device's is a protection fault, one bound to another the illegal-instruction fault. The i-th entry taken goes to the i-th active
lane's pair with its poison; mask J gets the lanes that receive and K, where it is not 0, the lane of a marked entry. That QPOST captures
its entries as it issues, and that the binding is checked at issue and again at completion, are the model's choices (log entry 51). -/
def Obligations.SprueWords : Prop :=
  ∀ (s p : State) (G : Gang) (r : Run) (f : L3),
    let x := mkIssue s s.cur G r (some f.msel.toNat)
    let q := fun u => s.laneIn G r (some f.msel.toNat) u p
    let sid := f.aux.toNat % 256
    let part := partOfVnum G.vnum
    let me := Binder.gang s.cur G.place.wg
    (∀ e ∈ ([(.qpost f, { srcs := [(f.a, 1), (f.b, 1)], gated := true }, true),
        (.qtake f, { dsts := [(f.dst, 2)], mwr := takeMasksOf f, gated := true }, false)] : List (Instr × Use × Bool)),
      let v := (q e.2.1).freeProducer part sid
      let owner := fun (S : Sprue) => if e.2.2 then S.producer else S.consumer
      let bound := v.modSprue part sid fun S => if e.2.2 then { S with producer := some me } else { S with consumer := some me }
      s.LaneTurn G r e.1 (some f.msel.toNat) e.2.1 p →
        (x.act = [] → exec e.1 s = .next ((q e.2.1).laneIssued s.cur G r.serial))
        ∧ (x.act ≠ [] → sid ≤ 143 → SMap.find? sid ((q e.2.1).part part).sprues ≠ some G.vnum →
            exec e.1 s = .next (x.halt (plainFault 0x10 0 (if e.2.2 then 1 else 0) 7) (maskOf x.act) (q e.2.1)))
        ∧ (x.act ≠ [] → sid ≤ 143 → SMap.find? sid ((q e.2.1).part part).sprues = some G.vnum →
            (∀ b, owner (v.sprue part sid) = some b → b ≠ me → exec e.1 s = .next (s.laneIllegal G r e.1))
            ∧ ((owner (v.sprue part sid) = none ∨ owner (v.sprue part sid) = some me) → G.full .pl = false →
              ∃ k, exec e.1 s = .next ((({ bound with nextId := v.nextId + 1 } : State).addPend s.cur k).laneIssued s.cur G r.serial)
                ∧ k.Begins v.nextId .sprue (some .pl) r e.1
                ∧ (e.2.2 = true → ∀ l ∈ x.act, SMap.find? (2 * l) k.ops = some (x.cell l f.a 0)
                    ∧ SMap.find? (2 * l + 1) k.ops = some (x.cell l f.b 0))
                ∧ (e.2.2 = false → f.dst.file = .v → k.lanes = maskOf x.act
                    ∧ k.results = x.act.flatMap fun l => (List.range 2).map fun j =>
                      (l * 1024 + G.phys (s.regsOf G) (f.dst.idx.toNat + j), (⟨0, false, true⟩ : Cell))))))
    ∧ (∀ (k : Pend) (keys : Nat → List (Nat × Cell)) (es : List (Word × Word × Bool × Bool)),
        let lanes := setBits k.lanes
        let J := f.fn.toNat % 8
        let K := f.fn.toNat / 8
        let t := k.taken f es
        es.length ≤ lanes.length → k.results = lanes.flatMap keys →
        (∀ l, (keys l).length = 2 ∧ ∀ c ∈ keys l, c.1 / 1024 = l) →
          t = { k with results := t.results, masks := t.masks }
          ∧ t.results = (lanes.zip es).flatMap (fun le => (keys le.1).zipIdx.map fun cj =>
              (cj.1.1, (⟨if cj.2 = 0 then le.2.1 else le.2.2.1, le.2.2.2.2, true⟩ : Cell)))
          ∧ t.masks = (J, k.lanes, maskOf (lanes.take es.length)) ::
              if K = 0 then [] else [(K, k.lanes, maskOf (((lanes.zip es).filter fun le => le.2.2.2.1).map Prod.fst))])
    ∧ (∀ (v : State) (g op : Nat) (H : Gang) (k : Pend), v.gang? g = some H → v.pend? g op = some k → k.kind = .sprue → k.done = false →
        v.stopped (partOfVnum H.vnum) = false → v.wgStage H = some .running → H.firstOnSprue k sid = true →
        let S := v.sprue (partOfVnum H.vnum) sid
        let lanes := setBits k.lanes
        let cell := fun j => SMap.getD j ⟨0, false, true⟩ k.ops
        (k.word = .qpost f →
          (1024 < S.entries.length + lanes.length → exec (.sprueWordComplete g op) v = .next v)
          ∧ (S.entries.length + lanes.length ≤ 1024 →
            exec (.sprueWordComplete g op) v = .next ((v.modSprue (partOfVnum H.vnum) sid fun S => { S with
              entries := S.entries ++ lanes.zipIdx.map fun li => ((cell (2 * li.1)).val, (cell (2 * li.1 + 1)).val,
                f.fn.getLsbD 0 && decide (li.2 + 1 = lanes.length), (cell (2 * li.1)).p || (cell (2 * li.1 + 1)).p),
              producer := some (.gang g H.place.wg) }).complete g k)))
        ∧ (k.word = .qtake f → (S.consumer = none ∨ S.consumer = some (.gang g H.place.wg)) →
          ∀ t, ((∃ e, S.entries[t - 1]? = some e ∧ e.2.2.1 = true ∧ 0 < t ∧ t ≤ lanes.length
                ∧ ∀ j < t - 1, ∀ e, S.entries[j]? = some e → e.2.2.1 = false)
              ∨ (t = lanes.length ∧ t ≤ S.entries.length ∧ ∀ e ∈ S.entries.take t, e.2.2.1 = false)) →
            ∃ u, exec (.sprueWordComplete g op) v = .next ((u.freeProducer (partOfVnum H.vnum) sid).complete g (k.taken f (S.entries.take t)))
              ∧ u = v.modSprue (partOfVnum H.vnum) sid fun S =>
                { S with entries := S.entries.drop t, consumer := if anyMark (S.entries.take t) then none else some (.gang g H.place.wg) }))

/-- R416 to R421: PLQ opens a free handle and queues a chain on the cluster's posting-list engine, after the release of its
gang's writes; PLFUSE appends to the handle's fusion entries where they fit; PLNEXT takes the entries that are there, or what is left once the chain has
ended, with the masks of QTAKE; PLCLOSE leaves the chain's status in the active lanes once it has ended and frees the handle. A handle that is open, or none, is the
illegal-instruction fault as the word has it. -/
def Obligations.QueryHandleWords : Prop :=
  ∀ (s p : State) (G : Gang) (r : Run) (f : L3) (l : Nat) (ls : List Nat),
    let x := mkIssue s s.cur G r (some f.msel.toNat)
    let q := fun u => s.laneIn G r (some f.msel.toNat) u p
    let h := f.aux.toNat % 4
    x.act = l :: ls →
    ( let u : Use := { srcs := [(f.a, 2)], gated := true }
      let a := (x.word l f.a true).1
      let e := engineOf (clusterOf G.place.core) 2
      let v := (q u).release G 3
      s.LaneTurn G r (.plq f) (some f.msel.toNat) u p →
        (∀ H, G.handle? h = some H → exec (.plq f) s = .next (s.laneIllegal G r (.plq f)))
        ∧ (G.handle? h = none → a % 64 ≠ 0 → exec (.plq f) s = .next (x.halt (misaligned a 0 64) (2 ^ l) (q u)))
        ∧ (G.handle? h = none → a % 64 = 0 → inWindow a = false → (q u).engineFull e = false → G.releaseWaits = false →
            exec (.plq f) s = .next (((v.addChain e a G.sp.seed ⟨some G.vnum, some G.place.wg, some G.place.core, some s.cur, h, some h,
              none, partOfVnum G.vnum, clusterOf G.place.core⟩).setHandle s.cur h
                ⟨e, v.nextId, f.fn.getLsbD 0, [], [], false, none⟩).laneIssued s.cur G r.serial)))
    ∧ (let u : Use := { srcs := [(f.a, 1), (f.b, 1)], gated := true }
      s.LaneTurn G r (.plfuse f) (some f.msel.toNat) u p →
        (G.handle? h = none → exec (.plfuse f) s = .next (s.laneIllegal G r (.plfuse f)))
        ∧ (∀ H, G.handle? h = some H → H.fusion.length + x.act.length ≤ 256 →
            exec (.plfuse f) s = .next (((q u).setHandle s.cur h { H with fusion := H.fusion ++ x.act.zipIdx.map fun li =>
              ((x.cell li.1 f.a 0).val, (x.cell li.1 f.b 0).val, f.fn.getLsbD 0 && decide (li.2 + 1 = x.act.length),
                (x.cell li.1 f.a 0).p || (x.cell li.1 f.b 0).p) }).laneIssued s.cur G r.serial)))
    ∧ (let u : Use := { dsts := [(f.dst, 2)], mwr := takeMasksOf f, gated := true }
      s.LaneTurn G r (.plnext f) (some f.msel.toNat) u p →
        (G.handle? h = none → exec (.plnext f) s = .next (s.laneIllegal G r (.plnext f)))
        ∧ (∀ H, G.handle? h = some H → ∀ t,
          ((H.output.take t).length = t) →
          ((t = x.act.length ∧ anyMark (H.output.take t) = false)
            ∨ (0 < t ∧ t ≤ x.act.length ∧ anyMark (H.output.take t) = true ∧ anyMark (H.output.take (t - 1)) = false)
            ∨ (t = H.output.length ∧ t < x.act.length ∧ anyMark H.output = false ∧ H.status ≠ none)) →
          ∃ k, exec (.plnext f) s = .next (({ (q u).setHandle s.cur h { H with output := H.output.drop t } with
                nextId := (q u).nextId + 1 } : State).addPend s.cur k |>.laneIssued s.cur G r.serial)
            ∧ k.kind = .sprue ∧ k.cls = none ∧ k.id = (q u).nextId
            ∧ (∀ (j lj : Nat) (e : Word × Word × Bool × Bool), x.act[j]? = some lj → (H.output.take t)[j]? = some e →
                (lj * 1024 + G.phys (s.regsOf G) f.dst.idx.toNat, (⟨e.1, e.2.2.2, true⟩ : Cell)) ∈ k.results
                ∧ (lj * 1024 + G.phys (s.regsOf G) (f.dst.idx.toNat + 1), (⟨e.2.1, e.2.2.2, true⟩ : Cell)) ∈ k.results)
            ∧ k.masks = (f.fn.toNat % 8, maskOf x.act, maskOf (x.act.take t)) :: if f.fn.toNat / 8 = 0 then []
                else [(f.fn.toNat / 8, maskOf x.act, maskOf (((x.act.zip (H.output.take t)).filter fun le => le.2.2.2.1).map Prod.fst))]))
    ∧ (let u : Use := { dsts := [(f.dst, 1)], gated := true }
      s.LaneTurn G r (.plclose f) (some f.msel.toNat) u p →
        (G.handle? h = none → exec (.plclose f) s = .next (s.laneIllegal G r (.plclose f)))
        ∧ (∀ H st, G.handle? h = some H → H.status = some st →
            (∀ k ∈ G.pend, ∀ n, k.word = .plnext n → n.aux.toNat % 4 ≠ h) →
            exec (.plclose f) s = .next ((({ x with help := [] } : Issue).finish f.dst (fun _ => { vals := if f.dst.file = .special then [] else [⟨st, false, true⟩] })
              (((q u).acquire G 3).modGang s.cur fun H => { H with eng := { H.eng with handles := SMap.erase h H.eng.handles } })
              ).laneIssued s.cur G r.serial)))

/-- R70, R71, R172, R174, R175: LNOP only issues; ENDRUN, once its run's words have issued, names the main registers that may
complete after the run, and a name beyond the allocation is the illegal-instruction fault; the oldest run retires when
nothing else of it is outstanding, its TRD and TWR words among the rest, which discards the helper shadow and the last-result file. -/
def Obligations.RunWords : Prop :=
  ∀ (s p : State) (G : Gang) (r : Run),
    (s.LaneTurn G r .lnop none {} p → exec .lnop s = .next ((s.laneIn G r none {} p).laneIssued s.cur G r.serial))
    ∧ (∀ f : LE, s.gang? s.cur = some G → G.runs.head? = some r → s.laneReady G r = true → (Instr.endrun f).wf = true → r.len ≤ r.next →
        let named := [f.d0, f.d1, f.d2, f.d3].take f.count.toNat
        ((∀ d ∈ named, d.idx.toNat < G.limit (s.regsOf G)) → exec (.endrun f) s = .next (s.modGang s.cur fun H =>
          { H with runs := H.runs.map fun y => if y.serial = r.serial then
              { y with ended := some (named.map fun d => G.phys (s.regsOf G) d.idx.toNat) } else y }))
        ∧ ((∃ d ∈ named, G.limit (s.regsOf G) ≤ d.idx.toNat) → exec (.endrun f) s = .next (s.illegalLane G r.addr r.next
            (laneWord.wordsNat (encode (.endrun f))))))
    ∧ (∀ (g : Nat) (H : Gang) (names : List Nat), s.gang? g = some H → H.runs.head? = some r → s.stopped (partOfVnum H.vnum) = false →
        s.wgStage H = some .running → r.len ≤ r.next → r.ended = some names →
        ((∀ k ∈ H.pend, k.run = some r.serial → k.masks = [] ∧ (∀ d ∈ k.dests, d ∈ names) ∧ ¬(k.kind = .tile ∧ k.cls = none)) →
          exec (.runRetire g) s = .next (s.putGang g { H with
            lane := { H.lane with shadow := [], regs := SMap.keep (fun key _ => decide (key % 1024 < 512)) H.lane.regs },
            runs := H.runs.filter (fun y => decide (y.serial ≠ r.serial)),
            pend := H.pend.map fun k => if k.run = some r.serial then { k with run := none } else k }))
        ∧ ((∃ k ∈ H.pend, k.run = some r.serial ∧ (k.masks ≠ [] ∨ (∃ d ∈ k.dests, d ∉ names) ∨ (k.kind = .tile ∧ k.cls = none))) →
          exec (.runRetire g) s = .next s))

/-- R34, R159, R203, R207, R232, R236, R237, R249, R309, R310, R321: an event of an outstanding operation that is neither parked nor
complete performs, of a memory or tile word, lanes that are left, once the gang's earlier accesses to a byte in common are performed
and, of a tile word, no earlier use holds its slots; which lanes is open where the word gives them no order. When none is left it
completes: it delivers its registers; its counter falls once every older operation of its class has completed; a memory word
that acquires then takes the acquire's effect. A completion of another kind changes nothing. -/
def Obligations.Completions : Prop :=
  ∀ (s : State) (g op : Nat) (G : Gang) (k : Pend), s.gang? g = some G → s.pend? g op = some k → k.done = false → k.park = none →
    (s.part (partOfVnum G.vnum)).halted = false →
    (∀ e ∈ ([(.loadComplete g op, .load), (.storePerformed g op, .store), (.sfuResultComplete g op, .sfu),
        (.marverWordComplete g op, .marver), (.patternEntryLoaded g op, .xldp), (.tileWordComplete g op, .tile)] :
        List (Instr × PendKind)),
      (k.kind ≠ e.2 → exec e.1 s = .next s)
      ∧ (k.kind = e.2 → e.2 ≠ .tile → (e.2 ∈ [.load, .store] → k.todo = 0) → memoryFields k.word = none → exec e.1 s = .next (s.complete g k)))
    ∧ (∀ e ∈ ([(.loadComplete g op, .load), (.storePerformed g op, .store)] : List (Instr × PendKind)), ∀ f,
        k.kind = e.2 → k.todo = 0 → memoryFields k.word = some f →
        exec e.1 s = .next (if f.order.toNat % 2 = 1 then (s.complete g k).acquire G (lmScope f k (setBits k.lanes)) else s.complete g k))
    ∧ (∀ e ∈ ([(.loadComplete g op, .load, wordTry g G), (.storePerformed g op, .store, wordTry g G),
        (.tileWordComplete g op, .tile, tileTry g G)] : List (Instr × PendKind × (Agent → Pend → List Nat → State → Try))),
        k.kind = e.2.1 → k.todo ≠ 0 →
        let busy := s.comesAfter G (G.pend.takeWhile fun y => decide (y.id ≠ op)) (k.reach (setBits k.todo))
        let held := decide (e.2.1 = .tile) && (s.wg? G.place.wg).any fun W => W.slotWaits k.id s.now (tileUse G k).1 (tileUse G k).2
        let now := s.lanesNow G k
        let left := maskOf ((setBits k.todo).filter fun l => !now.testBit l)
        let y := e.2.2 (s.laneAgent G k.runAddr k.widx) k (setBits now) (s.begin k)
        let q := { y.p with todo := left }
        let u := ({ y.s with held := [] } : State).modGang g fun H => H.putPend q
        (∀ l, now.testBit l = true → k.todo.testBit l = true) ∧ (s.anyOrder G k = false → now = k.todo)
        ∧ (busy = true ∨ held = true → exec e.1 s = .next s)
        ∧ (busy = false → held = false → y.faults = [] → left ≠ 0 → exec e.1 s = .next u)
        ∧ (busy = false → held = false → y.faults = [] → left = 0 →
            exec e.1 s = .next (if e.2.1 = .tile then (u.complete g q).modWg G.place.wg fun W => W.release k.id else (u.complete g q).acquireOf G q)))
    ∧ (k.conds = [] →
        let t := s.complete g k
        t.mem = s.mem ∧ (∀ j, j ≠ g → t.gang? j = s.gang? j)
        ∧ ((t.gang? g).map Gang.s = some G.s ∧ (t.gang? g).map Gang.pc = some G.pc)
        ∧ ((t.gang? g).map Gang.pend = some (match k.cls with
            | none => G.pend.filter fun y => decide (y.id ≠ k.id)
            | some c => settlePends c (G.pend.map fun y => if y.id = k.id then y.finished else y)))
        ∧ (∀ j L m, k.masks = [(j, L, m)] → j ≠ 0 → j < 8 →
            (t.gang? g).map (fun H => H.mreg j) = some (BitVec.ofNat 32 (maskOf ((List.range 32).filter fun l =>
              if L.testBit l then m.testBit l else (G.mreg j).getLsbD l))))
        ∧ (∀ l reg v, k.results = [(l * 1024 + reg, v)] → reg < 1024 → k.lanes.testBit l = true →
            (t.gang? g).bind (fun H => SMap.find? (l * 1024 + reg) H.lane.regs) = some { v with live := true }))
    ∧ (∀ (c : Cnt) (ys : List Pend),
        (∀ y ∈ settlePends c ys, y ∈ ys) ∧ (∀ y ∈ ys, y.cls ≠ some c → y ∈ settlePends c ys)
        ∧ (∀ y rest, ys.filter (fun y => decide (y.cls = some c)) = y :: rest → y.done = false →
            (settlePends c ys).filter (fun y => decide (y.cls = some c)) = y :: rest)
        ∧ ((∀ y ∈ ys, y.cls = some c → y.done = true) → ∀ y ∈ settlePends c ys, y.cls ≠ some c))
/-! ## Engines -/

/-- R273 to R279, R284, R323: a chain's engine fetches its next block, finds a malformed header, applies the block's test and goes on,
waits, or follows a link; a signal adds to or sets its word and the chain goes on to its next block; a chain that has ended
leaves its status with the gang that started it and leaves its engine. R276, R298 to R300: a waiter that is retested or polls: an engine's chains that wait in a test are fetched again; a gang in
SEMWAIT whose test now holds acquires and goes on at its next word, and one whose test fails still waits. That the whole header is checked
when the block is fetched, before its test, is the model's choice (log entry 49). -/
def Obligations.EngineChainsAndWaiters : Prop :=
  (
  (∀ (s : State) (e : Nat) (c : Chain), s.Holds e c →
    (c.stage = .fetch → ∀ t bs b, s.chainRead e c c.block 64 = (t, .ok (bs, b)) →
      let ws := words64 bs
      let w := fun i => ws.getD i 0
      let go := fun (u : State) (f : Chain → Chain) => u.modChain e c.id fun c => f { c with words := ws, prog := 0, park := none }
      (∀ d, headerBad (engKind e) ws = some d → exec (.commandBlockFetch e) s = .next (t.malformed e c c.block d))
      ∧ (headerBad (engKind e) ws = none → w 0 / 2 ^ 53 % 8 = 0 →
          exec (.commandBlockFetch e) s = .next (go t fun c => { c with stage := .perform }))
      ∧ (headerBad (engKind e) ws = none → w 0 / 2 ^ 53 % 8 ≠ 0 →
          ∀ u v q, t.chainRead e c (w 2 / 8 % 2 ^ 54 * 8) 8 = (u, .ok (v, q)) →
          let word := ofBytes v
          let cmp := w 0 % 2 ^ 32
          let test := w 0 / 2 ^ 53 % 8
          let holds := if test = 1 then cmp ≤ word else if test = 2 then word = cmp else word ≠ cmp
          (holds → exec (.commandBlockFetch e) s = .next ((go u fun c => { c with stage := .perform }).testAcquire e))
          ∧ (¬holds → w 0 / 2 ^ 51 % 4 = 0 → exec (.commandBlockFetch e) s = .next ((go u id).setAside e c))
          ∧ (¬holds → w 0 / 2 ^ 51 % 4 = 1 → exec (.commandBlockFetch e) s = .next (go u fun c =>
              if w 1 % 2 ^ 32 = 0 then { c with stage := .ending, flags := c.flags ||| 2 ^ 30 }
              else { c with stage := .fetch, block := linkTo c.block (w 1 % 2 ^ 32) }))
          ∧ (¬holds → w 0 / 2 ^ 51 % 4 = 2 → exec (.commandBlockFetch e) s = .next (go u Chain.advance))))
    ∧ (c.stage = .signal →
      let w := fun i => c.words.getD i 0
      let add := decide (w 0 / 2 ^ 49 % 4 = 1)
      ∀ t (y : Xlat), s.chainXlat e c (if add then .rmw else .write) true (w 3 / 8 % 2 ^ 54 * 8) = (t, .ok y) →
        let v := w 0 / 2 ^ 32 % 2 ^ 12
        let a := t.homeAtomic (chainReq e c) y.pa 8
        let on := fun (u : State) => u.modChain e c.id fun c => Chain.advance { c with park := none }
        (add = true → a.2 = false → a.1.extentBad y.pa 8 = false → exec (.commandBlockSignal e) s =
          .next (on (a.1.putAtomic (chainReq e c) false y.pa (toBytes 8 ((a.1.read64 y.pa + v) % 2 ^ 64)) false)))
        ∧ (add = false → exec (.commandBlockSignal e) s = .next (on (t.homeWrite (chainReq e c) y.pa (toBytes 8 v) false))))
    ∧ (c.stage = .ending → c.owner.record = none → ∀ g G, c.owner.gang = some g → s.gang? g = some G → c.owner.query = none →
        G.eng.chains ≤ c.owner.handle + 64 →
        ∃ t H, exec (.chainEnd e) s = .next t ∧ t.chain? e c.id = none ∧ t.gang? g = some H
          ∧ SMap.find? c.owner.handle H.eng.status = some (BitVec.ofNat 32 (c.flags ||| c.perf))))
  ∧ (∀ c : Chain,
      let next := c.words.getD 1 0 / 2 ^ 32 % 2 ^ 32
      c.advance = if next = 0 then { c with stage := .ending }
        else { c with stage := .fetch, words := [],
                      block := (((c.block : Int) + 64 * (BitVec.ofNat 32 next).toInt) % 2 ^ 57).toNat })
  ∧ (∀ (kind : Nat) (ws : List Nat),
      let w := fun i hi lo => ws.getD i 0 / 2 ^ lo % 2 ^ (hi - lo + 1)
      (headerBad kind ws = none ↔
        w 0 63 60 = kind ∧ w 0 55 53 ≤ 3 ∧ w 0 52 51 ≠ 3 ∧ w 0 50 49 ≠ 3 ∧ w 0 48 48 = 0
        ∧ (w 0 50 49 = 0 → ¬(kind = 3 ∧ w 0 59 56 = 4) → w 0 43 32 = 0)
        ∧ w 2 63 57 = 0 ∧ w 2 2 0 = 0 ∧ (w 0 55 53 = 0 → w 2 56 3 = 0)
        ∧ w 3 63 57 = 0 ∧ w 3 2 0 = 0 ∧ (w 0 50 49 = 0 → w 3 56 3 = 0)))
  ) ∧ (
  (∀ (s : State) (e : Nat), ∀ i ∈ [Instr.commandBlockTestPoll e, .semaphoreWaiterRetest (.engine e), .semaphorePoll (.engine e)],
    ∃ t, exec i s = .next t ∧ (t.engine e).chains = (s.engine e).chains.map fun c =>
      if c.stage = .testing ∧ s.stopped c.owner.part = false then { c with stage := .fetch } else c)
  ∧ (∀ (s u : State) (g : Nat) (G : Gang) (va cmp test scope pa : Nat), s.gang? g = some G → G.wait = .semaphore va cmp test scope →
    s.stopped (partOfVnum G.vnum) = false → s.wgStage G = some .running →
    s.atHome G.place.core G.vnum .read true va = (u, .ok pa) →
    let h := u.homeRead G.req pa 8 true
    h.2.2 = false →
    let sem := ofBytes h.2.1
    let holds := if test = 0 then cmp ≤ sem else if test = 1 then sem = cmp else sem ≠ cmp
    ∀ i ∈ [Instr.semaphoreWaiterRetest (.gang g), .semaphorePoll (.gang g)],
      (holds → exec i s = .next ((h.1.acquire G scope).putGang g { G.next with wait := .none }))
      ∧ (¬holds → exec i s = .next (h.1.putGang g G)))
  )

/-- R249, R278, R285 to R289, R292, R294, R445: a Ladle that stands at a legal block accepts it; a piece of its output, once the
earlier uses of its tile slots are over, begins when it is paid for; each destination line comes from its source lines, copied, converted or
gathered, and the block counts as performed once every line is written. A piece waits for the clk that the grant in progress asked for. A
malformed body is the command-block fault; a gather's list is checked whole at acceptance and names its DETAIL by the SRC field. That
check, how poison and tags go with copies, and which lines a skipped row counts are the model's choices (log entries 50 and 90). -/
def Obligations.LadleBlocks : Prop :=
  (∀ (s : State) (e : Nat) (c : Chain), e < 216 → s.Holds e c →
    let b := ladleBody c.words
    let moved := fun (u : State) (causes : Nat) => u.modChain e c.id fun y => { y with
      prog := c.prog + 1, park := none, causes := y.causes ||| causes,
      paid := decide ((c.prog + 1) % 16 ≠ 0) || decide (b.units ≤ c.prog + 1) }
    (∀ i ∈ ([(.ladleNop e, 0), (.copy e, 1), (.quant e, 2), (.dequant e, 3), (.rescale e, 4), (.transpose e, 5), (.gather e, 6)] :
        List (Instr × Nat)), b.op = i.2 →
      (c.stage = .perform → ∀ d, s.ladleBad c = some d → exec i.1 s = .next (s.malformed e c c.block d))
      ∧ (c.stage = .perform → s.ladleBad c = none → i.2 ≠ 6 → c.owner.wg = none →
          exec i.1 s = .next (s.modChain e c.id fun c =>
            { c with stage := .working, prog := 0, accept := s.now, park := none, undef := overlaps b [], paid := decide (b.units = 0),
                     flags := if b.dsp = 2 then c.flags ||| 2 ^ 32 else c.flags }))
      ∧ (c.stage = .working → b.units ≤ c.prog → c.owner.wg = none → c.causes = 0 →
          exec i.1 s = .next (s.modChain e c.id Chain.performed))
      ∧ (c.stage = .working → c.prog < b.units → s.ladleWaits c = true → exec i.1 s = .next s)
      ∧ (c.stage = .working → c.prog < b.units → s.ladleWaits c = false → c.paid = false →
          let over' := ∀ g, (s.engine e).grant = some g → g.ends ≤ s.now
          let begun := fun (lent : Bool) => (s.modEngine e fun E => { E with grant := some ⟨c.holder, s.now + c.pieceClocks, lent, 0, 0⟩ }).modChain
            e c.id fun c => { c with paid := true }
          (¬over' → exec i.1 s = .next s)
          ∧ (over' → s.hasTime e c = true → exec i.1 s = .next ((begun false).ladleLine e c))
          ∧ (over' → s.hasTime e c = false → s.turnsTo e c = none →
            (s.mayBegin e c = true → exec i.1 s = .next ((begun true).ladleLine e c)) ∧ (s.mayBegin e c = false → exec i.1 s = .next s)))
      ∧ (c.stage = .working → c.prog < b.units → s.ladleWaits c = false → c.paid = true → i.2 ≠ 0 → i.2 ≠ 6 → c.undef = false →
          let row := c.prog / b.dstLines
          let k := c.prog % b.dstLines
          let addrs := (b.sources row k 0).2
          ∀ (t u : State) (ls : List PathLine), s.ladleReads e c b.ssp addrs = (t, .ok ls) →
          let l := ls.headD ⟨0, [], [], 0, false⟩
          let w : LineWork := if 2 ≤ i.2 ∧ i.2 ≤ 4 then convertLine b c row k ls else if i.2 = 5 then transposeLine b row ls
            else ⟨⟨l.bytes, (List.range (if b.dsp = 0 ∧ 1 < b.ssp then 16 else 17)).map fun j => (j, l.scales.getD j 0), l.bad, some l.scBad⟩,
              [(decide (l.bad ≠ 0), l.scBad)], 0⟩
          let met := ((addrs.zip ls).zip w.met).foldl (fun v x => v.ladlePoison e c b.ssp x.1.1 x.1.2 x.2.1 x.2.2) t
          met.ladleWrite e c b.dsp (b.dst + 256 * row * b.dstr + 256 * k) w.out = (u, none) →
            exec i.1 s = .next (moved u w.causes)))
    ∧ (b.op = 6 → c.stage = .perform → s.ladleBad c = none → c.owner.wg = none → ∀ t xs, s.gatherList e c b.rows 0 = (t, .ok xs) →
        ((∃ x ∈ xs, x / 2 ^ 57 % 128 ≠ 0 ∨ x / 2 % 128 ≠ 0) → exec (.gather e) s = .next (t.malformed e c c.block 256))
        ∧ ((∀ x ∈ xs, x / 2 ^ 57 % 128 = 0 ∧ x / 2 % 128 = 0) → exec (.gather e) s = .next (t.modChain e c.id fun c =>
            { c with stage := .working, prog := 0, accept := t.now, park := none, undef := overlaps b xs, paid := decide (b.units = 0),
                     flags := if b.dsp = 2 then c.flags ||| 2 ^ 32 else c.flags })))
    ∧ (b.op = 6 → c.stage = .working → c.prog < b.units → s.ladleWaits c = false → c.paid = true → c.undef = false →
        ∀ t x, s.gatherEntry e c (c.prog / b.dstLines) = (t, .ok x) →
        (x % 2 = 1 → exec (.gather e) s = .next (moved t 0))
        ∧ (x % 2 = 0 → ∀ (u v : State) (l : PathLine),
            let a := x / 2 ^ 8 % 2 ^ 49 * 256 + 256 * (c.prog % b.dstLines)
            t.ladleRead e c 0 a = (u, .ok l) →
            (u.ladlePoison e c 0 a l (decide (l.bad ≠ 0)) l.scBad).ladleWrite e c b.dsp
              (b.dst + 256 * (c.prog / b.dstLines) * b.dstr + 256 * (c.prog % b.dstLines))
              ⟨l.bytes, (List.range 17).map fun j => (j, l.scales.getD j 0), l.bad, some l.scBad⟩ = (v, none) →
            exec (.gather e) s = .next (moved v 0))))
  ∧ (∀ (F : Fmt) (rnd : Nat) (rb : Nat → Nat) (old : Nat → Option (Nat × Nat)) (vs : List Machine.Num) (m : Nat) (v : Machine.Num), vs[m]? = some v →
      (F.b = false → (encodeLine F rnd rb old vs).1[m]? = some (F.round rnd false (rb m) (v, false)) ∧ (encodeLine F rnd rb old vs).2 = [])
      ∧ (F.b = true → 0 < F.blockLen → F.blockLen ∣ vs.length →
          let sc := chooseScale F ((vs.drop (F.blockLen * (m / F.blockLen))).take F.blockLen)
          (m / F.blockLen, BitVec.ofNat 8 sc) ∈ (encodeLine F rnd rb old vs).2
          ∧ (old m = none → (encodeLine F rnd rb old vs).1[m]? = some (F.round rnd false (rb m)
              (if sc = 0xFF then .nan else v.scale2 (127 - (sc : Int)), false)))
          ∧ (∀ x, old m = some (x, sc) → (encodeLine F rnd rb old vs).1[m]? = some ⟨x, {}⟩)))

/-- R395 to R400, R408, R410, R414, R445: a posting-list engine performs a NOP block at once, accepts a legal query with a legal
descriptor, passes its traversal on event by event, each posting block once its time is granted, emits its kept entries in order to the sprue, the handle or memory, and has
performed the block after the last; a time budget that is over ends the traversal. R401 to R407, R409: the traversal reads the skip
entries, then the posting blocks of the lists that are not over, leaves blocks that lie below the next document, scores the lowest document
that a block holds, under PRUNE reads no block of a region whose bound is not above the worst kept score and passes it over, and with fusion
input drops, ranks or awaits the head of its stream. The events of a query as steps of their own, and the fields that a bad structure
names, are the model's choices (log entry 52), and so is which documents of a region
that is passed over a fusion entry still ranks (log entry 84) and how the engine's time is granted (43). -/
def Obligations.QueryBlocks : Prop :=
  (∀ (s : State) (e : Nat) (c : Chain), 216 ≤ e → e < 324 → s.Holds e c →
    let op := c.words.getD 0 0 / 2 ^ 56 % 16
    let begun := fun (v : State) (n : Nat) (p : State) => (c.paid = true ∧ p = v) ∨
      (c.paid = false ∧ (∀ g, (v.engine e).grant = some g → g.ends ≤ v.now) ∧ v.hasTime e c = true ∧
        p = ((v.modEngine e fun E => { E with grant := some ⟨c.holder, v.now + n, false, 0, 0⟩ }).modChain e c.id fun c => { c with paid := true }))
    (c.stage = .perform → op = 0 → s.queryBad c = none →
      exec (.pleNop e) s = .next (s.modChain e c.id fun c => Chain.performed { c with park := none }))
    ∧ (c.stage = .perform → op = 1 → (∀ d, s.queryBad c = some d → exec (.query e) s = .next (s.malformed e c c.block d))
        ∧ (s.queryBad c = none → ∀ t bs q,
            (s.modChain e c.id fun y => { y with accept := if c.park = none then s.now else c.accept }).streamRead e c (descriptorAddr c) 816
              = (t, .ok (bs, q)) →
            descriptorBad (words64 bs) c.owner.query.isSome = none →
            exec (.query e) s = .next (t.modChain e c.id fun c => { c with
              stage := .working, prog := 0, stopped := false, park := none,
              trav := some ⟨words64 bs, 0, [], [], none, false, none, false, q⟩, paid := false })))
    ∧ (c.stage = .working → op = 1 → ∀ t, c.trav = some t →
        ∀ p, begun s (if t.cursors = [] then 48 else 0) p → exec (.query e) s = .next (p.stepQuery e c t))
    ∧ (c.stage = .emitting → c.out = [] → exec (.pleEmitEntry e) s = .next (s.modChain e c.id Chain.performed))
    ∧ (c.stage = .emitting → ∀ x xs, c.out = x :: xs →
        let sent := fun (v : State) => v.modChain e c.id fun c => { c with out := c.out.drop 1, sent := c.sent + 1, park := none, paid := false }
        (omode c = 0 → let v := s.freeProducer c.owner.part (chainSprue c)
          let P := (v.sprue c.owner.part (chainSprue c)).producer
          ((P = none ∨ P = some (.chain e c.id)) → ∀ p, begun v 1 p → exec (.pleEmitEntry e) s =
            .next (sent (p.modSprue c.owner.part (chainSprue c) fun S => { S with entries := S.entries ++ [x], producer := some (.chain e c.id) })))
          ∧ (∀ B, P = some B → B ≠ .chain e c.id → exec (.pleEmitEntry e) s = .next (v.malformed e c c.block 360)))
        ∧ (omode c = 1 → ∀ g h H, c.owner.gang = some g → c.owner.query = some h → s.handleOf c = some H →
            ∀ p, begun s 1 p →
            exec (.pleEmitEntry e) s = .next (sent (if H.closing then p else p.setHandle g h { H with output := H.output ++ [x] })))
        ∧ (1 < omode c → ∀ p, begun s 1 p → ∀ t y, p.chainXlat e c .write false (outputAddr c + 8 * c.sent) = (t, .ok y) →
            let bs := toBytes 4 x.1.toNat ++ toBytes 4 x.2.1.toNat
            exec (.pleEmitEntry e) s = .next (sent ((t.homeWrite (chainReq e c) y.pa bs x.2.2.2).seenByStream (e - 216) y.pa bs x.2.2.2)))))
  ∧ (∀ (s : State) (e : Nat), ∃ t, exec (.pleTimeBudgetExpiry e) s = .next t
      ∧ (t.engine e).chains = (s.engine e).chains.map fun c =>
        if c.stage = .working ∧ (s.handleOf c).any (fun h => h.budget) = true ∧ timeBudget c ≠ 0
            ∧ c.accept + 1024 * timeBudget c ≤ s.now ∧ s.stopped c.owner.part = false then { c with stopped := true } else c)
  ∧ (∀ (s : State) (e : Nat) (c : Chain) (t : Traversal), t.done = false → c.expired = false →
    let w := fun i => t.desc.getD i 0
    let cur := fun i => SMap.getD i ⟨0, 0, none, none⟩ t.cursors
    let live := (List.range (w 0 % 32)).filter fun i => decide ((cur i).blk < w (10 + 4 * i) % 2 ^ 32)
    let last := fun i => ((cur i).skip.getD (0, 0)).1
    let put := fun i k => { t with cursors := SMap.put i k t.cursors }
    let block := fun i => w (8 + 4 * i) % 2 ^ 57 + 256 * (cur i).blk
    let set := fun (u : State) (y : Traversal) => u.modChain e c.id fun c => { c with trav := some y, park := none }
    let note := fun (u : State) f cs => u.modChain e c.id fun c => { c with flags := c.flags ||| f, causes := c.causes ||| cs }
    let prune := (w 0).testBit 19
    let passedBy := fun i => decide (last i < t.next)
    let unread := fun i => (cur i).docs.isNone
    let least := fun (ds : List Nat) (d : Nat) => d ∈ ds ∧ ∀ x ∈ ds, d ≤ x
    let held := live.flatMap fun i => (((cur i).docs.getD []).map Prod.fst).filter fun d => decide (t.next ≤ d)
    let past := prune = true ∧ live ≠ [] ∧ t.bound.v.isNan = false ∧ (t.theta (keepCount c)).lt t.bound.v = false
    let s' := if prune then note s 0 t.bound.causes else s
    let sorted := ∀ i ∈ live, ((cur i).docs.getD []).Pairwise fun a b => a.1 < b.1
    let alone := w 0 / 2 ^ 16 % 4 ≠ 2 ∨ t.fdone = true
    let ended := { t with done := true, need := none }
    (∀ i, live.find? (fun i => (cur i).skip.isNone) = some i → ∀ u bs p, s.streamRead e c (w (9 + 4 * i) % 2 ^ 57 + 8 * (cur i).blk) 8 = (u, .ok (bs, p)) →
      s.stepQuery e c t = set u { put i { cur i with skip := some (ofBytes bs % 2 ^ 32, ofBytes bs / 2 ^ 32) } with bad := t.bad || p })
    ∧ ((∀ i ∈ live, (cur i).skip ≠ none) →
      (∀ i, live.find? passedBy = some i → (prune = true ∨ ∀ i ∈ live, unread i = false) →
        s.stepQuery e c t = (note (set s { put i ⟨(cur i).blk + 1, last i + 1, none, none⟩ with done := c.stopped })
            ((if unread i then 2 ^ 24 else 0) ||| (if c.stopped then 2 ^ 27 else 0)) 0).modChain e c.id fun c =>
              { c with prog := if unread i then c.prog else c.prog + 1, paid := c.paid && unread i })
      ∧ (∀ i, (if prune then live.find? passedBy = none ∧ ¬past ∧ (live.filter fun i => decide ((cur i).lo ≤ t.next) && decide (t.next ≤ last i)).find? unread = some i
            else live.find? unread = some i) →
          ∀ u bs p, s'.streamRead e c (block i) 256 = (u, .ok (bs, p)) →
          (∀ b, postingBad bs (last i) (cur i).lo = some b → s.stepQuery e c t = u.malformed e c (block i) b)
          ∧ (postingBad bs (last i) (cur i).lo = none → s.stepQuery e c t = note (set (u.occupy e Grant.block)
              { put i { cur i with docs := some (postings bs) } with bad := t.bad || p })
              (if (postings bs).any fun x => decide (x.1 < t.next) then 2 ^ 24 else 0) 0))
      ∧ (live.find? passedBy = none → alone → sorted → prune = false → (∀ i ∈ live, unread i = false) →
          (∀ d, least held d → s.stepQuery e c t = s.handleDoc e c t d none id) ∧ (held = [] → s.stepQuery e c t = set s ended))
      ∧ (live.find? passedBy = none → alone → sorted → prune = true → ∀ l, least (live.map last) l →
          let here := held.filter fun d => decide (d ≤ l)
          (past → s.stepQuery e c t = set (if here = [] then s' else note s' (2 ^ 24) 0) { t with next := l + 1, need := none })
          ∧ (¬past → (∀ i ∈ live, (cur i).lo ≤ t.next → t.next ≤ last i → unread i = false) →
            (∀ d, least here d → s.stepQuery e c t = s'.handleDoc e c t d none id)
            ∧ (here = [] → s.stepQuery e c t = set s' { t with next := l + 1, need := none })))
      ∧ (live = [] → alone → s.stepQuery e c t = set s' ended)))
  ∧ (∀ (s : State) (e : Nat) (c : Chain) (t : Traversal) (H : Handle) (g h : Nat) (dp limit : Option Nat),
    c.owner.gang = some g → c.owner.query = some h →
    let set := fun (u : State) (y : Traversal) => u.modChain e c.id fun c => { c with trav := some y, park := none }
    let note := fun (u : State) f => u.modChain e c.id fun c => { c with flags := c.flags ||| f, causes := c.causes ||| 0 }
    let popped := s.setHandle g h { H with fusion := H.fusion.drop 1 }
    (H.fusion = [] → s.fusionDoc e c t H dp limit = set s { t with need := some 1 })
    ∧ (∀ id sc m p rest, H.fusion = (id, sc, m, p) :: rest →
      let x := id.toNat
      let kept := { t with fdone := m, bad := t.bad || p, need := none }
      let late := x = 0xFFFFFFFF ∨ ∃ y, t.prev = some y ∧ x ≤ y
      let passed := (∃ d, dp = some d ∧ d < x) ∨ (dp = none ∧ ∃ l, limit = some l ∧ l < x)
      let known := m = true ∨ ∃ y ∈ rest, y.2.2.1 = true ∨ x < y.1.toNat
      let pois := if p then 2 ^ 28 else 0
      (late → s.fusionDoc e c t H dp limit = note (set popped kept) (2 ^ 26 ||| pois))
      ∧ (¬late → x < t.next → s.fusionDoc e c t H dp limit = note (set popped { kept with prev := some x }) pois)
      ∧ (¬late → t.next ≤ x → passed → (∀ d, dp = some d → s.fusionDoc e c t H dp limit = s.handleDoc e c t d none fun u => u)
          ∧ (dp = none → ∀ l, limit = some l → s.fusionDoc e c t H dp limit = set s { t with next := l + 1, need := none }))
      ∧ (¬late → t.next ≤ x → ¬passed → ¬known → rest = [] → s.fusionDoc e c t H dp limit = set s { t with need := some 2 })
      ∧ (¬late → t.next ≤ x → ¬passed → ¬known → ∀ y ys, rest = y :: ys → s.fusionDoc e c t H dp limit =
          note (set (s.setHandle g h { H with fusion := (id, sc, m, p) :: ys }) { t with bad := t.bad || y.2.2.2, need := none })
            (2 ^ 26 ||| (if y.2.2.2 then 2 ^ 28 else 0)))
      ∧ (¬late → t.next ≤ x → ¬passed → known →
          ((dp = some x ∨ (t.desc.getD 0 0).testBit 18 = false) → ∃ take : State → State, take s = note popped pois ∧
            s.fusionDoc e c t H dp limit = s.handleDoc e c { kept with prev := some x } x (some sc.toNat) take)
          ∧ (dp ≠ some x → (t.desc.getD 0 0).testBit 18 = true →
            s.fusionDoc e c t H dp limit = set (note popped pois) { kept with prev := some x }))))
  ∧ (∀ (s : State) (e : Nat) (c : Chain) (t : Traversal) (d : Nat) (f : Option Nat) (fin : State → State),
    let w := fun i => t.desc.getD i 0
    let m := t.live.filterMap fun i => (((t.cursor i).docs.getD []).find? fun x => decide (x.1 = d)).map fun x => (i, x.2)
    let norm := w 1 % 2 ^ 57
    let mode : Nat := w 0 / 2 ^ 16 % 4
    let root := w 0 / 2 ^ 8 % 16 - 1
    let b32 := fun n => binary32.decode n
    let r32 := fun n => (binary32.round 0 false 0 n).code
    ∀ (u1 u2 u3 : State) (nb vb : List Byte) (ts : List (Nat × Machine.Num)) (cs : Nat) (p0 p1 p2 : Bool),
    (if m = [] ∨ norm = 0 then u1 = s ∧ nb = [0] ∧ p0 = false else s.streamRead e c (norm + d) 1 = (u1, .ok (nb, p0))) →
    u1.slotScores e c t.desc ((nb.getD 0 0).toNat / 8) m = (u2, .ok (ts, cs, p1)) →
    let ev := evalNode t.desc ts 16 root
    let hit : Bool := !m.isEmpty && ev.ok
    let ranks : Bool := if mode = 2 then (if (w 0).testBit 18 then hit && f.isSome else hit || f.isSome) else hit
    (if ranks && decide (mode = 1) then u2.streamRead e c (w 3 % 2 ^ 57 + 4 * d) 4 = (u3, .ok (vb, p2)) else u3 = u2 ∧ p2 = false) →
    let lex := if hit then (sumScores (ev.slots.filterMap fun i => (ts.find? fun x => decide (x.1 = i)).map Prod.snd) 0).v else Machine.Num.zero
    let v := if mode = 1 then b32 (ofBytes vb) else (f.map b32).getD (b32 (w 4 / 2 ^ 32 % 2 ^ 32))
    let score := if mode = 0 then lex else b32 (r32 (Machine.Num.dot [(b32 (w 4 % 2 ^ 32), lex)] [v] false))
    let y := { t with next := d + 1, need := none, bad := t.bad || p0 || p1 || p2 }
    let after := ((s.handleDoc e c t d f fin).chain? e c.id).map Chain.trav
    ((fin u3).chain? e c.id ≠ none) →
      (ranks = false → after = some (some y))
      ∧ (ranks = true → score.isNan = true → after = some (some y))
      ∧ (ranks = true → score.isNan = false → after = some (some { y with heap := insertRanked (keepCount c) (d, (binary32.conv 0 false 0 score).code) t.heap })))
  ∧ (∀ (s u v : State) (e : Nat) (c : Chain) (d : List Nat) (nb t f cs : Nat) (rest : List (Nat × Nat)) (bs : List Byte)
      (ts : List (Nat × Machine.Num)) (p q : Bool),
      s.streamRead e c (d.getD 2 0 % 2 ^ 57 + 4 * (32 * (min f 32 - 1) + nb)) 4 = (u, .ok (bs, p)) → u.slotScores e c d nb rest = (v, .ok (ts, cs, q)) →
      ∃ causes, s.slotScores e c d nb ((t, f) :: rest) = (v, .ok ((t, binary32.decode (binary32.round 0 false 0
        ((binary32.decode (d.getD (8 + 4 * t + 2) 0 / 2 ^ 32 % 2 ^ 32)).mul (binary32.decode (ofBytes bs)))).code) :: ts, causes, p || q)))
  ∧ (∀ (d : List Nat) (ts : List (Nat × Machine.Num)) (n j : Nat),
      let w := d.getD (72 + 2 * j) 0
      let slots := (List.range 16).filter fun t => w.testBit t
      let kids := (List.range 15).filter fun i => w.testBit (16 + i)
      let x := evalNode d ts (n + 1) j
      let hit := fun t => t ∈ ts.map Prod.fst
      let every := (∀ t ∈ slots, hit t) ∧ ∀ i ∈ kids, (evalNode d ts n i).ok = true
      let one := (∃ t ∈ slots, hit t) ∨ ∃ i ∈ kids, (evalNode d ts n i).ok = true
      let sum := (sumScores (x.slots.filterMap fun t => (ts.find? fun y => decide (y.1 = t)).map Prod.snd) 0).v
      let thr := binary32.decode (d.getD (73 + 2 * j) 0 % 2 ^ 32)
      (x.ok = true ↔ if w / 2 ^ 32 % 4 = 0 then every else if w / 2 ^ 32 % 4 = 1 then one
        else one ∧ sum.isNan = false ∧ thr.isNan = false ∧ sum.lt thr = false)
      ∧ x.slots.Pairwise (· < ·)
      ∧ ∀ t, t ∈ x.slots ↔ (t ∈ slots ∧ hit t) ∨ ∃ i ∈ kids, (evalNode d ts n i).ok = true ∧ t ∈ (evalNode d ts n i).slots)
  ∧ (∀ (xs : List Machine.Num) (x : Machine.Num) (n : Nat), (sumScores [] n).v = .zero
      ∧ (sumScores (xs ++ [x]) n).v = binary32.decode (binary32.round 0 false 0 (Machine.Num.sum [(sumScores xs n).v, x] false)).code)
  ∧ (∀ (k : Nat) (x : Nat × Nat) (h : List (Nat × Nat)), (h.Pairwise fun a b => rankKey 2 b.2 ≤ rankKey 2 a.2) →
      insertRanked k x h = (h.filter (fun y => decide (rankKey 2 x.2 ≤ rankKey 2 y.2)) ++ [x]
        ++ h.filter (fun y => decide (rankKey 2 y.2 < rankKey 2 x.2))).take k)
  ∧ (∀ bs : List Byte,
      let at' := fun i => (bs.getD i 0).toNat
      let n := at' 8
      let pay := ofBytes (bs.drop 32)
      0 < n →
      (postings bs).length = n ∧ ((postings bs)[0]?).map Prod.fst = some (ofBytes (bs.take 4))
      ∧ ∀ i < n, ((postings bs)[i]?).map Prod.snd = some (pay / 2 ^ (at' 9 % 32 * (n - 1) + at' 10 % 32 * i) % 2 ^ (at' 10 % 32) + 1)
        ∧ (i + 1 < n → ((postings bs)[i + 1]?).map Prod.fst =
            ((postings bs)[i]?).map fun x => x.1 + pay / 2 ^ (at' 9 % 32 * i) % 2 ^ (at' 9 % 32) + 1))
  ∧ (∀ (t : Traversal) (k : Nat),
      (t.heap.length < k → t.theta k = .inf true)
      ∧ (k ≤ t.heap.length → ∀ x, t.heap.getLast? = some x → t.theta k = binary32.decode x.2)
      ∧ (let up := fun n => binary32.decode (binary32.round 3 false 0 n).code
        let weight := fun i => binary32.decode (t.desc.getD (8 + 4 * i + 2) 0 / 2 ^ 32 % 2 ^ 32)
        let bl := t.inRange.foldl (fun a i => up (Machine.Num.sum [a, up ((weight i).mul (t.cursor i).bmax)] false)) .zero
        let vm := binary32.decode (t.desc.getD 5 0 % 2 ^ 32)
        let vd := binary32.decode (t.desc.getD 4 0 / 2 ^ 32 % 2 ^ 32)
        t.bound.v = if t.desc.getD 0 0 / 2 ^ 16 % 4 = 0 then bl
          else up (Machine.Num.dot [(binary32.decode (t.desc.getD 4 0 % 2 ^ 32), bl)] [if vm.lt vd then vd else vm] false)))


/-- R278, R460 to R465: a Runner checks its block and its group's table and accepts, transfers a chunk of at most 64 source lines at a
time, line by line to or from the window that the rank names, and has performed the block when its last chunk is done; a
request that fails ends the chain after the chunk, with the failed rank in its status. Chunks worked in order, line by line, and which bytes a
failed chunk leaves undefined are the model's choices (log entry 53); so are a peer's windows, and that a request which finds none of
them fails at once (log entry 31). -/
def Obligations.RunnerBlocks : Prop :=
  (∀ (s : State) (e : Nat) (c : Chain), 324 ≤ e → s.Holds e c →
    let b := runnerBody c.words
    (∀ i ∈ ([(.runnerNop e, 0), (.put e, 1), (.get e, 2), (.reduce e, 3), (.notify e, 4)] : List (Instr × Nat)), b.op = i.2 →
      (c.stage = .perform → ∀ d, runnerBad c.words = some d → exec i.1 s = .next (s.malformed e c c.block d))
      ∧ (c.stage = .perform → runnerBad c.words = none → i.2 = 0 →
          exec i.1 s = .next (s.modChain e c.id fun c => Chain.performed { c with park := none }))
      ∧ (c.stage = .perform → runnerBad c.words = none → i.2 ≠ 0 →
          let base := (s.vdev (c.owner.vnum.getD 0)).gtBase + 65536 * b.grp
          ∀ (t u : State) hs q ranks, s.chainRead e c base 64 = (t, .ok (hs, q)) →
          t.groupEntries e c base ((words64 hs).getD 0 0 % 2 ^ 10 + 1) 0 = (u, .ok ranks) →
          (∀ d, groupBad (words64 hs) ranks = some d → exec i.1 s = .next (u.malformed e c base d))
          ∧ (groupBad (words64 hs) ranks = none → i.2 ≠ 3 → ranks.length ≤ b.peer → exec i.1 s = .next (u.malformed e c c.block 482))
          ∧ (groupBad (words64 hs) ranks = none → (i.2 = 3 ∨ b.peer < ranks.length) →
              let v := u.modChain e c.id fun c => { c with ranks := ranks }
              exec i.1 s = .next (v.modChain e c.id fun y => { y with
                stage := .working, prog := 0, sent := 0, accept := u.now, park := none, failed := none,
                undef := decide (i.2 = 3) && v.reduceOverlaps e { c with ranks := ranks } })))
      ∧ (c.stage = .working → i.2 ≠ 0 → c.sent = c.prog → ∀ t,
          (∀ causes, s.runChunk e c b c.prog = (t, .done causes) → exec i.1 s = .next (t.modChain e c.id fun c =>
            { c with sent := c.sent + 1, causes := c.causes ||| causes, park := none }))
          ∧ (∀ r, s.runChunk e c b c.prog = (t, .failed r) → exec i.1 s = .next (t.chunkFailed e c r))
          ∧ (∀ f, s.runChunk e c b c.prog = (t, .fault f) → exec i.1 s = .next (t.chainFault e c f))))
    ∧ (b.op = 4 → c.stage = .working → c.sent = c.prog → ∀ P, rankAcc (c.ranks.getD b.peer 0) ≠ s.pkg.accId →
        let x := c.ranks.getD b.peer 0
        let t := s.peerPacket (chainReq e c) (rankAcc x) 0 1
        t.peerWindow x b.dst .rmw = some P →
        let word := toBytes 8 ((ofBytes (Memory.read P.mem b.dst 8) + c.words.getD 0 0 / 2 ^ 32 % 2 ^ 12) % 2 ^ 64)
        let peers := SMap.put (peerKey x) { P with mem := Memory.write P.mem b.dst word } t.peers
        exec (.notify e) s = .next ((({ t with peers := peers } : State).peerPacket (chainReq e c) (rankAcc x) 1 1).modChain e c.id
          fun c => { c with sent := c.sent + 1, causes := c.causes ||| 0, park := none }))
    ∧ (c.stage = .working → c.prog < c.sent → c.causes = 0 →
        (c.failed ≠ none → exec (.runnerChunkDone e) s = .next (s.modChain e c.id fun c => { c with stage := .ending }))
        ∧ (c.failed = none → b.chunks ≤ c.prog + 1 → exec (.runnerChunkDone e) s = .next (s.modChain e c.id fun y => Chain.performed { y with prog := c.sent }))
        ∧ (c.failed = none → c.prog + 1 < b.chunks → ∃ t, exec (.runnerChunkDone e) s = .next t
            ∧ t.chain? e c.id = some { c with prog := c.prog + 1, accept := s.now }))
    ∧ (c.stage = .working → c.sent = c.prog →
        let u := ({ s with fresh := s.fresh + 1 } : State).chunkFailed e c (s.failingRank c)
        exec (.peerErrorResponse e) s = .next u
        ∧ (c.accept + 2 ^ 20 ≤ s.now → exec (.peerRequestTimeout e) s = .next u)
        ∧ (s.now < c.accept + 2 ^ 20 → exec (.peerRequestTimeout e) s = .next s)))
  ∧ (∀ (s t u : State) (e : Nat) (c : Chain) (b : RunnerBody) (x k : Nat) (ks : List Nat) (y : Xlat),
      let r := chainReq e c
      (s.chainXlat e c .read false (b.src + 256 * k) = (t, .ok y) →
        let h := t.homeLine r y.pa true
        h.2.bad = 0 → h.2.scBad = false → h.1.rankWrite r x (b.dst + 256 * k) (wholeLine h.2) = (u, .ok ()) →
        s.putLines e c b x (k :: ks) = u.putLines e c b x ks)
      ∧ (∀ l, s.rankRead r x (b.src + 256 * k) = (t, .ok l) → l.bad = 0 → l.scBad = false →
        t.chainXlat e c .write false (b.dst + 256 * k) = (u, .ok y) →
        s.getLines e c b x (k :: ks) = (u.putHomeLine r y.pa (wholeLine l)).getLines e c b x ks))
  ∧ (∀ (b : RunnerBody) (q k : Nat), b.op ≠ 3 → (k ∈ b.chunkDst q ↔ 64 * q ≤ k ∧ k < 64 * (q + 1) ∧ k < b.nl))

/-- R452, R454, R455, R457, R459, R475, R481, R482: a peer's request is answered with the window's bytes, with a line and its scale bytes,
with a completion or an error; the host reads and writes its ranges of memory, and is refused outside them; configuration requests, link errors, the power limit,
the debug fuse and JTAG. An access of the host outside every HDM range and the refusal of JTAG's internal state are the model's stops
(log entry 63), the answers to peers and what a line weighs the model's reading (log entry 54). -/
def Obligations.OutsideRequests : Prop :=
  (∀ (s : State) (r : PeerRequest), s.pkg.power = .running →
    let v := r.addr / 2 ^ 48 % 2 ^ 7
    let w := r.addr / 2 ^ 44 % 2 ^ 4
    let off := r.addr % 2 ^ 44
    let port := Config.uaPort r.acc % 16
    let q := Req.chiplet (some v) (partOfVnum v) (port / 8)
    let answer := fun (u : State) (k : Nat) (o : Out) => Host.Outcome.next ((u.chargeLink port 0 q.holder k).emit o)
    ∀ n, peerSize r.op = n → 0 < n → n ≤ 256 → off % peerAlign r.op = 0 →
      (s.windowVa v w off (decide (peerAcc r.op ≠ .write)) (decide (peerAcc r.op ≠ .read)) = none →
        exec (.ualinkInboundRequest r) s = .next ((if v < 96 then s.chargeLink port 0 v 1 else s).emit (.peerError r.acc)))
      ∧ (∀ va t pas, s.windowVa v w off (decide (peerAcc r.op ≠ .write)) (decide (peerAcc r.op ≠ .read)) = some va →
          s.inboundXlat v va n (peerAcc r.op) = (t, .ok pas) → va % 256 + n ≤ 256 →
          (r.op = .read n → let h := t.homeRead q pas.1 n true
            exec (.ualinkInboundRequest r) s = answer (h.1.foundBad q.part pas.1 h.2.2) (beats n) (.peerData r.acc h.2.1 h.2.2))
          ∧ (∀ x, r.op = .add x → let h := t.homeAtomic q pas.1 8
              h.2 = false → exec (.ualinkInboundRequest r) s =
                answer ((h.1.putAtomic q false pas.1 (toBytes 8 ((h.1.read64 pas.1 + x.toNat) % 2 ^ 64)) false).foundBad q.part pas.1
                  (h.1.extentBad pas.1 8)) 1 (.peerDone r.acc))
          ∧ (∀ bs, r.op = .write bs → exec (.ualinkInboundRequest r) s = answer (t.homeMasked q pas.1 bs) 1 (.peerDone r.acc))
          ∧ (r.op = .getLine → let h := t.homeLine q pas.1 true
            exec (.ualinkInboundRequest r) s = answer (h.1.foundLine q.part h.2) (lineBeats h.2) (.peerLine r.acc h.2.bytes h.2.scales h.2.bad h.2.scBad))
          ∧ (∀ bs sc b sb, r.op = .putLine bs sc b sb → exec (.ualinkInboundRequest r) s =
              answer (t.putHomeLine q pas.1 (wholeLine ⟨pas.1, bs, sc, b, sb⟩)) 1 (.peerDone r.acc))))
  ∧ (∀ (s : State) (pa n : Nat) (bs : List Byte),
      (s.hdmOf pa n = none → exec (.hostMemAccess (.read pa n)) s = .fault .noSuchAddress)
      ∧ (s.hdmOf pa bs.length = none → exec (.hostMemAccess (.write pa bs)) s = .fault .noSuchAddress)
      ∧ (∀ p, s.hdmOf pa n = some p →
          let r := Req.chiplet none p 0
          let u := s.hostRead p pa n
          (u.2.2 = false → exec (.hostMemAccess (.read pa n)) s = .next (u.1.emit (.hostData u.2.1)))
          ∧ (u.2.2 = true →
              exec (.hostMemAccess (.read pa n)) s = .next ((u.1.uncorrectable p (u.1.structAt pa) pa Agent.none).emit .hostPoison))
          ∧ (pa % 256 + n ≤ 256 → 0 < n →
              u = ((s.chargeLink hostLink 1 r.holder 1).chargeLink hostLink 0 r.holder (beats n)).homeRead r pa n true))
      ∧ (∀ p, s.hdmOf pa bs.length = some p →
          let r := Req.chiplet none p 0
          exec (.hostMemAccess (.write pa bs)) s = .next ((s.hostWrite p pa bs).emit .hostDone)
          ∧ (pa % 256 + bs.length ≤ 256 → bs ≠ [] →
              s.hostWrite p pa bs = (s.chargeLink hostLink 1 r.holder (beats bs.length)).homeWrite r pa bs false)))
  ∧ (∀ s : State,
      (∀ tag, exec (.hostUnsupportedRequest tag) s = .next (if s.up then s.emit (.hostUnsupported tag) else s))
      ∧ (s.pkg.power = .starting → exec .configurationRequest s = .next (s.emit .hostRetry))
      ∧ (s.pkg.power = .running ∨ s.pkg.power = .minimal → exec .configurationRequest s = .next (s.emit .hostConfig))
      ∧ (∀ b, exec (.packagePowerLimit b) s = .next { s with pkg := { s.pkg with withhold := b } })
      ∧ (exec .debugFuseUnlock s = .next { s with pkg := { s.pkg with debugFuse := true } })
      ∧ (s.pkg.power ≠ .off →
          exec (.jtagAccess .boundaryScan) s = .next (s.emit .jtagScan) ∧ exec (.jtagAccess .idcode) s = .next (s.emit .jtagIdcode)
          ∧ (s.pkg.debugFuse = false → exec (.jtagAccess .internalState) s = .next s)
          ∧ (s.pkg.debugFuse = true → exec (.jtagAccess .internalState) s = .refused .jtagInternalState))
      ∧ (s.up = true → ∀ port,
          exec (.flitCheckFailure .host port true) s = .next { s with lost := hostLink :: s.lost }
          ∧ exec (.flitCheckFailure .secondTier port true) s = .next { s with lost := tierLink port :: s.lost }
          ∧ ∀ link lost, lost = false ∨ link = .ualink → ∃ p, p < 12 ∧ exec (.flitCheckFailure link port lost) s =
            .next (({ s with fresh := s.fresh + 1 } : State).count p
              ((if lost then 8 else 0) + 16 * (match link with | .host => 9 | .secondTier => 8 | .ualink => 10)))))

/-- R36, R38, R178, R255, R272, R369, R380, R383, R415: promotion, the swap check, a waiting group of fault records, an engine's stop
record, which a posting-list engine writes after its posting block, the matrix watchdog and twin reset. The clk of a promotion (log entry
42), when a group is written (39), the fields of a stop record (40), what an engine that stops leaves (41), and which workgroups a swap takes
(61, 71) are the model's choices. -/
def Obligations.StopsAndWatchdogs : Prop :=
  (∀ (s : State) (g : Nat) (G : Gang) (r : Run), s.gang? g = some G → G.runs.head? = some r → s.laneReady G r = true →
    r.issued = false → G.since + 4096 ≤ s.now → exec (.issuePromotion g) s = .next (s.putGang g
      { G with promo := true, promoS := G.promoS || (s.scalarReady G && decide (G.sinceS + 4096 ≤ s.now)) }))
  ∧ (∀ (s : State) (g : Nat) (G : Gang), s.gang? g = some G → s.scalarReady G = true → G.sinceS + 4096 ≤ s.now →
      ∃ b, exec (.issuePromotion g) s = .next (s.putGang g { G with promo := b, promoS := true }))
  ∧ (∀ (s : State) (core : Nat),
      let p := core / 36
      let last := (s.core core).issued
      s.stopped p = false →
      (s.now < last + 65536 → exec (.idleCounterSwapCheck core) s = .next s)
      ∧ (last + 65536 ≤ s.now →
          (s.swapChoice p core = none ∨ s.swapChoice p core = some [] → exec (.idleCounterSwapCheck core) s = .next s)
          ∧ (∀ w W, s.swapChoice p core = some [w] → s.wg? w = some W → W.stage = .running →
              exec (.idleCounterSwapCheck core) s =
                .next ((s.beginSave (s.together w)).modCore core fun c => { c with issued := s.now }))))
  ∧ (∀ (s : State) (p : Nat), s.stopped p = false → (s.part p).backlog = [] →
      ((s.part p).groups = [] → exec (.faultRecordGroupWrite p) s = .next s)
      ∧ (∀ a rest k, (s.part p).groups = a :: rest → s.parkOf a = some k →
          let t := s.gafferConsumes p
          let fs := pageGroups k.faults
          let room := (t.part p).fqProd - (t.part p).fqCons + fs.length + 64
          (4096 < room → exec (.faultRecordGroupWrite p) s = .next t)
          ∧ (room ≤ 4096 →
              let u := (t.modPart p fun P => { P with groups := rest }).writeGroup p
                ((t.modPart p fun P => { P with groups := rest }).parkedAgent a) k.recs fs []
              exec (.faultRecordGroupWrite p) s = .next (u.1.setPark a (some { k with written := true, recs := u.2 ++ k.recs })))))
  ∧ (∀ (s : State) (p index : Nat), (s.part p).halting = true → index ∈ (s.part p).toStop →
      (index < 54 ∨ 89 ≤ index ∨ s.currentOf p (stopEngine p index) = none) →
      (36 ≤ index → index < 54 → ∀ o ∈ SMap.getD (18 * p + (index - 36)) [] s.twins, o.started = none) →
      (index < 36 → ∀ G ∈ s.residents (36 * p + index), G.mayStore = false ∧ ∀ x ∈ G.pend, x.storing = false ∨ x.todo = 0) →
      exec (.engineStop p index) s = .next ((s.writeStop p index (s.part p).hseq (s.stopInfo p index)).modPart p fun P =>
        { P with toStop := P.toStop.erase index, halted := P.halted || (P.toStop.erase index).isEmpty }))
  ∧ (∀ (s : State) (p index : Nat), s.stopsLater p index = true → exec (.engineStop p index) s = .next s)
  ∧ (∀ (s : State) (twin : Nat), s.stopped (twin / 18) = false → s.inService (twin / 18) = true →
      let late := ∃ o ∈ SMap.getD twin [] s.twins, ∃ t, o.started = some t ∧ t + 2 ^ 20 ≤ s.now
      (late → exec (.matrixWatchdogExpiry twin) s = exec (.twinReset twin) s)
      ∧ (¬late → exec (.matrixWatchdogExpiry twin) s = .next s)
      ∧ ((∀ kv ∈ s.wgs, s.holdsTiles kv.2 twin = false) →
          let u := (s.resetRecord (twin / 18) Agent.none twin).writeStop (twin / 18) (36 + twin % 18) (s.part (twin / 18)).seq
            (s.stopMatrix twin)
          exec (.twinReset twin) s = .next { u with twins := SMap.erase twin u.twins }
          ∧ (late → exec (.matrixWatchdogExpiry twin) s = .next { u with twins := SMap.erase twin u.twins })))

/-- R18, R27, R29, R198, R227, R331, R334, R335, R337, R338, R344, R376: the first unit of the waiting order that fits is placed;
a reservation; a way converted; a workgroup's start and retirement; a record that is refused, waits in its test, for its turn or for
room, is entered or passed over; a chain that firmware starts; the end of a grid. R331, R332: entry makes a grid of the record's fields
(KIND 00), a chain (KIND 01), or completes at once (KIND 10); completion makes the signal and then writes STATE. That the start acquires
only for a child or where a test was passed (log entry 57), when the first unit is noted (56), the order of the CODEs (55), and that the
signal's words are read at completion (90) are the model's choices. -/
def Obligations.PlacementAndLaunch : Prop :=
  (∀ (s : State) (p : Nat), s.stopped p = false →
    ((∀ v ∈ s.waiting p, s.heldBack p v = true ∨ ∀ h, s.shape v = some h → s.findPlace p [] (fun _ => true) v h = none) →
      exec (.placeUnit p) s = .next (s.noteFirst p))
    ∧ (∀ us u vs sh cs, s.waiting p = us ++ u :: vs →
        (∀ v ∈ us, s.heldBack p v = true ∨ ∀ h, s.shape v = some h → s.findPlace p [] (fun _ => true) v h = none) →
        s.heldBack p u = false → s.shape u = some sh → s.findPlace p [] (fun _ => true) u sh = some cs →
        exec (.placeUnit p) s = .next ((s.placeUnit p u sh cs).noteFirst p))
    ∧ ((s.noteFirst p).reservedUnit p = none →
        let n := s.noteFirst p
        ∃ t, exec (.unitReservation p) s = .next t ∧ (t.part p).reserved =
          (n.waiting p).find? fun u => (n.part p).first.any fun l => decide (l.2.1 = u) && decide (l.2.2 + 2 ^ 20 ≤ s.now))
    ∧ ((s.noteFirst p).reservedUnit p ≠ none → exec (.unitReservation p) s = .next (s.noteFirst p))
    ∧ (∀ ladle addr, s.inService p = true → s.engineFull (18 * p + ladle) = false → exec (.gafferChainStart p ladle addr) s =
        .next (s.addChain (18 * p + ladle) addr 0 ⟨none, none, none, none, 0, none, none, p, (18 * p + ladle) / 2⟩)))
  ∧ (∀ n q, q < 4 → (byQuarter n)[q]? = some ((List.range n).filter fun j => j % 4 == q).length)
  ∧ (∀ (s : State) (core way w : Nat), s.stopped (core / 36) = false → SMap.getD way .l1 (s.core core).ways = .closing w →
      exec (.wayConversionComplete core way) s =
        .next ((s.dropLines core fun l => decide (l.way = way)).modCore core fun c => { c with ways := SMap.put way (.scratch w) c.ways }))
  ∧ (∀ (s : State) (w : Nat) (W : Wg), s.wg? w = some W → s.stopped (W.core / 36) = false →
      (W.stage = .setup → W.saved = false → s.waysReady w W = true → exec (.workgroupStart w) s =
        .next ((if W.child.isSome ∨ (s.grid? W.grid).any Grid.wtest = true then s.acquireCores W else s).modWg w fun W =>
          { W with stage := .running }))
      ∧ (W.stage = .running → (∀ g ∈ W.gangs, ∃ G, s.gang? g = some G ∧ G.life ≠ .awake) → exec (.workgroupRetire w) s =
        .next ((W.gangs.foldl State.reportOwed ((s.killChainsOf w false).cleanCores W)).removeWg w W)))
  ∧ (∀ (s : State) (v c : Nat), s.stopped (partOfVnum v) = false →
      (s.recordReady v c = true →
        let stage := (SMap.getD c LaunchChain.init (s.vdev v).chains).stage
        let enters := fun (u : State) (r : LaunchRec) l => Host.Outcome.next ((u.setStage v c (.ready r.ws l)).enterRecord v c r l)
        let tested := fun (u : State) (r : LaunchRec) l => ∀ x bs, u.dispRead v r.addr r.waitAddr 8 = (x, .ok bs) →
          let word := ofBytes bs
          let holds := if r.test = 1 then r.w 10 ≤ word else if r.test = 2 then word = r.w 10 else word ≠ r.w 10
          (holds → exec (.dispatcherEntry v c) s = enters x r l) ∧ (¬holds → exec (.dispatcherEntry v c) s = .next x)
        (stage = .fresh → ∀ t (r : LaunchRec), s.readRecord v c = (t, .ok r) →
          (r.state ≠ 0 → exec (.dispatcherEntry v c) s = .next (t.leaveRecord v c false))
          ∧ (r.state = 0 → ∀ u,
              (∀ k ks l, t.checkRecord v c r = (u, .codes (k :: ks) l) →
                exec (.dispatcherEntry v c) s = .next (u.refuse v c r (ks.foldl min k)))
              ∧ (∀ l, t.checkRecord v c r = (u, .codes [] l) →
                  (r.test = 0 → exec (.dispatcherEntry v c) s = enters u r l)
                  ∧ (r.test ≠ 0 → tested (u.setStage v c (.testing r.ws l)) r l))))
        ∧ (∀ ws l, stage = .testing ws l → tested s ⟨s.launchRecord v c, ws⟩ l)
        ∧ (∀ ws l, stage = .ready ws l →
            exec (.dispatcherEntry v c) s = .next (s.enterRecord v c ⟨s.launchRecord v c, ws⟩ l))
)
      ∧ (∀ (r : LaunchRec) l,
          let p := partOfVnum v
          let may := s.openRecords p < 128 ∧ s.entryRoom p r.ws = true ∧ s.pairTurn p (v % 8 * 9 + c) = true
          let seq := (s.part p).acceptSeq
          (¬may → s.enterRecord v c r l = s)
          ∧ (may → r.kind = 1 → ∀ t, s.writeState v r.addr 1 0 seq = (t, none) →
              s.enterRecord v c r l = ((t.modPart p fun P => { P with acceptSeq := seq + 1, rotor := (v % 8 * 9 + c + 1) % 72 }).leaveRecord
                v c false).addChain (engineOf (9 * p + r.eclu) r.eng) r.desc (BitVec.ofNat 64 (r.w 6))
                  ⟨some v, none, none, none, 0, none, some r.addr, p, 9 * p + r.eclu⟩)
          ∧ (may → r.kind = 0 → ∀ t, s.writeState v r.addr 1 0 seq = (t, none) →
              let u := ((t.modPart p fun P => { P with acceptSeq := seq + 1, rotor := (v % 8 * 9 + c + 1) % 72 }).leaveRecord v c false).seenByFetch p
              let f := fun i hi lo => r.w i / 2 ^ lo % 2 ^ (hi + 1 - lo)
              ∃ D : Grid, s.enterRecord v c r l = { u with nextId := u.nextId + 1, grids := SMap.put u.nextId D u.grids }
                ∧ D.vnum = v ∧ D.record = some r.addr ∧ D.seq = seq ∧ D.prio = f 1 61 60 ∧ D.tsave = (r.w 1).testBit 59 ∧ D.cpair = (r.w 1).testBit 58
                ∧ D.w = f 3 31 0 ∧ D.id = f 3 63 32 ∧ D.ngang = f 4 63 58 + 1 ∧ D.regs = 8 * (f 4 57 53 + 1) ∧ D.scr = f 4 52 49
                ∧ D.bars = f 4 48 42 ∧ D.tiles = f 4 41 35 ∧ D.f = f 4 34 29 ∧ D.mt = f 4 28 24 ∧ D.v = f 4 23 18 ∧ D.coh = f 4 17 11
                ∧ D.arg = BitVec.ofNat 64 (r.w 2) ∧ D.fmtbase = BitVec.ofNat 64 (f 5 56 0) ∧ D.seed = BitVec.ofNat 64 (r.w 6)
                ∧ D.spbase = f 7 56 0 ∧ D.spstr = f 8 63 48 ∧ D.entry = f 13 56 0 ∧ D.lsbase = BitVec.ofNat 64 l
                ∧ D.wtest = decide (f 9 63 61 ≠ 0) ∧ D.next = 0 ∧ D.live = D.w ∧ D.kids = 0 ∧ D.killed = false ∧ D.park = none ∧ D.quiet = false)
          ∧ (may → r.kind = 2 → ∀ t u, s.writeState v r.addr 1 0 seq = (t, none) →
              ((t.modPart p fun P => { P with acceptSeq := seq + 1, rotor := (v % 8 * 9 + c + 1) % 72 }).leaveRecord v c false).completeRecord
                v r.addr 2 false = (u, none) → s.enterRecord v c r l = u))
      ∧ (c < 8 → ∀ l, SMap.find? c (s.vdev v).chains = some l → l.handled = true → l.stopped = false → l.cur ≠ 0 → l.park = none →
          ∀ t (r : LaunchRec), s.readRecord v c = (t, .ok r) →
          (r.next = 0 → exec (.recordNextWake v c) s = .next t)
          ∧ (r.next ≠ 0 → exec (.recordNextWake v c) s =
              .next (t.modLaunch v c fun l => { l with cur := r.next, handled := false, park := none }))))
  ∧ (∀ (s t u : State) (v rec code : Nat) (x y : Xlat),
      let k := 9 * partOfVnum v
      let r := Req.firmware (partOfVnum v)
      s.translate k v .read false rec = (t, .ok x) →
      let h := t.homeRead r (x.pa + 88) 16 true
      let a := ofBytes (h.2.1.take 8)
      let n := ofBytes (h.2.1.drop 8)
      let addr := a / 8 % 2 ^ 54 * 8
      let fin := fun (q : State) =>
        let w := q.homeRead r y.pa 8 true
        w.1.homeWrite r y.pa (toBytes 8 (ofBytes w.2.1 % 2 ^ 56 + code % 2 ^ 8 * 2 ^ 56)) false
      let ends := fun (quiet : Bool) (q : State) => (q.homeRead r y.pa 8 true).2.2 = false → s.completeRecord v rec code quiet = (fin q, none)
      h.2.2 = false → h.1.translate k v .write false (rec + 120) = (u, .ok y) →
        ends true u
        ∧ (a / 2 ^ 62 % 4 = 0 → ends false u)
        ∧ (∀ z w, a / 2 ^ 62 % 4 = 1 → u.translate k v .rmw true addr = (w, .ok z) →
            let b := w.homeAtomic r z.pa 8
            b.2 = false → b.1.extentBad z.pa 8 = false →
              ends false (b.1.putAtomic r false z.pa (toBytes 8 ((b.1.read64 z.pa + n) % 2 ^ 64)) false))
        ∧ (∀ z w, a / 2 ^ 62 % 4 = 2 → u.translate k v .write true addr = (w, .ok z) →
            ends false (w.homeWrite r z.pa (toBytes 8 (n % 2 ^ 64)) false)))
  ∧ (∀ (s : State) (g : Nat) (G : Gang), s.gang? g = some G → G.wait = .trap → s.stopped (partOfVnum G.vnum) = false →
      exec (.endGrid g) s = .next (s.endGrid G.grid none))

/-- R331, R347, R387, R453: a virtual device's registers take an aligned value below 2^57 while the device exists, and ignore any other
write; each offset of the page is the register that R453 lists there; and a translation context takes EN and ROOT. That LOGSIZE is taken
from 7 to 16 of the whole register, and that a HEAD of 0 stops its chain where it is, are the model's choices (log entry 36). -/
def Obligations.RegisterWrites : Prop :=
  (∀ (s : State) (v : Nat) (val : DWord), s.vdevLive v = true →
    let x := val.toNat
    let fits := fun (align : Nat) => x % align = 0 ∧ x < 2 ^ 57
    (∀ c, (fits 128 → exec (.headWrite v c val) s = .next (s.modVdev v fun V => { V with
          chains := SMap.upd c LaunchChain.init (fun l => if x = 0 then { l with stopped := true, stage := .fresh } else ⟨x, false, false, none, .fresh⟩) V.chains }))
        ∧ (¬fits 128 → exec (.headWrite v c val) s = .next s))
    ∧ (fits 4096 → exec (.logbaseWrite v val) s = .next (s.modVdev v fun V => { V with logBase := x, logProd := 0, logCons := 0 }))
    ∧ (¬fits 4096 → exec (.logbaseWrite v val) s = .next s)
    ∧ (7 ≤ x ∧ x ≤ 16 → exec (.logsizeWrite v val) s = .next (s.modVdev v fun V => { V with logSize := x, logProd := 0, logCons := 0 }))
    ∧ (¬(7 ≤ x ∧ x ≤ 16) → exec (.logsizeWrite v val) s = .next s)
    ∧ (fits 65536 → exec (.gtbaseWrite v val) s = .next (s.modVdev v fun V => { V with gtBase := x }))
    ∧ (¬fits 65536 → exec (.gtbaseWrite v val) s = .next s)
    ∧ (∀ w, (fits 65536 → exec (.wbaseWrite v w val) s = .next (s.modVdev v fun V => { V with wbase := SMap.put w x V.wbase }))
        ∧ (¬fits 65536 → exec (.wbaseWrite v w val) s = .next s))
    ∧ (exec (.registerWrite v 0x118 val) s = .next (s.modVdev v fun V => { V with logCons := x }))
    ∧ (∀ w, w < 16 → exec (.registerWrite v (0x408 + 16 * w) val) s = .next (s.modVdev v fun V => { V with
        wctl := SMap.put w (BitVec.ofNat 64 (x / 2 ^ 62 % 4 * 2 ^ 62 + x / 2 ^ 16 % 2 ^ 32 * 2 ^ 16)) V.wctl })))
  ∧ (∀ (s : State) (v : Nat) (val : DWord),
      (∀ c, c < 8 → exec (.registerWrite v (0x010 + 8 * c) val) s = exec (.headWrite v c val) s)
      ∧ (exec (.registerWrite v 0x100 val) s = exec (.logbaseWrite v val) s)
      ∧ (exec (.registerWrite v 0x108 val) s = exec (.logsizeWrite v val) s)
      ∧ (exec (.registerWrite v 0x200 val) s = exec (.gtbaseWrite v val) s)
      ∧ (∀ w, w < 16 → exec (.registerWrite v (0x400 + 16 * w) val) s = exec (.wbaseWrite v w val) s)
      ∧ (∀ off, (∀ c, c < 8 → off ≠ 0x010 + 8 * c) → off ∉ [0x100, 0x108, 0x118, 0x200] →
          (∀ w, w < 16 → off ≠ 0x400 + 16 * w ∧ off ≠ 0x408 + 16 * w) → exec (.registerWrite v off val) s = .next s)
      ∧ (s.vdevLive v = false → ∀ c w off, ∀ i ∈ [Instr.headWrite v c val, .logbaseWrite v val, .logsizeWrite v val, .gtbaseWrite v val,
          .wbaseWrite v w val, .registerWrite v off val], exec i s = .next s))
  ∧ (∀ (s : State) (asid : Nat) (val : DWord), (s.inService (asid / 8) = false → exec (.translationContextWrite asid val) s = .next s)
    ∧ (s.inService (asid / 8) = true → exec (.translationContextWrite asid val) s = .next (s.modCtx asid fun c =>
      { c with en := decide (val.toNat / 2 ^ 63 % 2 = 1), root := val.toNat / 2 ^ 12 % 2 ^ 40 * 4096, prior := (c.en, c.root) :: c.prior })))

/-- R359 to R364, R372, R374, R433: the commands of the translation command port: what each drops, that a flush waits for the
outstanding accesses and halts after 18,800 clk, what a replay and an escalation do, and a cluster's reset. Which commands finish with the
error bit beyond those that the rules name (log entries 27, 90), and what REPLAY of a saved agent and the record of ESCALATE hold (log entry 28),
are the model's choices. -/
def Obligations.PortCommands : Prop :=
  (∀ (s : State) (p : Nat), s.PortFree p →
    let finished := fun (t : State) => (t.part p).port = ⟨true, false, none, none⟩
    (∀ asid, asid / 8 = p →
      let gen := ((s.ctx asid).gen + 1) % 256
      ∃ t, exec (.genraise p asid) s = .next t ∧ finished t ∧ (t.ctx asid).gen = gen ∧ (t.ctx asid).root = (s.ctx asid).root
        ∧ (∀ k, k / 9 = p → ∀ x ∈ (t.cluster k).tlb, ¬(x.asid = asid ∧ x.gen = gen))
        ∧ (∀ c, c / 36 = p → (∀ l ∈ (t.core c).lines, ¬(l.asid = asid ∧ l.gen = gen))
            ∧ (∀ x ∈ (t.core c).pats, ¬(x.asid = asid ∧ x.gen = gen))))
    ∧ (∃ t, exec (.ptsync p) s = .next t ∧ finished t ∧ (∀ k, k / 9 = p → (t.cluster k).walk = [])
        ∧ ∀ asid, asid / 8 = p → t.ctx asid = { s.ctx asid with prior := [] })
    ∧ (∀ asid, asid / 8 = p →
        let waits := s.accesses p fun G x => decide (G.vnum = asid) && x.accessing
        ∃ t, exec (.asflush p asid) s = .next t
          ∧ (∀ k, k / 9 = p → (∀ x ∈ (t.cluster k).tlb, x.asid ≠ asid) ∧ (t.cluster k).tile = [] ∧ (t.cluster k).stream = [])
          ∧ (∀ c, c / 36 = p → (∀ l ∈ (t.core c).lines, l.asid ≠ asid) ∧ (t.core c).const = [])
          ∧ ((∀ w ∈ waits, s.outstanding w = false) → finished t)
          ∧ ((∃ w ∈ waits, s.outstanding w = true) → (t.part p).port = ⟨false, false, some ⟨asid, s.now, waits⟩, none⟩))
    ∧ (∀ size page,
        let n := if size = 0 then 4096 else if size = 1 then 65536 else if size = 2 then 2 ^ 21 else 2 ^ 30
        let lo := page * 4096
        (size < 4 → page < 2 ^ 40 → lo % n = 0 → ∃ t, exec (.pgclean p size page) s = .next t
          ∧ (∀ k, k / 9 = p → ∀ x ∈ (t.cluster k).tlb, entryPa x.entry + pageSize x.lvl ≤ lo ∨ lo + n ≤ entryPa x.entry)
          ∧ (∀ c, c / 36 = p → ∀ l ∈ (t.core c).lines, l.pa < lo ∨ lo + n ≤ l.pa))
        ∧ ((4 ≤ size ∨ 2 ^ 40 ≤ page ∨ lo % n ≠ 0) → exec (.pgclean p size page) s = .next (s.portDone p true)))
    ∧ (∀ asid, asid / 8 ≠ p → exec (.genraise p asid) s = .next (s.portDone p true)
        ∧ exec (.asflush p asid) s = .next (s.portDone p true))
    ∧ (∀ seq, s.parkedBy p seq = none → exec (.replay p seq) s = .next ((s.portBegun p).portDone p false)
        ∧ exec (.escalate p seq) s = .next ((s.portBegun p).portDone p false))
    ∧ (∀ seq a k, s.parkedBy p seq = some a → s.parkOf a = some k →
        let u := s.portBegun p
        (s.agentSaved a = true → exec (.replay p seq) s = .next ((u.setPark a (some k.released)).portDone p false))
        ∧ (∀ g G, a = .scalar g → s.agentSaved a = false → s.gang? g = some G →
            (G.wait = .trap → exec (.replay p seq) s =
              .next ((u.putGang g { G.next with wait := .none, park := none }).portDone p false))
            ∧ (G.wait ≠ .trap → exec (.replay p seq) s = .next ((u.putGang g { G with
                wait := if G.sp.fmt = [] then .formatImage else .none, park := some k.released }).portDone p false)))
        ∧ (∀ r f lanes, (k.recs.find? fun r => decide (r.seq = seq)) = some r →
            ((pageGroups k.faults).find? fun f => decide (f.1.va / 4096 = r.page)) = some (f, lanes) →
            let ag := u.parkedAgent a
            exec (.escalate p seq) s = .next ((u.halt p ag { f with cause := 0x18, detail := seq }
              (if ag.kind = 0 then lanes else if ag.kind = 1 then 1 else 0)).portDone p false)))
    ∧ (∀ k, exec (.clreset p k) s = .next ((s.onCluster (9 * p + k)).foldl (fun s w => s.beginSave (s.together w))
        ((s.portBegun p).modPart p fun P => { P with port := { P.port with reset := some (k, s.now) } }))))
  ∧ (∀ (s : State) (p : Nat), (s.stopped p = true ∨ s.inService p = false) → ∀ a seq size page k, ∀ i ∈ [Instr.genraise p a, .asflush p a,
      .ptsync p, .pgclean p size page, .replay p seq, .escalate p seq, .clreset p k], exec i s = .next s)
  ∧ (∀ (s : State) (p : Nat), s.stopped p = false →
      ((s.part p).port.drain = none → exec (.flushTimeout p) s = .next s)
      ∧ (∀ d, (s.part p).port.drain = some d →
          ((∀ w ∈ d.waits, s.outstanding w = false) → exec (.flushTimeout p) s = .next (s.portDone p false))
          ∧ ((∃ w ∈ d.waits, s.outstanding w = true) →
              (s.now < d.start + 18800 → exec (.flushTimeout p) s = .next s)
              ∧ (d.start + 18800 ≤ s.now → exec (.flushTimeout p) s = .next (s.halt p Agent.none (plainFault 0x1A 0 0 d.detail) 0))))
      ∧ (∀ k start, (s.part p).port.reset = some (k, start) → k < 9 →
          (s.onCluster (9 * p + k) ≠ [] → s.now < start + 2 ^ 20 → exec (.clusterResetDeadline p) s = .next s)
          ∧ (s.onCluster (9 * p + k) = [] ∨ start + 2 ^ 20 ≤ s.now → ∃ t, exec (.clusterResetDeadline p) s = .next t
              ∧ (t.part p).port.reset = none ∧ (t.part p).port.done = true ∧ (t.part p).port.error = false
              ∧ t.cluster (9 * p + k) = Cluster.init
              ∧ (∀ i, i < 4 → t.core (4 * (9 * p + k) + i) = { Core.init with clkBase := t.now, issued := t.now })
              ∧ (∀ e ∈ [2 * (9 * p + k), 2 * (9 * p + k) + 1, 216 + (9 * p + k)], t.engine e = Engine.init))))

/-- R362, R389 to R391, R443, R450, R456, R475, R476, R480, R481: the start of the package and its failures, resets and the trip, gating,
pre-emption and return, a period of an arbiter, a function-level reset. What an attempt to start meets is given with the state, and one
that nothing describes is that of a part whose training and self-tests pass (log entry 30); how the signature is verified is a free value
of its operands (log entry 91). When a context counts as saved (log entry 60), the phase of the arbiters' periods and
what a table write leaves in the buckets (34), and what memory outside HBM holds after a start (7) are the model's choices. -/
def Obligations.StartAndLifecycle : Prop :=
  let signed := fun (s : State) => BootFacts.good.signed s.pkg.romKey s.pkg.debugFuse;
  (∀ (F : BootFacts) (romKey : Nat) (fuse : Bool), F.signed romKey fuse =
      (decide (Config.shake256 F.key = romKey) && Config.xmssVerifies F.key [F.image] F.sig && !(fuse && F.production)))
  ∧ (∀ s : State, s.pkg.power = .starting →
    (s.pkg.facts = [] → s.pkg.svnFuse = 0 → ∃ t, exec .powerOn s = .next t ∧ t.gangs = [] ∧ t.grids = []
      ∧ (∀ a, 2 ^ 44 ≤ a → Memory.byte t.mem a = Memory.byte s.mem a)
      ∧ (signed s = true → t.pkg.power = .running ∧ t.pkg.attempts = 0 ∧ t.pkg.parts = 0xFFF ∧ t.pkg.sectors = 0x3F
        ∧ ∀ a, a < 2 ^ 44 → Memory.byte t.mem a = 0)
      ∧ (signed s = false → t.pkg.power = .dead ∧ t.pkg.attempts = 3 ∧ t.pkg.reason = 0x01))
    ∧ (∀ F1 F2 F3 rest, s.pkg.facts = F1 :: F2 :: F3 :: rest → (∀ F ∈ [F1, F2, F3], F.signed s.pkg.romKey s.pkg.debugFuse = false) →
        ∃ t, exec .powerOn s = .next t ∧ t.pkg.power = .dead ∧ t.pkg.attempts = 3 ∧ t.pkg.reason = 0x01 ∧ t.pkg.rsect = 0xFF))
  ∧ (∀ s : State, s.pkg.power ≠ .off →
      (∃ t, exec .cxlReset s = .next t ∧ t.gangs = [] ∧ t.wgs = [] ∧ t.grids = []
        ∧ (∀ a, 2 ^ 44 ≤ a → Memory.byte t.mem a = Memory.byte s.mem a)
        ∧ (∀ a, Memory.byte t.mem a = Memory.byte s.mem a ∨ Memory.byte t.mem a = 0)
        ∧ (s.pkg.facts = [] → s.pkg.svnFuse = 0 → (signed s = true → ∀ a, a < 2 ^ 44 → Memory.byte t.mem a = 0)
          ∧ (signed s = false → t.mem = s.mem)))
      ∧ (∃ t, exec .thermalSupplyTrip s = .next t ∧ t.pkg.power = .off ∧ t.out = s.out ++ [.mctpTrip] ∧ t.gangs = []
          ∧ t.pkg.svnFuse = s.pkg.svnFuse ∧ t.pkg.debugFuse = s.pkg.debugFuse
          ∧ ∀ a, Memory.byte t.mem a = if a < 2 ^ 44 then 0 else Memory.byte s.mem a))
  ∧ (∀ (s : State) (k : Nat),
      ((s.cluster k).gated = false → exec (.clusterUngate k) s = .next s)
      ∧ ((s.cluster k).gated = true → ∃ t, exec (.clusterUngate k) s = .next t ∧ (t.cluster k).gated = false
          ∧ ∀ i, i < 4 → t.clkOf (4 * k + i) = 0)
      ∧ (s.stopped (k / 9) = false → s.clusterIdle k = true → ∃ t, exec (.clusterPowerGate k) s = .next t ∧ (t.cluster k).gated = true
          ∧ (t.cluster k).tlb = [] ∧ (t.cluster k).walk = [] ∧ (t.cluster k).tile = [] ∧ (t.cluster k).stream = []
          ∧ (∀ i, i < 4 → (t.core (4 * k + i)).lines = [] ∧ (t.core (4 * k + i)).const = [] ∧ (t.core (4 * k + i)).pats = []
              ∧ t.clkOf (4 * k + i) = 0)))
  ∧ (∀ (s : State) (w : Nat) (W : Wg), s.wg? w = some W → s.stopped (W.core / 36) = false →
      (∀ D, s.grid? W.grid = some D → D.coh = 0 → W.stage = .running → exec (.preemptContext (.workgroup w)) s =
        .next (({ s with nextId := s.nextId + 1 } : State).putWg w { W with stage := .saving, ctx := some s.nextId }))
      ∧ (W.stage = .saving →
          let all := (s.wgs.filter fun kv => decide (kv.2.ctx = W.ctx) && decide (kv.2.stage = .saving)).map Prod.fst
          ((∃ x ∈ all, ∀ X, s.wg? x = some X → s.wgSaveReady x X = false) → exec (.preemptEngineAck w) s = .next s)
          ∧ (all = [w] → s.wgSaveReady w W = true → exec (.preemptEngineAck w) s =
              .next ((s.saveWg w).enterBack (W.core / 36) (s.together w))))
      ∧ (W.stage = .setup → W.saved = true → s.waysReady w W = true → W.away = [] →
          (∀ g ∈ W.gangs, ∀ G, s.gang? g = some G → G.pendingReplays g = []) → exec (.contextRestore w) s =
            .next (((s.chargeImage w false).acquireCores W).modWg w fun W => { W with stage := .running, saved := false, away := [] })))
  ∧ (∀ (s : State) (v : Nat),
      (∃ t, exec (.preemptContext (.vdev v)) s = .next t)
      ∧ (s.vdevLive v = false → exec (.functionLevelReset (v + 1)) s = .next s)
      ∧ (s.vdevLive v = true → ∃ t, exec (.functionLevelReset (v + 1)) s = .next t ∧ (t.vdev v).queue = [] ∧ (t.vdev v).chains = []))
  ∧ (∀ (s : State) (arb : Nat),
      let n := SMap.getD arb 0 s.periods
      (s.now < (n + 1) * 1024 → exec (.bucketRefill arb) s = .next s)
      ∧ ((n + 1) * 1024 ≤ s.now → ∃ t, exec (.bucketRefill arb) s = .next t ∧ SMap.getD arb 0 t.periods = n + 1
          ∧ (∀ key b, SMap.find? key s.buckets = some b →
              let f := s.refill arb (key % 128)
              let d := s.burst arb (key % 128) * f
              SMap.find? key t.buckets = some (if key / 128 = arb then
                (⟨min (min b.level d + f) d, 0, b.brw, s.burst arb (key % 128), f, bit (s.rate (key % 128) (arbIndex arb)) 16⟩ : Bucket)
                else b))))

/-- R303, R376, R381, R392, R425, R427, R438, R440, R441, R453, R477 to R479, R482: what the package mailbox answers and does, the remap
registers, the sideband, and the debugger's enable. What the mailbox refuses beyond the rules (log entry 32), what a partition
reset keeps (33), what a remap loses (35), the DET bit at the creation of a virtual device (72), a sideband reading (38) and how signatures are
made (91) are the model's choices. -/
def Obligations.MailboxRequests : Prop :=
  (∀ s : State, s.up = true →
    (∀ p i ctl rates sprues, s.pkg.parts / 2 ^ p % 2 = 0 → exec (.vdevTableWrite p i ctl rates sprues) s = .next s.mailRefused)
    ∧ (∀ p, s.pkg.parts / 2 ^ p % 2 = 0 → (∀ on, exec (.strictModeSet p on) s = .next s.mailRefused)
        ∧ (∀ lo hi, exec (.readGrantSet p lo hi) s = .next s.mailRefused) ∧ exec (.partitionReset p) s = .next s.mailRefused)
    ∧ (∀ p i (ctl : DWord) (rates : List DWord) sprues, s.pkg.parts / 2 ^ p % 2 = 1 →
        let P := s.part p
        let v := 8 * p + i
        let en := decide (ctl.toNat / 2 ^ 63 % 2 = 1)
        let ws := rates.map BitVec.toNat
        let table := SMap.put i ⟨en, decide (ctl.toNat / 2 ^ 62 % 2 = 1), ws⟩ P.table
        let legal := (en = true → ctl.toNat % 2 ^ 62 = 0 ∧ ∀ w ∈ ws.zipIdx, rateOk w.2 w.1 = true) ∧ sumsOk table = true
        let refused := s.mailRefused.modPart p fun P => { P with tblError := true }
        let taken := ∃ n ∈ sprues, ∃ u, SMap.find? n P.sprues = some u ∧ u ≠ v
        let mine := P.sprues.filter fun x => decide (x.2 ≠ v)
        (¬legal ∨ taken → exec (.vdevTableWrite p i ctl rates sprues) s = .next refused)
        ∧ (legal → ¬taken → en = true → exec (.vdevTableWrite p i ctl rates sprues) s = .next ((s.holdBuckets v).modPart p fun P =>
            { P with table := table, sprues := sprues.foldl (fun m n => SMap.put n v m) mine, tblError := false }).mailDone)
        ∧ (legal → ¬taken → en = false → (s.entry v).en = true → i < 8 → s.vdevBusy v = true →
            exec (.vdevTableWrite p i ctl rates sprues) s = .next refused)
        ∧ (legal → ¬taken → en = false → i < 8 → ((s.entry v).en = true → s.vdevBusy v = false) →
            exec (.vdevTableWrite p i ctl rates sprues) s = .next ((s.holdBuckets v).modPart p fun P =>
              { P with table := table, sprues := mine, tblError := false }).mailDone))
    ∧ (∀ shares : List Nat, (∀ p, p < 12 → shares.getD p 0 ≠ s.share p → s.pkg.parts / 2 ^ p % 2 = 1) →
        (1024 < shares.sum → exec (.portShareWrite shares) s = .next s.mailRefused)
        ∧ (shares.sum ≤ 1024 → ∃ t, exec (.portShareWrite shares) s = .next t ∧ ∀ p, p < 12 → t.share p = shares.getD p 0))
    ∧ (∀ p, s.pkg.parts / 2 ^ p % 2 = 1 →
        (∀ on, exec (.strictModeSet p on) s = .next (s.modPart p fun P => { P with strict := on }).mailDone)
        ∧ (∀ lo hi q, stackOf lo = some q → q ≠ p → lo < hi → hi ≤ stackBase q + 0xF00000000 → s.pkg.parts / 2 ^ q % 2 = 1 →
            exec (.readGrantSet p lo hi) s = .next (s.modPart p fun P => { P with readOnly := P.readOnly ++ [(lo, hi)] }).mailDone)
        ∧ ((s.part p).halted = false → exec (.partitionReset p) s = .next s.mailRefused)
        ∧ ((s.part p).halted = true → ∃ t, exec (.partitionReset p) s = .next t ∧ t.stopped p = false
            ∧ (∀ kv ∈ t.gangs, kv.2.vnum / 8 ≠ p) ∧ (∀ kv ∈ t.grids, kv.2.vnum / 8 ≠ p)
            ∧ (t.part p).fqProd = (s.part p).fqProd ∧ (t.part p).seq = (s.part p).seq ∧ (t.part p).table = (s.part p).table
            ∧ (t.part p).acceptSeq = 1))
    ∧ (∀ svn key sig, exec (.svnFuseRaise svn (key, sig)) s = .next (
        if decide (Config.shake256 key = s.pkg.romKey) && Config.xmssVerifies key [svn] sig then
          ({ s with pkg := { s.pkg with svnFuse := max svn s.pkg.svnFuse } } : State).mailDone
        else s.mailRefused))
    ∧ (∀ nonce,
        let words := [s.pkg.digest, s.pkg.fwver, s.pkg.svn] ++ s.pkg.bootWords
        (s.pkg.aka = none ∨ 1024 ≤ s.pkg.reports → exec (.attestationRequest nonce) s = .next s.mailRefused)
        ∧ (∀ key leaf cert, s.pkg.aka = some (key, leaf, cert) → s.pkg.reports < 1024 → exec (.attestationRequest nonce) s =
            .next ((({ s with pkg := { s.pkg with reports := s.pkg.reports + 1 } } : State).emit
              (.report key leaf cert s.pkg.reports nonce words (Config.xmssSign key s.pkg.reports (words ++ nonce.map BitVec.toNat)))).mailDone)))
    ∧ (∀ sector (val : Word), val.toNat / 2 ^ 4 % 2 ^ 27 = 0 →
        let idle := fun (p : Nat) => (s.part p).halted = true ∨ s.holdsWork p = false
        (¬(idle (2 * sector) ∧ idle (2 * sector + 1)) → exec (.remapRegisterWrite sector val) s =
          .next { s with pkg := { s.pkg with remapErr := true } })
        ∧ (idle (2 * sector) → idle (2 * sector + 1) → ∃ t, exec (.remapRegisterWrite sector val) s = .next t
            ∧ SMap.find? sector t.pkg.remap = some val ∧ t.pkg.remapErr = false)))
  ∧ (∀ s : State, s.up = false → ∀ p i ctl rates sprues shares lo hi on svn signed nonce, ∀ j ∈ [Instr.vdevTableWrite p i ctl rates sprues,
      .portShareWrite shares, .readGrantSet p lo hi, .strictModeSet p on, .partitionReset p, .svnFuseRaise svn signed,
      .attestationRequest nonce], exec j s = .next s)
  ∧ (∀ s : State, s.pkg.power ≠ .off →
      (∀ v on, exec (.debuggerEnable v on) s = .next (s.modVdev v fun V => { V with debug := on }))
      ∧ (exec (.sidebandQuery .bootStatus) s = .next (s.emit (.mctp s.pkg.bootWords)))
      ∧ (s.pkg.power = .dead → ∀ q, q ≠ .bootStatus → exec (.sidebandQuery q) s = .next s)
      ∧ (s.pkg.power ≠ .dead → (∃ a b, exec (.sidebandQuery .temperaturesAndPower) s = .next ({ s.emit (.mctp [a, b]) with fresh := s.fresh + 2 } : State))
        ∧ (∀ p, exec (.sidebandQuery (.counterPage p)) s = .next (s.emit (.mctp ((List.range 512).map fun i =>
          s.read64 (stackBase p + (s.part p).ctrPage + 8 * i)))))
        ∧ (∀ p, exec (.sidebandQuery (.haltState p)) s = .next (s.emit (.mctp ([(s.part p).halted.toNat, (s.part p).hseq]
          ++ (List.range 1024).map fun i => s.read64 (stackBase p + (s.part p).stopBase + 8 * i)))))
        ∧ (∀ p, exec (.sidebandQuery (.partitionReset p)) s = .next (if (s.part p).halted then s.resetPartition p else s))))

/-! ## The whole machine -/

/-- R347 to R353: where no cache holds anything of an address space and its context is settled, a translation walks from ROOT at
level 5 through the tables in the partition's stack, eight bytes at each, by the bits of the address that belong to the level (no table
word standing in a shadow cell or in the counter that a transfer of a line raises, which the walk's own reads may change). An
address space not in use and an entry with V clear are the translation fault, a bad entry is the bad-entry fault, a leaf with MIG
the tier-miss, a missing right the protection fault; else the leaf's page and the address's low bits are the physical address. The level in the record of an
address space not in use is the model's reading (log entry 23). -/
def Obligations.TranslationWalk : Prop :=
  ∀ (s : State) (k asid va L : Nat) (acc : Acc) (T : Nat → Nat),
    let p := partOfVnum asid
    let c := s.ctx asid
    let word := fun n => T n + 8 * (va / 2 ^ (3 + 9 * n) % 512)
    let e := fun n => s.read64 (word n)
    let x := e L
    let size := 2 ^ (3 + 9 * L)
    let page := x / 2 ^ 12 % 2 ^ 40 * 4096
    let fault := fun cause lvl ppn d => (⟨cause, va, c.gen, lvl, acc.code, ppn, d⟩ : FaultInfo)
    let got := (s.translate k asid acc false va).2
    va < 0x01FFFFF000000000 → asid < 96 → s.held = [] → c.prior = [] → (∀ t ∈ (s.cluster k).tlb, t.asid ≠ asid) → (∀ w ∈ (s.cluster k).walk, w.1 ≠ asid) →
      (c.en = false → got = .error (fault 0x01 5 0 0))
      ∧ (c.en = true → T 5 = c.root → 1 ≤ L → L ≤ 5 →
        (∀ n, n ≤ 5 → L ≤ n → p * 0x1000000000 ≤ T n ∧ T n + 4096 ≤ p * 0x1000000000 + 0xF00000000) →
        (∀ n, n ≤ 5 → L ≤ n → s.cellsOf (word n / 256) = [] ∧ ∀ q,
            let raised := stackBase q + (s.part q).ctrPage + 0x108
            word n + 8 ≤ raised ∨ raised + 8 ≤ word n) →
        (∀ n, n ≤ 5 → L < n → e n < 2 ^ 52 ∧ e n % 4096 = 1 ∧ T (n - 1) = e n / 4096 * 4096) → (L = 1 → x / 2 ^ 60 % 2 = 0) →
        (x % 2 = 0 → got = .error (fault 0x01 L 0 0))
        ∧ (x % 2 = 1 → (x / 2 ^ 63 % 2 = 1 ∨ x / 2 ^ 52 % 2 ^ 8 ≠ 0 ∨ x / 2 ^ 9 % 8 ≠ 0 ∨ x / 2 % 16 ≠ 0 ∨ (x / 2 ^ 7 % 2 = 1 ∧ 4 ≤ L)
              ∨ (x / 2 ^ 7 % 2 = 0 ∧ L = 1) ∨ (x / 2 ^ 7 % 2 = 1 ∧ page % size ≠ 0)) →
            got = .error (fault 0x11 L (x / 2 ^ 12 % 2 ^ 40) x))
        ∧ (x % 2 = 1 → x / 2 ^ 7 % 2 = 1 → x / 2 ^ 63 % 2 = 0 → x / 2 ^ 60 % 2 = 0 → x / 2 ^ 52 % 2 ^ 8 = 0 → x / 2 ^ 9 % 8 = 0 →
          x / 2 % 16 = 0 → L ≤ 3 → page % size = 0 →
          (x / 2 ^ 61 % 2 = 1 → (tierOf page).isSome = true → got = .error (fault 0x02 L (x / 2 ^ 12 % 2 ^ 40) (if L = 1 then 0 else L)))
          ∧ (x / 2 ^ 61 % 2 = 0 → p * 0x1000000000 ≤ page → page + size ≤ p * 0x1000000000 + 0xF00000000 →
              let r := x / 2 ^ 5 % 2 = 1
              let w := x / 2 ^ 6 % 2 = 1
              let may := match acc with
                | .read => r
                | .write => w
                | .rmw => r ∧ w
                | .fetch => x / 2 ^ 8 % 2 = 1
              (may → got = .ok ⟨page + va % size, decide w, decide (x / 2 ^ 62 % 2 = 1)⟩)
              ∧ (¬may → got = .error (fault 0x10 L (x / 2 ^ 12 % 2 ^ 40) 1)))))

/-- R170, R173, R177, R181 to R187: what a word of the scalar stream that touches registers only leaves alone: every scalar register and
mask but those it names, C where it is not said to write it, the lane registers, the call stack but for calls, the
special registers, queued runs and outstanding operations, every other gang, memory and all the rest of the device. -/
def Obligations.ScalarFrame : Prop :=
  ∀ (s t : State) (G : Gang) (d a b : BitVec 7) (cond : BitVec 5) (i12 : BitVec 12) (i19 : BitVec 19) (off : BitVec 15) (rc : Bool),
    let one := [d.toNat]
    let two := [d.toNat, d.toNat + 1]
    (∀ e ∈ ([(.sadd d a b, one, [], false), (.ssub d a b, one, [], false), (.smul d a b, one, [], false), (.smulh d a b, one, [], false),
        (.smulhN32 d a b, one, [], false), (.sand d a b, one, [], false), (.sor d a b, one, [], false), (.sxor d a b, one, [], false),
        (.sshl d a b, one, [], false), (.sshr d a b, one, [], false), (.ssra d a b, one, [], false), (.smin d a b, one, [], false),
        (.sminN32 d a b, one, [], false), (.smax d a b, one, [], false), (.smaxN32 d a b, one, [], false), (.ssel d a b, one, [], false),
        (.smov d a, one, [], false), (.spopc d a, one, [], false), (.sffs d a, one, [], false), (.sbrev d a, one, [], false),
        (.saddB64 d a b, two, [], false), (.ssubB64 d a b, two, [], false), (.scmp d a b cond, one, [], true),
        (.saddi d a i12, one, [], false), (.saddiB64 d a i12, two, [], false), (.sli d i19, one, [], false),
        (.sliH d i19, one, [], false), (.mand d a b, [], one, false), (.mor d a b rc, [], one, false), (.mandn d a b, [], one, false),
        (.mxor d a b, [], one, false), (.mnot d a, [], one, false), (.mmov d a rc, [], one, false), (.mpop d a, one, [], true),
        (.mfirst d a, one, [], true), (.jmp off, [], [], false), (.bcT off, [], [], false), (.bcF off, [], [], false),
        (.bz d off, [], [], false), (.bnz d off, [], [], false), (.nop, [], [], false)] : List (Instr × List Nat × List Nat × Bool)),
      s.ScalarTurn G e.1 → exec e.1 s = .next t →
        ∃ H, t.gang? s.cur = some H
          ∧ (∀ n, n ∉ e.2.1 → H.sreg n = G.sreg n) ∧ (∀ k, k ∉ e.2.2.1 → H.mreg k = G.mreg k)
          ∧ (e.2.2.2 = false → H.c = G.c)
          ∧ H.lane = G.lane ∧ H.sp = G.sp ∧ H.stack = G.stack ∧ H.runs = G.runs ∧ H.pend = G.pend ∧ H.eng = G.eng
          ∧ H.life = G.life ∧ H.wait = G.wait ∧ H.owed = G.owed ∧ H.restart = G.restart ∧ H.place = G.place
          ∧ (∀ g, g ≠ s.cur → t.gang? g = s.gang? g)
          ∧ (∀ x, Memory.byte t.mem x = Memory.byte s.mem x) ∧ t.side = s.side ∧ t.bad = s.bad ∧ t.sideBad = s.sideBad
          ∧ t.wgs = s.wgs ∧ t.grids = s.grids ∧ t.clusters = s.clusters ∧ t.engines = s.engines ∧ t.twins = s.twins
          ∧ t.parts = s.parts ∧ t.vdevs = s.vdevs ∧ t.ctxs = s.ctxs ∧ t.buckets = s.buckets ∧ t.pkg = s.pkg ∧ t.out = s.out)

/-- R32, R34, R116, R119, R128 to R139: what an integer word of the lane stream leaves alone, unless it halts the partition: the value
and the poison of every lane register but its destination's in its active lanes (a last-use mark may clear LIVE), every
mask but the one it names, the scalar registers and the rest of the gang, every other gang, and, unless a register has an uncorrectable
error, whose entry is written, memory. -/
def Obligations.LaneWordFrame : Prop :=
  ∀ (s t : State) (G : Gang) (f : L3),
    let named := [f.aux.toNat % 8]
    (∀ e ∈ ([(.iadd f, []), (.isub f, []), (.iaddc f, named), (.imul f, []), (.imulh f, []), (.imad f, []), (.iabs f, []), (.ineg f, []),
        (.imin f, []), (.imax f, []), (.iclamp f, []), (.and f, []), (.or f, []), (.xor f, []), (.not f, []), (.shl f, []), (.shr f, []),
        (.sra f, []), (.rot f, []), (.bfx f, []), (.bfi f, []), (.popc f, []), (.clz f, []), (.brev f, []), (.iset f, named),
        (.sel f, []), (.movl f, []), (.lea f, []), (.lea64 f, []), (.cvti f, []), (.idot4 f, [])] : List (Instr × List Nat)),
      s.gang? s.cur = some G → s.stopped (partOfVnum G.vnum) = false → exec e.1 s = .next t →
      t.stopped (partOfVnum G.vnum) = false →
        ∃ H, t.gang? s.cur = some H
          ∧ (∀ key, (∀ l ∈ G.active f.msel.toNat, ∀ k, k < 2 →
                key ≠ l * 1024 + G.rkey (s.regsOf G) f.dst.file (f.dst.idx.toNat + k)) →
              (SMap.find? key H.lane.regs).map (fun c => (c.val, c.p)) = (SMap.find? key G.lane.regs).map (fun c => (c.val, c.p)))
          ∧ (∀ k, k ∉ e.2 → H.mreg k = G.mreg k)
          ∧ (∀ k l, l ∉ G.active f.msel.toNat → l < 32 → (H.mreg k).getLsbD l = (G.mreg k).getLsbD l)
          ∧ (∀ n, H.sreg n = G.sreg n) ∧ H.c = G.c ∧ H.pc = G.pc ∧ H.sp = G.sp ∧ H.stack = G.stack ∧ H.pend = G.pend
          ∧ H.lane.scale = G.lane.scale ∧ H.lane.pos = G.lane.pos ∧ H.eng = G.eng ∧ H.life = G.life ∧ H.wait = G.wait
          ∧ H.owed = G.owed ∧ H.restart = G.restart ∧ H.place = G.place
          ∧ (∀ g, g ≠ s.cur → t.gang? g = s.gang? g)
          ∧ (G.lane.err = [] → (∀ x, Memory.byte t.mem x = Memory.byte s.mem x) ∧ t.side = s.side ∧ t.bad = s.bad ∧ t.sideBad = s.sideBad)
          ∧ t.wgs = s.wgs ∧ t.grids = s.grids ∧ t.clusters = s.clusters ∧ t.engines = s.engines ∧ t.twins = s.twins
          ∧ t.parts = s.parts ∧ t.vdevs = s.vdevs ∧ t.ctxs = s.ctxs ∧ t.pkg = s.pkg ∧ t.out = s.out)

/-- R366, R369, R370, R372, R378, R379: a halting fault writes one record of eight words at the producer's place, takes the next SEQ,
and, if it is the first, raises the halt line and sends the message; no other byte of memory changes but a shadow cell of the record's line
and the counters of the bursts that a line's transfer saves. A record that finds the queue full waits for room. A fault that does
not halt parks the gang at its word, which has taken no effect. In a partition whose halt line is raised no word of
either stream issues. A record's fields are read back where its place overlaps no counter that a line's transfer raises. The place of the
queue in the stack is the model's (log entry 39). -/
def Obligations.TakingAFault : Prop :=
  (∀ (s : State) (p pcm : Nat) (ag : Agent) (f : FaultInfo),
    let P := s.part p
    let at' := stackBase p + P.fqBase + 64 * (P.fqProd % 4096)
    let t := s.halt p ag f pcm
    let Q := t.part p
    let field := fun (i lo n : Nat) => ofBytes (t.readPa (at' + 8 * i) 8) / 2 ^ lo % 2 ^ n
    let room := P.backlog = [] ∧ P.fqProd < P.fqCons + 4096
    let apart := ∀ q, let raised := stackBase q + (s.part q).ctrPage + 0x108; at' + 64 ≤ raised ∨ raised + 8 ≤ at'
    Q.seq = P.seq + 1
    ∧ (¬room → Q.fqProd = P.fqProd ∧ Q.backlog = P.backlog ++ [recordWords ag f P.seq pcm false false 0 true] ∧ t.mem = s.mem)
    ∧ (room → isHost at' = false → Q.fqProd = P.fqProd + 1 ∧ Q.backlog = []
      ∧ (∀ a, (a < at' ∨ at' + 64 ≤ a) → (∀ c ∈ s.cellsOf (at' / 256), a < c.pa ∨ c.pa + (c.image.length + 16) ≤ a) →
          (∀ q, let raised := stackBase q + (s.part q).ctrPage + 0x108
            a < raised ∨ raised + 8 ≤ a) → Memory.byte t.mem a = Memory.byte s.mem a)
      ∧ (apart → field 0 0 48 = P.seq % 2 ^ 48 ∧ field 0 50 1 = 1
        ∧ (f.cause < 256 → field 0 56 8 = f.cause) ∧ field 1 0 57 = f.va % 2 ^ 57 ∧ (ag.kind < 8 → field 1 61 3 = ag.kind)
        ∧ field 5 0 57 = ag.pc % 2 ^ 57 ∧ field 7 0 64 = f.detail % 2 ^ 64))
    ∧ (s.stopped p = false → Q.halting = true ∧ Q.hseq = P.seq ∧ Q.hclk = s.now ∧ t.out = s.out ++ [.msix] ∧ t.stopped p = true)
    ∧ (s.stopped p = true → Q.hseq = P.hseq ∧ Q.toStop = P.toStop ∧ t.out = s.out))
  ∧ (∀ (s : State) (g : Nat) (G : Gang) (f : FaultInfo), s.gang? g = some G →
      let t := s.scalarFault g G f
      (¬(0x10 ≤ f.cause ∧ f.cause ≤ 0x1A) → ∃ H, t.gang? g = some H ∧ H.wait = .scalarPark ∧ H.pc = G.pc ∧ H.s = G.s ∧ H.m = G.m
        ∧ H.lane = G.lane ∧ (t.part (partOfVnum G.vnum)).groups = (s.part (partOfVnum G.vnum)).groups ++ [.scalar g]
        ∧ t.mem = s.mem)
      ∧ (0x10 ≤ f.cause ∧ f.cause ≤ 0x1A → t = s.halt (partOfVnum G.vnum) (s.scalarAgent G 1 G.pc) f 1))
  ∧ (∀ (s : State) (G : Gang) (i : Instr), s.gang? s.cur = some G → s.stopped (partOfVnum G.vnum) = true → encode i ≠ [] →
      exec i s = .next s)

/-- R42, R230, R234, R434: reading what was written: a byte of memory holds the last byte written there, words are little-endian, a
store poisons or cleans the sectors it touches, and a load that follows a store which hit the core's L1 gives the bytes
stored. -/
def Obligations.MemoryReadsBack : Prop :=
  (∀ (m : Memory) (a x : Nat) (bs : List Byte), Memory.byte (Memory.write m a bs) x =
    if a ≤ x ∧ x < a + bs.length then bs.getD (x - a) 0 else Memory.byte m x)
  ∧ (∀ (m : Memory) (a : Nat) (bs : List Byte), Memory.read (Memory.write m a bs) a bs.length = bs)
  ∧ (∀ n v, v < 2 ^ (8 * n) → ofBytes (toBytes n v) = v ∧ (toBytes n v).length = n)
  ∧ (∀ (s : State) (pa : Nat) (bs : List Byte) (p : Bool) (sec : Nat), s.bad.Pairwise (· < ·) →
      let t := s.writePa pa bs p
      let meets := 64 * sec < pa + bs.length ∧ pa < 64 * sec + 64
      t.mem = Memory.write s.mem pa bs ∧ t.side = s.side ∧ t.bad.Pairwise (· < ·)
      ∧ (¬meets → (sec ∈ t.bad ↔ sec ∈ s.bad))
      ∧ (bs ≠ [] → meets → (p = true → sec ∈ t.bad)
          ∧ (p = false → pa ≤ 64 * sec → 64 * sec + 64 ≤ pa + bs.length → sec ∉ t.bad)
          ∧ (p = false → ¬(pa ≤ 64 * sec ∧ 64 * sec + 64 ≤ pa + bs.length) → (sec ∈ t.bad ↔ sec ∈ s.bad))))
  ∧ (∀ (s : State) (r : Req) (pa a : Nat) (bs : List Byte) (p lost : Bool),
      let raised := fun q => stackBase q + (s.part q).ctrPage + 0x108
      bs ≠ [] → pa % 256 + bs.length ≤ 256 → ¬(pa ≤ a ∧ a < pa + bs.length) → (∀ q, ¬(raised q ≤ a ∧ a < raised q + 8)) →
        ((∀ c ∈ s.cellsOf (pa / 256), ¬(c.pa ≤ a ∧ a < c.pa + c.image.length + 16)) →
          Memory.byte (s.homeWrite r pa bs p).mem a = Memory.byte s.mem a)
        ∧ Memory.byte (s.putAtomic r lost pa bs p).mem a = Memory.byte s.mem a)
  ∧ (∀ (l : L1Line) (off a g : Nat) (bs : List Byte) (p sent : Bool), ¬(off ≤ a ∧ a < off + bs.length) →
      Memory.byte (l.merge off bs p sent g).bytes a = Memory.byte l.bytes a
      ∧ ((l.merge off bs p sent g).dm.testBit a = l.dm.testBit a))
  ∧ (∀ (s : State) (core asid g va : Nat) (l : L1Line) (bs : List Byte) (p : Bool),
      s.held = [] → (s.core core).line? asid (s.ctx asid).gen va = some l → l.wp = true → bs ≠ [] → va % 256 + bs.length ≤ 256 →
      let r := s.store core asid g false 0 va bs p
      r.2 = none ∧ r.1.mem = s.mem ∧ ∃ u d, r.1.load core asid false 0 va bs.length = (u, .ok d) ∧ d.bytes = bs)

/-- R170, R224, R433, R434, R438, R440, R453: what reset leaves where the spec gives the value; and reset memory is in canonical form. -/
def Obligations.ResetState : Prop :=
  let s := State.reset
  s.Canon
  ∧ (∀ a, Memory.byte s.mem a = 0) ∧ (∀ line, s.readSide line = List.replicate 17 0) ∧ (∀ a, s.sectorBad a = false)
  ∧ (∀ v, (s.entry v).en = false ∧ (s.entry v).det = true ∧ (s.entry v).rates = [0, 0, 0, 0, 0, 0, 0])
  ∧ (∀ p, s.share p = 85)
  ∧ (∀ v, (s.vdev v).logSize = 7 ∧ (s.vdev v).logBase = 0 ∧ (s.vdev v).logProd = 0 ∧ (s.vdev v).logCons = 0 ∧ (s.vdev v).gtBase = 0
      ∧ (∀ c, s.launchRecord v c = 0) ∧ (∀ w, SMap.getD w 0 (s.vdev v).wbase = 0 ∧ SMap.getD w 0 (s.vdev v).wctl = 0))
  ∧ (∀ a, (s.ctx a).en = false)
  ∧ (∀ c, (s.core c).l1Ways = List.range 12 ∧ (s.core c).lines = [] ∧ (s.core c).const = [] ∧ (s.core c).pats = [])
  ∧ (∀ k, (s.cluster k).tlb = [] ∧ (s.cluster k).walk = [] ∧ (s.cluster k).tile = [] ∧ (s.cluster k).stream = []
      ∧ (s.cluster k).tasks = [] ∧ (s.cluster k).sprues = [])
  ∧ (∀ e, (s.engine e).chains = []) ∧ s.gangs = [] ∧ s.wgs = [] ∧ s.grids = []

/-- R44, R51, R55, R58 to R64, R70: words written out in the spec, with the instruction each stands for. -/
def Obligations.DecodeSpecWords : Prop :=
  decodeScalar 0xE8000000 = .ok .nop ∧ decodeScalar 0x10200100 = .ok (.sli 4 0x100) ∧ decodeScalar 0x1421FC00 = .ok (.sliH 4 0x1FC00)
  ∧ decodeScalar 0x0C284010 = .ok (.saddi 5 4 16) ∧ decodeScalar 0x80200004 = .ok (.lrun 1 4)
  ∧ decodeScalar 0x843FFFFC = .ok (.waitc 0 15 15 15 15 15 0) ∧ decodeScalar 0x60408005 = .ok (.bz 1 5)
  ∧ decodeScalar 0x54002001 = .ok (.mmov 0 2 true) ∧ decodeScalar 0x8C000013 = .ok (.fence 4 3)
  ∧ decodeScalar 0xC4414008 = .ok (.sldB64 8 20 8) ∧ decodeScalar 0xF4514000 = .ok (.cbgoLadle 10 20 0)
  ∧ decodeScalar 0xE0300008 = .ok (.getsr 6 8) ∧ decodeScalar 0xD4028580 = .ok (.spawn 40 44)
  ∧ decodeLane 0x100502A05903000804000000 =
      .ok (.iadd ⟨5, ⟨.v, 10⟩, ⟨true, .v, 11⟩, ⟨false, .q, 3⟩, ⟨false, .v, 0⟩, 2, 0, 0, true, false, 0, 0, 0, 0⟩)
  ∧ decodeLane 0x320080001003000000000000 =
      .ok (.fmul ⟨0, ⟨.t, 0⟩, ⟨false, .v, 2⟩, ⟨false, .v, 3⟩, ⟨false, .v, 0⟩, 0, 0, 0, false, false, 0, 0, 0, 0⟩)
  ∧ decodeLane 0x700003000000004000400000 =
      .ok (.ldg ⟨0, ⟨.v, 12⟩, ⟨false, .v, 0⟩, ⟨false, .v, 0⟩, 0x40, 0, 0, 0, 4, 0, 0, 0, 0⟩)
  ∧ decodeLane 0x8100004080000000C2800003 = .ok (.mma ⟨0, 0, 16, 32, 0, 0, 0, 0, 3, 0, false, true, 8, 0, 3⟩)
  ∧ decodeLane 0xF00103000000000000000000 = .ok (.endrun ⟨1, ⟨.v, 12⟩, ⟨.v, 0⟩, ⟨.v, 0⟩, ⟨.v, 0⟩⟩)

/-- R42, R43, R70, R72, R176 to R178, R444, R447: a step whose turn is a gang's scalar stream runs the word that the bytes at its PC
decode to, where the quarter chooses it; one whose turn is its lane stream runs the next word of its oldest run; the choice is noted where
a word has issued; a word that decodes to nothing is the illegal-instruction fault; a word that is not chosen, and a turn that asks an
arbiter for what it cannot get, waits, and nothing of it happens but that it queues; a fetch gives the word that memory holds, or one that
it held; an event, what comes from outside and the clock take their turns, and the clock promotes a word that has waited eligible
for 4,096 clk. Whose turn it is stands in the agenda or is free: that is the model's own device, as is the way a program comes to run
(log entry 4); that the clock does not pass over an eligible lane word that has room is the model's as well (log entry 42). -/
def Obligations.StepRunsTheWord : Prop :=
  let done := fun (turn : Turn) (q : State) (o : Host.Outcome State Fault Refusal) => (match o with
    | .next u => (match u.ask.short with
      | some r => .next (q.waitFor u.ask.granted r)
      | none => .next ({ u with queued := u.queued.filter fun w => decide (w.turn ≠ some turn), ask := Asking.none } : State).countFound)
    | o => o : Host.Outcome State Fault Refusal)
  let noted := fun (q : State) (g : Nat) (G : Gang) (pipe : Nat) (o : Host.Outcome State Fault Refusal) => (match o with
    | .next t => .next (if q.hasIssued g G (.next t) then q.noteChoice t G pipe else t)
    | o => o : Host.Outcome State Fault Refusal)
  (∀ (s : State) (g : Nat) (G : Gang) (rest : List Turn), s.gang? g = some G →
    (s.agenda = .scalar g :: rest →
      let q := ({ s with agenda := rest } : State).asking (.scalar g)
      let r := ({ q with ask := { q.ask with rivals := q.others' g G } } : State)
      let after := fun o => done (.scalar g) q (noted q g G 5 o)
      (q.chosen g G scalarStream = false → step s = done (.scalar g) q (.next q))
      ∧ (q.chosen g G scalarStream = true → G.wait = .formatImage → step s = after (.next (r.birthImage g G)))
      ∧ (q.chosen g G scalarStream = true → G.wait ≠ .formatImage → r.scalarReady G = false → step s = after (.next r))
      ∧ (q.chosen g G scalarStream = true → G.wait ≠ .formatImage → r.scalarReady G = true →
        (∀ (t : State) w, r.fetchScalar G = (t, .ok w) →
          (∀ i, decodeScalar w = .ok i → step s = after (exec i { t with cur := g }))
          ∧ (∀ e, decodeScalar w = .error e → step s = after (.next (t.illegalScalar G w.toNat))))
        ∧ (∀ (t : State) f, r.fetchScalar G = (t, .error f) → step s = after (.next (t.fetchFault g G f)))))
    ∧ (s.agenda = .lane g :: rest →
      let q := ({ s with agenda := rest } : State).asking (.lane g)
      let after := fun o => done (.lane g) q (noted q g G G.pipe o)
      (q.chosen g G laneStream = false → step s = done (.lane g) q (.next q))
      ∧ (∀ r rs, G.runs = r :: rs → q.chosen g G laneStream = true →
        (q.laneReady G r = false → step s = after (.next q))
        ∧ (q.laneReady G r = true →
          (∀ i, decodeLane (r.words.getD r.next 0) = .ok i → step s = after (exec i { q with cur := g }))
          ∧ (∀ e, decodeLane (r.words.getD r.next 0) = .error e →
              step s = after (.next (q.illegalLane G r.addr r.next (r.words.getD r.next 0).toNat)))))))
  ∧ (∀ (s : State) (g : Nat) (G : Gang) (x : Stream),
      let q := s.quarter G.place.core G.place.qtr
      let room := fun (H : Gang) => q.room (H.place.slot % 16) (x.pipe H)
      (s.chosen g G x = true ↔ room G = true ∧ ∀ kv ∈ s.rivals g G, room kv.2 = true →
        s.scanRank q kv.2 (x.pipe kv.2) < s.scanRank q G (x.pipe G) → s.eligible kv.1 kv.2 x = false)
      ∧ (s.rivals g G = [] → room G = true → s.chosen g G x = true))
  ∧ (∀ (q : State) (gs : List Request) (r : Request), ∃ bs ps qs,
      q.waitFor gs r = { q with buckets := bs, periods := ps, queued := qs, ask := Asking.none } ∧ ∃ w ∈ qs, w.turn = q.ask.turn ∧ w.req = r)
  ∧ (∀ (s t : State) (G : Gang) (x : Xlat), s.translate (clusterOf G.place.core) G.vnum .fetch false G.pc = (t, .ok x) →
      let h := t.homeRead (Req.cluster (some G.vnum) (clusterOf G.place.core)) x.pa 4 false
      let u := if h.2.2 then h.1.uncorrectable (partOfVnum G.vnum) (h.1.structAt x.pa) x.pa (h.1.scalarAgent G 2 G.pc) else h.1
      ∃ w, (s.fetchScalar G).2.toOption = some (BitVec.ofNat 32 w)
        ∧ (w = ofBytes h.2.1 ∨ (u.grid? G.grid).bind (fun D => D.oldWord G.pc) = some w
            ∨ (u.grid? G.grid).bind (fun D => SMap.find? (2 * G.pc) D.code) = some w))
  ∧ (∀ (s : State) (rest : List Turn),
      (∀ i, s.agenda = .event i :: rest →
        let q := ({ s with agenda := rest } : State).asking (.event i)
        step s = done (.event i) q (if encode i = [] ∧ i.wf = true then exec i q else .next q))
      ∧ (∀ x, s.agenda = .outside x :: rest →
        let q := ({ s with agenda := rest } : State).asking (.outside x)
        step s = done (.outside x) q (outsideStep x q))
      ∧ (s.agenda = .clk :: rest →
        let q := ({ s with agenda := rest } : State).asking .clk
        (q.wordsLeft = true → step s = done .clk q (.next q))
        ∧ (q.wordsLeft = false → step s = done .clk q (.next q.tick) ∧ q.tick.now = s.now + 1
          ∧ ∀ g, q.tick.gang? g = (s.gang? g).map fun G =>
              let lane := !G.runs.isEmpty && q.leftOver g G laneStream
              let scalar := q.leftOver g G scalarStream
              { G with
                promo := G.promo || (lane && decide (G.since + 4096 ≤ s.now + 1))
                since := if lane then G.since else s.now + 1
                promoS := G.promoS || (scalar && decide (G.sinceS + 4096 ≤ s.now + 1))
                sinceS := if scalar then G.sinceS else s.now + 1 })))
  ∧ (∀ s : State, s.agenda = [] → ∃ u : Turn, step s = stepTurn u { s with fresh := s.fresh + 1 })

/-- R42, R44, R51, R55 to R64, R70, R72: decoding the words of a well-formed instruction gives it back, with every operand; and a word
that decodes has no other encoding, so that no bit of it is dropped. -/
def Obligations.DecodeInvertsEncode : Prop :=
  (∀ i : Instr, i.wf = true → (∀ w, encode i = [w] → decodeScalar w = .ok i)
    ∧ (∀ a b c, encode i = [a, b, c] → decodeLane (c ++ b ++ a) = .ok i))
  ∧ (∀ i : Instr, (encode i).length = 0 ∨ (encode i).length = 1 ∨ (encode i).length = 3)
  ∧ (∀ w i, decodeScalar w = .ok i → encode i = [w])
  ∧ (∀ w i, decodeLane w = .ok i → encode i = [w.extractLsb' 0 32, w.extractLsb' 32 32, w.extractLsb' 64 32])

/-- R234, R434: memory, its sidecar and its poison marks keep their canonical form through every step, from whatever state: an address that
was never written, or was written with zero, is listed nowhere, so that equal memories are equal data. -/
def Obligations.EveryStepKeepsCanon : Prop :=
  ∀ s t : State, s.Canon → step s = .next t → t.Canon
end

