-- ==== Sys2Proof/Laws/Map.lean ====
section
/-! SUPPORT. Sparse tables and byte memory: what a read gives after a write, and that every operation over a memory keeps
its canonical form. -/

namespace Sys2Proof

/-! ## Tables -/

section
variable {α : Type}

@[simp] theorem SMap.find?_nil (k : Nat) : SMap.find? k ([] : SMap α) = none := rfl

theorem SMap.find?_cons (k j : Nat) (v : α) (t : SMap α) :
    SMap.find? k ((j, v) :: t) = if j = k then some v else SMap.find? k t := rfl

@[simp] theorem SMap.find?_put_same (k : Nat) (v : α) (m : SMap α) : SMap.find? k (SMap.put k v m) = some v := by
  induction m with
  | nil => simp [SMap.put, SMap.find?]
  | cons e t ih =>
    obtain ⟨j, u⟩ := e
    by_cases h : k < j
    · simp [SMap.put, h, SMap.find?]
    · by_cases h' : k = j
      · simp [SMap.put, h', SMap.find?]
      · simp [SMap.put, h, h', SMap.find?, ih, Ne.symm h']

theorem SMap.find?_put_ne {k j : Nat} (n : j ≠ k) (v : α) (m : SMap α) :
    SMap.find? j (SMap.put k v m) = SMap.find? j m := by
  induction m with
  | nil => simp [SMap.put, SMap.find?, Ne.symm n]
  | cons e t ih =>
    obtain ⟨i, u⟩ := e
    by_cases h : k < i
    · simp [SMap.put, h, SMap.find?, Ne.symm n]
    · by_cases h' : k = i
      · subst h'
        simp [SMap.put, SMap.find?, Ne.symm n]
      · simp [SMap.put, h, h', SMap.find?, ih]

theorem SMap.find?_put (k j : Nat) (v : α) (m : SMap α) :
    SMap.find? j (SMap.put k v m) = if j = k then some v else SMap.find? j m := by
  by_cases h : j = k
  · subst h
    simp
  · simp [h, SMap.find?_put_ne h]

@[simp] theorem SMap.find?_erase_same (k : Nat) (m : SMap α) : SMap.find? k (SMap.erase k m) = none := by
  induction m with
  | nil => rfl
  | cons e t ih =>
    obtain ⟨i, u⟩ := e
    by_cases h : i = k <;> simp [SMap.erase, SMap.find?, h, ih]

theorem SMap.find?_erase_ne {k j : Nat} (n : j ≠ k) (m : SMap α) : SMap.find? j (SMap.erase k m) = SMap.find? j m := by
  induction m with
  | nil => rfl
  | cons e t ih =>
    obtain ⟨i, u⟩ := e
    by_cases h : i = k
    · subst h
      simp [SMap.erase, SMap.find?, ih, Ne.symm n]
    · simp [SMap.erase, SMap.find?, h, ih]

@[simp] theorem SMap.find?_modify_same (k : Nat) (f : α → α) (m : SMap α) :
    SMap.find? k (SMap.modify k f m) = (SMap.find? k m).map f := by
  unfold SMap.modify
  split <;> simp [*]

theorem SMap.find?_modify_ne {k j : Nat} (n : j ≠ k) (f : α → α) (m : SMap α) :
    SMap.find? j (SMap.modify k f m) = SMap.find? j m := by
  unfold SMap.modify
  split
  · exact SMap.find?_put_ne n _ m
  · rfl

@[simp] theorem SMap.getD_upd_same (k : Nat) (d : α) (f : α → α) (m : SMap α) :
    SMap.getD k d (SMap.upd k d f m) = f (SMap.getD k d m) := by
  simp [SMap.upd, SMap.getD]

theorem SMap.getD_upd_ne {k j : Nat} (n : j ≠ k) (d : α) (f : α → α) (m : SMap α) :
    SMap.getD j d (SMap.upd k d f m) = SMap.getD j d m := by
  simp [SMap.upd, SMap.getD, SMap.find?_put_ne n]

@[simp] theorem SMap.getD_put_same (k : Nat) (d v : α) (m : SMap α) : SMap.getD k d (SMap.put k v m) = v := by
  simp [SMap.getD]

theorem SMap.getD_put_ne {k j : Nat} (n : j ≠ k) (d v : α) (m : SMap α) :
    SMap.getD j d (SMap.put k v m) = SMap.getD j d m := by
  simp [SMap.getD, SMap.find?_put_ne n]

end

/-! ## Bytes -/

theorem Memory.byte_setByte (m : Memory) (a x : Nat) (b : Byte) :
    Memory.byte (Memory.setByte m a b) x = if x = a then b else Memory.byte m x := by
  by_cases h : x = a
  · subst h
    by_cases hb : b = Memory.default <;> simp [Memory.setByte, Memory.byte, SMap.getD, hb]
  · by_cases hb : b = Memory.default <;>
      simp [Memory.setByte, Memory.byte, SMap.getD, hb, h, SMap.find?_erase_ne h, SMap.find?_put_ne h]

theorem Memory.length_read (m : Memory) (a n : Nat) : (Memory.read m a n).length = n := by
  induction n generalizing a with
  | zero => rfl
  | succ n ih => simp [Memory.read, ih]

/-! ## The canonical form -/

theorem Memory.wfFrom_mono {lo hi : Nat} (h : lo ≤ hi) (m : Memory) (w : Memory.wfFrom hi m = true) :
    Memory.wfFrom lo m = true := by
  cases m with
  | nil => rfl
  | cons e t =>
    obtain ⟨a, b⟩ := e
    simp only [Memory.wfFrom, Bool.and_eq_true, decide_eq_true_eq] at w ⊢
    exact ⟨⟨by omega, w.1.2⟩, w.2⟩

theorem Memory.wfFrom_put {lo a : Nat} {b : Byte} (m : Memory) (h : lo ≤ a) (hb : b ≠ Memory.default)
    (w : Memory.wfFrom lo m = true) : Memory.wfFrom lo (SMap.put a b m) = true := by
  induction m generalizing lo with
  | nil => simp [SMap.put, Memory.wfFrom, h, hb]
  | cons e t ih =>
    obtain ⟨i, u⟩ := e
    simp only [Memory.wfFrom, Bool.and_eq_true, decide_eq_true_eq] at w
    by_cases h1 : a < i
    · simp only [SMap.put, h1, if_true, Memory.wfFrom, Bool.and_eq_true, decide_eq_true_eq]
      exact ⟨⟨h, hb⟩, ⟨by omega, w.1.2⟩, w.2⟩
    · by_cases h2 : a = i
      · subst h2
        simp [SMap.put, Memory.wfFrom, hb, w.2, w.1.1]
      · simp only [SMap.put, h1, h2, if_false, Memory.wfFrom, Bool.and_eq_true, decide_eq_true_eq]
        exact ⟨w.1, ih (by omega) w.2⟩

theorem Memory.wfFrom_erase {lo : Nat} (a : Nat) (m : Memory) (w : Memory.wfFrom lo m = true) :
    Memory.wfFrom lo (SMap.erase a m) = true := by
  induction m generalizing lo with
  | nil => rfl
  | cons e t ih =>
    obtain ⟨i, u⟩ := e
    simp only [Memory.wfFrom, Bool.and_eq_true, decide_eq_true_eq] at w
    by_cases h : i = a
    · simp only [SMap.erase, h, if_true]
      exact ih (Memory.wfFrom_mono (by omega) t w.2)
    · simp only [SMap.erase, h, if_false, Memory.wfFrom, Bool.and_eq_true, decide_eq_true_eq]
      exact ⟨w.1, ih w.2⟩

theorem Memory.wfFrom_filter {lo : Nat} (p : Nat × BitVec 8 → Bool) (m : Memory) (w : Memory.wfFrom lo m = true) :
    Memory.wfFrom lo (m.filter p) = true := by
  induction m generalizing lo with
  | nil => rfl
  | cons e t ih =>
    obtain ⟨i, u⟩ := e
    simp only [Memory.wfFrom, Bool.and_eq_true, decide_eq_true_eq] at w
    by_cases h : p (i, u) = true
    · simp only [List.filter_cons, h, if_true, Memory.wfFrom, Bool.and_eq_true, decide_eq_true_eq]
      exact ⟨w.1, ih w.2⟩
    · simp only [List.filter_cons, h]
      exact ih (Memory.wfFrom_mono (by omega) t w.2)

theorem Memory.wf_nil : Memory.wf [] = true := rfl

theorem Memory.wf_setByte (m : Memory) (a : Nat) (b : Byte) (w : Memory.wf m = true) :
    Memory.wf (Memory.setByte m a b) = true := by
  unfold Memory.setByte
  split
  · exact Memory.wfFrom_erase a m w
  · rename_i h
    exact Memory.wfFrom_put m (Nat.zero_le a) h w

/-- A write of any bytes keeps the canonical form. -/
theorem Memory.wf_write (bs : List Byte) (m : Memory) (a : Nat) (w : Memory.wf m = true) :
    Memory.wf (Memory.write m a bs) = true := by
  induction bs generalizing m a with
  | nil => exact w
  | cons b t ih => exact ih _ _ (Memory.wf_setByte m a b w)

/-- Keeping some of the bytes keeps the canonical form. -/
theorem Memory.wf_filter (p : Nat × BitVec 8 → Bool) (m : Memory) (w : Memory.wf m = true) :
    Memory.wf (m.filter p) = true := Memory.wfFrom_filter p m w

end Sys2Proof
end

