-- ==== Sys2Proof/Laws/State.lean ====
section
/-! SUPPORT. What each update of the state leaves in each field, and what the accessors read after it. -/

namespace Sys2Proof.Machine

/-! ## `State.putGang` -/

@[simp] theorem State.putGang_mem (s : State) (g : Nat) (G : Gang) : (s.putGang g G).mem = s.mem := rfl
@[simp] theorem State.putGang_side (s : State) (g : Nat) (G : Gang) : (s.putGang g G).side = s.side := rfl
@[simp] theorem State.putGang_bad (s : State) (g : Nat) (G : Gang) : (s.putGang g G).bad = s.bad := rfl
@[simp] theorem State.putGang_sideBad (s : State) (g : Nat) (G : Gang) : (s.putGang g G).sideBad = s.sideBad := rfl
@[simp] theorem State.putGang_slices (s : State) (g : Nat) (G : Gang) : (s.putGang g G).slices = s.slices := rfl
@[simp] theorem State.putGang_cells (s : State) (g : Nat) (G : Gang) : (s.putGang g G).cells = s.cells := rfl
@[simp] theorem State.putGang_tags (s : State) (g : Nat) (G : Gang) : (s.putGang g G).tags = s.tags := rfl
@[simp] theorem State.putGang_gangs (s : State) (g : Nat) (G : Gang) : (s.putGang g G).gangs = SMap.put g G s.gangs := rfl
@[simp] theorem State.putGang_wgs (s : State) (g : Nat) (G : Gang) : (s.putGang g G).wgs = s.wgs := rfl
@[simp] theorem State.putGang_grids (s : State) (g : Nat) (G : Gang) : (s.putGang g G).grids = s.grids := rfl
@[simp] theorem State.putGang_cores (s : State) (g : Nat) (G : Gang) : (s.putGang g G).cores = s.cores := rfl
@[simp] theorem State.putGang_clusters (s : State) (g : Nat) (G : Gang) : (s.putGang g G).clusters = s.clusters := rfl
@[simp] theorem State.putGang_engines (s : State) (g : Nat) (G : Gang) : (s.putGang g G).engines = s.engines := rfl
@[simp] theorem State.putGang_twins (s : State) (g : Nat) (G : Gang) : (s.putGang g G).twins = s.twins := rfl
@[simp] theorem State.putGang_parts (s : State) (g : Nat) (G : Gang) : (s.putGang g G).parts = s.parts := rfl
@[simp] theorem State.putGang_vdevs (s : State) (g : Nat) (G : Gang) : (s.putGang g G).vdevs = s.vdevs := rfl
@[simp] theorem State.putGang_ctxs (s : State) (g : Nat) (G : Gang) : (s.putGang g G).ctxs = s.ctxs := rfl
@[simp] theorem State.putGang_buckets (s : State) (g : Nat) (G : Gang) : (s.putGang g G).buckets = s.buckets := rfl
@[simp] theorem State.putGang_periods (s : State) (g : Nat) (G : Gang) : (s.putGang g G).periods = s.periods := rfl
@[simp] theorem State.putGang_inbound (s : State) (g : Nat) (G : Gang) : (s.putGang g G).inbound = s.inbound := rfl
@[simp] theorem State.putGang_peers (s : State) (g : Nat) (G : Gang) : (s.putGang g G).peers = s.peers := rfl
@[simp] theorem State.putGang_lost (s : State) (g : Nat) (G : Gang) : (s.putGang g G).lost = s.lost := rfl
@[simp] theorem State.putGang_pkg (s : State) (g : Nat) (G : Gang) : (s.putGang g G).pkg = s.pkg := rfl
@[simp] theorem State.putGang_out (s : State) (g : Nat) (G : Gang) : (s.putGang g G).out = s.out := rfl
@[simp] theorem State.putGang_queued (s : State) (g : Nat) (G : Gang) : (s.putGang g G).queued = s.queued := rfl
@[simp] theorem State.putGang_ask (s : State) (g : Nat) (G : Gang) : (s.putGang g G).ask = s.ask := rfl
@[simp] theorem State.putGang_found (s : State) (g : Nat) (G : Gang) : (s.putGang g G).found = s.found := rfl
@[simp] theorem State.putGang_held (s : State) (g : Nat) (G : Gang) : (s.putGang g G).held = s.held := rfl
@[simp] theorem State.putGang_cur (s : State) (g : Nat) (G : Gang) : (s.putGang g G).cur = s.cur := rfl
@[simp] theorem State.putGang_agenda (s : State) (g : Nat) (G : Gang) : (s.putGang g G).agenda = s.agenda := rfl
@[simp] theorem State.putGang_fresh (s : State) (g : Nat) (G : Gang) : (s.putGang g G).fresh = s.fresh := rfl
@[simp] theorem State.putGang_now (s : State) (g : Nat) (G : Gang) : (s.putGang g G).now = s.now := rfl
@[simp] theorem State.putGang_nextId (s : State) (g : Nat) (G : Gang) : (s.putGang g G).nextId = s.nextId := rfl

/-! ## `State.modGang` -/

@[simp] theorem State.modGang_mem (s : State) (g : Nat) (f : Gang → Gang) : (s.modGang g f).mem = s.mem := rfl
@[simp] theorem State.modGang_side (s : State) (g : Nat) (f : Gang → Gang) : (s.modGang g f).side = s.side := rfl
@[simp] theorem State.modGang_bad (s : State) (g : Nat) (f : Gang → Gang) : (s.modGang g f).bad = s.bad := rfl
@[simp] theorem State.modGang_sideBad (s : State) (g : Nat) (f : Gang → Gang) : (s.modGang g f).sideBad = s.sideBad := rfl
@[simp] theorem State.modGang_slices (s : State) (g : Nat) (f : Gang → Gang) : (s.modGang g f).slices = s.slices := rfl
@[simp] theorem State.modGang_cells (s : State) (g : Nat) (f : Gang → Gang) : (s.modGang g f).cells = s.cells := rfl
@[simp] theorem State.modGang_tags (s : State) (g : Nat) (f : Gang → Gang) : (s.modGang g f).tags = s.tags := rfl
@[simp] theorem State.modGang_gangs (s : State) (g : Nat) (f : Gang → Gang) : (s.modGang g f).gangs = SMap.modify g f s.gangs := rfl
@[simp] theorem State.modGang_wgs (s : State) (g : Nat) (f : Gang → Gang) : (s.modGang g f).wgs = s.wgs := rfl
@[simp] theorem State.modGang_grids (s : State) (g : Nat) (f : Gang → Gang) : (s.modGang g f).grids = s.grids := rfl
@[simp] theorem State.modGang_cores (s : State) (g : Nat) (f : Gang → Gang) : (s.modGang g f).cores = s.cores := rfl
@[simp] theorem State.modGang_clusters (s : State) (g : Nat) (f : Gang → Gang) : (s.modGang g f).clusters = s.clusters := rfl
@[simp] theorem State.modGang_engines (s : State) (g : Nat) (f : Gang → Gang) : (s.modGang g f).engines = s.engines := rfl
@[simp] theorem State.modGang_twins (s : State) (g : Nat) (f : Gang → Gang) : (s.modGang g f).twins = s.twins := rfl
@[simp] theorem State.modGang_parts (s : State) (g : Nat) (f : Gang → Gang) : (s.modGang g f).parts = s.parts := rfl
@[simp] theorem State.modGang_vdevs (s : State) (g : Nat) (f : Gang → Gang) : (s.modGang g f).vdevs = s.vdevs := rfl
@[simp] theorem State.modGang_ctxs (s : State) (g : Nat) (f : Gang → Gang) : (s.modGang g f).ctxs = s.ctxs := rfl
@[simp] theorem State.modGang_buckets (s : State) (g : Nat) (f : Gang → Gang) : (s.modGang g f).buckets = s.buckets := rfl
@[simp] theorem State.modGang_periods (s : State) (g : Nat) (f : Gang → Gang) : (s.modGang g f).periods = s.periods := rfl
@[simp] theorem State.modGang_inbound (s : State) (g : Nat) (f : Gang → Gang) : (s.modGang g f).inbound = s.inbound := rfl
@[simp] theorem State.modGang_peers (s : State) (g : Nat) (f : Gang → Gang) : (s.modGang g f).peers = s.peers := rfl
@[simp] theorem State.modGang_lost (s : State) (g : Nat) (f : Gang → Gang) : (s.modGang g f).lost = s.lost := rfl
@[simp] theorem State.modGang_pkg (s : State) (g : Nat) (f : Gang → Gang) : (s.modGang g f).pkg = s.pkg := rfl
@[simp] theorem State.modGang_out (s : State) (g : Nat) (f : Gang → Gang) : (s.modGang g f).out = s.out := rfl
@[simp] theorem State.modGang_queued (s : State) (g : Nat) (f : Gang → Gang) : (s.modGang g f).queued = s.queued := rfl
@[simp] theorem State.modGang_ask (s : State) (g : Nat) (f : Gang → Gang) : (s.modGang g f).ask = s.ask := rfl
@[simp] theorem State.modGang_found (s : State) (g : Nat) (f : Gang → Gang) : (s.modGang g f).found = s.found := rfl
@[simp] theorem State.modGang_held (s : State) (g : Nat) (f : Gang → Gang) : (s.modGang g f).held = s.held := rfl
@[simp] theorem State.modGang_cur (s : State) (g : Nat) (f : Gang → Gang) : (s.modGang g f).cur = s.cur := rfl
@[simp] theorem State.modGang_agenda (s : State) (g : Nat) (f : Gang → Gang) : (s.modGang g f).agenda = s.agenda := rfl
@[simp] theorem State.modGang_fresh (s : State) (g : Nat) (f : Gang → Gang) : (s.modGang g f).fresh = s.fresh := rfl
@[simp] theorem State.modGang_now (s : State) (g : Nat) (f : Gang → Gang) : (s.modGang g f).now = s.now := rfl
@[simp] theorem State.modGang_nextId (s : State) (g : Nat) (f : Gang → Gang) : (s.modGang g f).nextId = s.nextId := rfl

/-! ## `State.putWg` -/

@[simp] theorem State.putWg_mem (s : State) (w : Nat) (W : Wg) : (s.putWg w W).mem = s.mem := rfl
@[simp] theorem State.putWg_side (s : State) (w : Nat) (W : Wg) : (s.putWg w W).side = s.side := rfl
@[simp] theorem State.putWg_bad (s : State) (w : Nat) (W : Wg) : (s.putWg w W).bad = s.bad := rfl
@[simp] theorem State.putWg_sideBad (s : State) (w : Nat) (W : Wg) : (s.putWg w W).sideBad = s.sideBad := rfl
@[simp] theorem State.putWg_slices (s : State) (w : Nat) (W : Wg) : (s.putWg w W).slices = s.slices := rfl
@[simp] theorem State.putWg_cells (s : State) (w : Nat) (W : Wg) : (s.putWg w W).cells = s.cells := rfl
@[simp] theorem State.putWg_tags (s : State) (w : Nat) (W : Wg) : (s.putWg w W).tags = s.tags := rfl
@[simp] theorem State.putWg_gangs (s : State) (w : Nat) (W : Wg) : (s.putWg w W).gangs = s.gangs := rfl
@[simp] theorem State.putWg_wgs (s : State) (w : Nat) (W : Wg) : (s.putWg w W).wgs = SMap.put w W s.wgs := rfl
@[simp] theorem State.putWg_grids (s : State) (w : Nat) (W : Wg) : (s.putWg w W).grids = s.grids := rfl
@[simp] theorem State.putWg_cores (s : State) (w : Nat) (W : Wg) : (s.putWg w W).cores = s.cores := rfl
@[simp] theorem State.putWg_clusters (s : State) (w : Nat) (W : Wg) : (s.putWg w W).clusters = s.clusters := rfl
@[simp] theorem State.putWg_engines (s : State) (w : Nat) (W : Wg) : (s.putWg w W).engines = s.engines := rfl
@[simp] theorem State.putWg_twins (s : State) (w : Nat) (W : Wg) : (s.putWg w W).twins = s.twins := rfl
@[simp] theorem State.putWg_parts (s : State) (w : Nat) (W : Wg) : (s.putWg w W).parts = s.parts := rfl
@[simp] theorem State.putWg_vdevs (s : State) (w : Nat) (W : Wg) : (s.putWg w W).vdevs = s.vdevs := rfl
@[simp] theorem State.putWg_ctxs (s : State) (w : Nat) (W : Wg) : (s.putWg w W).ctxs = s.ctxs := rfl
@[simp] theorem State.putWg_buckets (s : State) (w : Nat) (W : Wg) : (s.putWg w W).buckets = s.buckets := rfl
@[simp] theorem State.putWg_periods (s : State) (w : Nat) (W : Wg) : (s.putWg w W).periods = s.periods := rfl
@[simp] theorem State.putWg_inbound (s : State) (w : Nat) (W : Wg) : (s.putWg w W).inbound = s.inbound := rfl
@[simp] theorem State.putWg_peers (s : State) (w : Nat) (W : Wg) : (s.putWg w W).peers = s.peers := rfl
@[simp] theorem State.putWg_lost (s : State) (w : Nat) (W : Wg) : (s.putWg w W).lost = s.lost := rfl
@[simp] theorem State.putWg_pkg (s : State) (w : Nat) (W : Wg) : (s.putWg w W).pkg = s.pkg := rfl
@[simp] theorem State.putWg_out (s : State) (w : Nat) (W : Wg) : (s.putWg w W).out = s.out := rfl
@[simp] theorem State.putWg_queued (s : State) (w : Nat) (W : Wg) : (s.putWg w W).queued = s.queued := rfl
@[simp] theorem State.putWg_ask (s : State) (w : Nat) (W : Wg) : (s.putWg w W).ask = s.ask := rfl
@[simp] theorem State.putWg_found (s : State) (w : Nat) (W : Wg) : (s.putWg w W).found = s.found := rfl
@[simp] theorem State.putWg_held (s : State) (w : Nat) (W : Wg) : (s.putWg w W).held = s.held := rfl
@[simp] theorem State.putWg_cur (s : State) (w : Nat) (W : Wg) : (s.putWg w W).cur = s.cur := rfl
@[simp] theorem State.putWg_agenda (s : State) (w : Nat) (W : Wg) : (s.putWg w W).agenda = s.agenda := rfl
@[simp] theorem State.putWg_fresh (s : State) (w : Nat) (W : Wg) : (s.putWg w W).fresh = s.fresh := rfl
@[simp] theorem State.putWg_now (s : State) (w : Nat) (W : Wg) : (s.putWg w W).now = s.now := rfl
@[simp] theorem State.putWg_nextId (s : State) (w : Nat) (W : Wg) : (s.putWg w W).nextId = s.nextId := rfl

/-! ## `State.modWg` -/

@[simp] theorem State.modWg_mem (s : State) (w : Nat) (f : Wg → Wg) : (s.modWg w f).mem = s.mem := rfl
@[simp] theorem State.modWg_side (s : State) (w : Nat) (f : Wg → Wg) : (s.modWg w f).side = s.side := rfl
@[simp] theorem State.modWg_bad (s : State) (w : Nat) (f : Wg → Wg) : (s.modWg w f).bad = s.bad := rfl
@[simp] theorem State.modWg_sideBad (s : State) (w : Nat) (f : Wg → Wg) : (s.modWg w f).sideBad = s.sideBad := rfl
@[simp] theorem State.modWg_slices (s : State) (w : Nat) (f : Wg → Wg) : (s.modWg w f).slices = s.slices := rfl
@[simp] theorem State.modWg_cells (s : State) (w : Nat) (f : Wg → Wg) : (s.modWg w f).cells = s.cells := rfl
@[simp] theorem State.modWg_tags (s : State) (w : Nat) (f : Wg → Wg) : (s.modWg w f).tags = s.tags := rfl
@[simp] theorem State.modWg_gangs (s : State) (w : Nat) (f : Wg → Wg) : (s.modWg w f).gangs = s.gangs := rfl
@[simp] theorem State.modWg_wgs (s : State) (w : Nat) (f : Wg → Wg) : (s.modWg w f).wgs = SMap.modify w f s.wgs := rfl
@[simp] theorem State.modWg_grids (s : State) (w : Nat) (f : Wg → Wg) : (s.modWg w f).grids = s.grids := rfl
@[simp] theorem State.modWg_cores (s : State) (w : Nat) (f : Wg → Wg) : (s.modWg w f).cores = s.cores := rfl
@[simp] theorem State.modWg_clusters (s : State) (w : Nat) (f : Wg → Wg) : (s.modWg w f).clusters = s.clusters := rfl
@[simp] theorem State.modWg_engines (s : State) (w : Nat) (f : Wg → Wg) : (s.modWg w f).engines = s.engines := rfl
@[simp] theorem State.modWg_twins (s : State) (w : Nat) (f : Wg → Wg) : (s.modWg w f).twins = s.twins := rfl
@[simp] theorem State.modWg_parts (s : State) (w : Nat) (f : Wg → Wg) : (s.modWg w f).parts = s.parts := rfl
@[simp] theorem State.modWg_vdevs (s : State) (w : Nat) (f : Wg → Wg) : (s.modWg w f).vdevs = s.vdevs := rfl
@[simp] theorem State.modWg_ctxs (s : State) (w : Nat) (f : Wg → Wg) : (s.modWg w f).ctxs = s.ctxs := rfl
@[simp] theorem State.modWg_buckets (s : State) (w : Nat) (f : Wg → Wg) : (s.modWg w f).buckets = s.buckets := rfl
@[simp] theorem State.modWg_periods (s : State) (w : Nat) (f : Wg → Wg) : (s.modWg w f).periods = s.periods := rfl
@[simp] theorem State.modWg_inbound (s : State) (w : Nat) (f : Wg → Wg) : (s.modWg w f).inbound = s.inbound := rfl
@[simp] theorem State.modWg_peers (s : State) (w : Nat) (f : Wg → Wg) : (s.modWg w f).peers = s.peers := rfl
@[simp] theorem State.modWg_lost (s : State) (w : Nat) (f : Wg → Wg) : (s.modWg w f).lost = s.lost := rfl
@[simp] theorem State.modWg_pkg (s : State) (w : Nat) (f : Wg → Wg) : (s.modWg w f).pkg = s.pkg := rfl
@[simp] theorem State.modWg_out (s : State) (w : Nat) (f : Wg → Wg) : (s.modWg w f).out = s.out := rfl
@[simp] theorem State.modWg_queued (s : State) (w : Nat) (f : Wg → Wg) : (s.modWg w f).queued = s.queued := rfl
@[simp] theorem State.modWg_ask (s : State) (w : Nat) (f : Wg → Wg) : (s.modWg w f).ask = s.ask := rfl
@[simp] theorem State.modWg_found (s : State) (w : Nat) (f : Wg → Wg) : (s.modWg w f).found = s.found := rfl
@[simp] theorem State.modWg_held (s : State) (w : Nat) (f : Wg → Wg) : (s.modWg w f).held = s.held := rfl
@[simp] theorem State.modWg_cur (s : State) (w : Nat) (f : Wg → Wg) : (s.modWg w f).cur = s.cur := rfl
@[simp] theorem State.modWg_agenda (s : State) (w : Nat) (f : Wg → Wg) : (s.modWg w f).agenda = s.agenda := rfl
@[simp] theorem State.modWg_fresh (s : State) (w : Nat) (f : Wg → Wg) : (s.modWg w f).fresh = s.fresh := rfl
@[simp] theorem State.modWg_now (s : State) (w : Nat) (f : Wg → Wg) : (s.modWg w f).now = s.now := rfl
@[simp] theorem State.modWg_nextId (s : State) (w : Nat) (f : Wg → Wg) : (s.modWg w f).nextId = s.nextId := rfl

/-! ## `State.modGrid` -/

@[simp] theorem State.modGrid_mem (s : State) (n : Nat) (f : Grid → Grid) : (s.modGrid n f).mem = s.mem := rfl
@[simp] theorem State.modGrid_side (s : State) (n : Nat) (f : Grid → Grid) : (s.modGrid n f).side = s.side := rfl
@[simp] theorem State.modGrid_bad (s : State) (n : Nat) (f : Grid → Grid) : (s.modGrid n f).bad = s.bad := rfl
@[simp] theorem State.modGrid_sideBad (s : State) (n : Nat) (f : Grid → Grid) : (s.modGrid n f).sideBad = s.sideBad := rfl
@[simp] theorem State.modGrid_slices (s : State) (n : Nat) (f : Grid → Grid) : (s.modGrid n f).slices = s.slices := rfl
@[simp] theorem State.modGrid_cells (s : State) (n : Nat) (f : Grid → Grid) : (s.modGrid n f).cells = s.cells := rfl
@[simp] theorem State.modGrid_tags (s : State) (n : Nat) (f : Grid → Grid) : (s.modGrid n f).tags = s.tags := rfl
@[simp] theorem State.modGrid_gangs (s : State) (n : Nat) (f : Grid → Grid) : (s.modGrid n f).gangs = s.gangs := rfl
@[simp] theorem State.modGrid_wgs (s : State) (n : Nat) (f : Grid → Grid) : (s.modGrid n f).wgs = s.wgs := rfl
@[simp] theorem State.modGrid_grids (s : State) (n : Nat) (f : Grid → Grid) : (s.modGrid n f).grids = SMap.modify n f s.grids := rfl
@[simp] theorem State.modGrid_cores (s : State) (n : Nat) (f : Grid → Grid) : (s.modGrid n f).cores = s.cores := rfl
@[simp] theorem State.modGrid_clusters (s : State) (n : Nat) (f : Grid → Grid) : (s.modGrid n f).clusters = s.clusters := rfl
@[simp] theorem State.modGrid_engines (s : State) (n : Nat) (f : Grid → Grid) : (s.modGrid n f).engines = s.engines := rfl
@[simp] theorem State.modGrid_twins (s : State) (n : Nat) (f : Grid → Grid) : (s.modGrid n f).twins = s.twins := rfl
@[simp] theorem State.modGrid_parts (s : State) (n : Nat) (f : Grid → Grid) : (s.modGrid n f).parts = s.parts := rfl
@[simp] theorem State.modGrid_vdevs (s : State) (n : Nat) (f : Grid → Grid) : (s.modGrid n f).vdevs = s.vdevs := rfl
@[simp] theorem State.modGrid_ctxs (s : State) (n : Nat) (f : Grid → Grid) : (s.modGrid n f).ctxs = s.ctxs := rfl
@[simp] theorem State.modGrid_buckets (s : State) (n : Nat) (f : Grid → Grid) : (s.modGrid n f).buckets = s.buckets := rfl
@[simp] theorem State.modGrid_periods (s : State) (n : Nat) (f : Grid → Grid) : (s.modGrid n f).periods = s.periods := rfl
@[simp] theorem State.modGrid_inbound (s : State) (n : Nat) (f : Grid → Grid) : (s.modGrid n f).inbound = s.inbound := rfl
@[simp] theorem State.modGrid_peers (s : State) (n : Nat) (f : Grid → Grid) : (s.modGrid n f).peers = s.peers := rfl
@[simp] theorem State.modGrid_lost (s : State) (n : Nat) (f : Grid → Grid) : (s.modGrid n f).lost = s.lost := rfl
@[simp] theorem State.modGrid_pkg (s : State) (n : Nat) (f : Grid → Grid) : (s.modGrid n f).pkg = s.pkg := rfl
@[simp] theorem State.modGrid_out (s : State) (n : Nat) (f : Grid → Grid) : (s.modGrid n f).out = s.out := rfl
@[simp] theorem State.modGrid_queued (s : State) (n : Nat) (f : Grid → Grid) : (s.modGrid n f).queued = s.queued := rfl
@[simp] theorem State.modGrid_ask (s : State) (n : Nat) (f : Grid → Grid) : (s.modGrid n f).ask = s.ask := rfl
@[simp] theorem State.modGrid_found (s : State) (n : Nat) (f : Grid → Grid) : (s.modGrid n f).found = s.found := rfl
@[simp] theorem State.modGrid_held (s : State) (n : Nat) (f : Grid → Grid) : (s.modGrid n f).held = s.held := rfl
@[simp] theorem State.modGrid_cur (s : State) (n : Nat) (f : Grid → Grid) : (s.modGrid n f).cur = s.cur := rfl
@[simp] theorem State.modGrid_agenda (s : State) (n : Nat) (f : Grid → Grid) : (s.modGrid n f).agenda = s.agenda := rfl
@[simp] theorem State.modGrid_fresh (s : State) (n : Nat) (f : Grid → Grid) : (s.modGrid n f).fresh = s.fresh := rfl
@[simp] theorem State.modGrid_now (s : State) (n : Nat) (f : Grid → Grid) : (s.modGrid n f).now = s.now := rfl
@[simp] theorem State.modGrid_nextId (s : State) (n : Nat) (f : Grid → Grid) : (s.modGrid n f).nextId = s.nextId := rfl

/-! ## `State.modCore` -/

@[simp] theorem State.modCore_mem (s : State) (c : Nat) (f : Core → Core) : (s.modCore c f).mem = s.mem := rfl
@[simp] theorem State.modCore_side (s : State) (c : Nat) (f : Core → Core) : (s.modCore c f).side = s.side := rfl
@[simp] theorem State.modCore_bad (s : State) (c : Nat) (f : Core → Core) : (s.modCore c f).bad = s.bad := rfl
@[simp] theorem State.modCore_sideBad (s : State) (c : Nat) (f : Core → Core) : (s.modCore c f).sideBad = s.sideBad := rfl
@[simp] theorem State.modCore_slices (s : State) (c : Nat) (f : Core → Core) : (s.modCore c f).slices = s.slices := rfl
@[simp] theorem State.modCore_cells (s : State) (c : Nat) (f : Core → Core) : (s.modCore c f).cells = s.cells := rfl
@[simp] theorem State.modCore_tags (s : State) (c : Nat) (f : Core → Core) : (s.modCore c f).tags = s.tags := rfl
@[simp] theorem State.modCore_gangs (s : State) (c : Nat) (f : Core → Core) : (s.modCore c f).gangs = s.gangs := rfl
@[simp] theorem State.modCore_wgs (s : State) (c : Nat) (f : Core → Core) : (s.modCore c f).wgs = s.wgs := rfl
@[simp] theorem State.modCore_grids (s : State) (c : Nat) (f : Core → Core) : (s.modCore c f).grids = s.grids := rfl
@[simp] theorem State.modCore_cores (s : State) (c : Nat) (f : Core → Core) : (s.modCore c f).cores = SMap.upd c Core.init f s.cores := rfl
@[simp] theorem State.modCore_clusters (s : State) (c : Nat) (f : Core → Core) : (s.modCore c f).clusters = s.clusters := rfl
@[simp] theorem State.modCore_engines (s : State) (c : Nat) (f : Core → Core) : (s.modCore c f).engines = s.engines := rfl
@[simp] theorem State.modCore_twins (s : State) (c : Nat) (f : Core → Core) : (s.modCore c f).twins = s.twins := rfl
@[simp] theorem State.modCore_parts (s : State) (c : Nat) (f : Core → Core) : (s.modCore c f).parts = s.parts := rfl
@[simp] theorem State.modCore_vdevs (s : State) (c : Nat) (f : Core → Core) : (s.modCore c f).vdevs = s.vdevs := rfl
@[simp] theorem State.modCore_ctxs (s : State) (c : Nat) (f : Core → Core) : (s.modCore c f).ctxs = s.ctxs := rfl
@[simp] theorem State.modCore_buckets (s : State) (c : Nat) (f : Core → Core) : (s.modCore c f).buckets = s.buckets := rfl
@[simp] theorem State.modCore_periods (s : State) (c : Nat) (f : Core → Core) : (s.modCore c f).periods = s.periods := rfl
@[simp] theorem State.modCore_inbound (s : State) (c : Nat) (f : Core → Core) : (s.modCore c f).inbound = s.inbound := rfl
@[simp] theorem State.modCore_peers (s : State) (c : Nat) (f : Core → Core) : (s.modCore c f).peers = s.peers := rfl
@[simp] theorem State.modCore_lost (s : State) (c : Nat) (f : Core → Core) : (s.modCore c f).lost = s.lost := rfl
@[simp] theorem State.modCore_pkg (s : State) (c : Nat) (f : Core → Core) : (s.modCore c f).pkg = s.pkg := rfl
@[simp] theorem State.modCore_out (s : State) (c : Nat) (f : Core → Core) : (s.modCore c f).out = s.out := rfl
@[simp] theorem State.modCore_queued (s : State) (c : Nat) (f : Core → Core) : (s.modCore c f).queued = s.queued := rfl
@[simp] theorem State.modCore_ask (s : State) (c : Nat) (f : Core → Core) : (s.modCore c f).ask = s.ask := rfl
@[simp] theorem State.modCore_found (s : State) (c : Nat) (f : Core → Core) : (s.modCore c f).found = s.found := rfl
@[simp] theorem State.modCore_held (s : State) (c : Nat) (f : Core → Core) : (s.modCore c f).held = s.held := rfl
@[simp] theorem State.modCore_cur (s : State) (c : Nat) (f : Core → Core) : (s.modCore c f).cur = s.cur := rfl
@[simp] theorem State.modCore_agenda (s : State) (c : Nat) (f : Core → Core) : (s.modCore c f).agenda = s.agenda := rfl
@[simp] theorem State.modCore_fresh (s : State) (c : Nat) (f : Core → Core) : (s.modCore c f).fresh = s.fresh := rfl
@[simp] theorem State.modCore_now (s : State) (c : Nat) (f : Core → Core) : (s.modCore c f).now = s.now := rfl
@[simp] theorem State.modCore_nextId (s : State) (c : Nat) (f : Core → Core) : (s.modCore c f).nextId = s.nextId := rfl

/-! ## `State.modCluster` -/

@[simp] theorem State.modCluster_mem (s : State) (k : Nat) (f : Cluster → Cluster) : (s.modCluster k f).mem = s.mem := rfl
@[simp] theorem State.modCluster_side (s : State) (k : Nat) (f : Cluster → Cluster) : (s.modCluster k f).side = s.side := rfl
@[simp] theorem State.modCluster_bad (s : State) (k : Nat) (f : Cluster → Cluster) : (s.modCluster k f).bad = s.bad := rfl
@[simp] theorem State.modCluster_sideBad (s : State) (k : Nat) (f : Cluster → Cluster) : (s.modCluster k f).sideBad = s.sideBad := rfl
@[simp] theorem State.modCluster_slices (s : State) (k : Nat) (f : Cluster → Cluster) : (s.modCluster k f).slices = s.slices := rfl
@[simp] theorem State.modCluster_cells (s : State) (k : Nat) (f : Cluster → Cluster) : (s.modCluster k f).cells = s.cells := rfl
@[simp] theorem State.modCluster_tags (s : State) (k : Nat) (f : Cluster → Cluster) : (s.modCluster k f).tags = s.tags := rfl
@[simp] theorem State.modCluster_gangs (s : State) (k : Nat) (f : Cluster → Cluster) : (s.modCluster k f).gangs = s.gangs := rfl
@[simp] theorem State.modCluster_wgs (s : State) (k : Nat) (f : Cluster → Cluster) : (s.modCluster k f).wgs = s.wgs := rfl
@[simp] theorem State.modCluster_grids (s : State) (k : Nat) (f : Cluster → Cluster) : (s.modCluster k f).grids = s.grids := rfl
@[simp] theorem State.modCluster_cores (s : State) (k : Nat) (f : Cluster → Cluster) : (s.modCluster k f).cores = s.cores := rfl
@[simp] theorem State.modCluster_clusters (s : State) (k : Nat) (f : Cluster → Cluster) : (s.modCluster k f).clusters = SMap.upd k Cluster.init f s.clusters := rfl
@[simp] theorem State.modCluster_engines (s : State) (k : Nat) (f : Cluster → Cluster) : (s.modCluster k f).engines = s.engines := rfl
@[simp] theorem State.modCluster_twins (s : State) (k : Nat) (f : Cluster → Cluster) : (s.modCluster k f).twins = s.twins := rfl
@[simp] theorem State.modCluster_parts (s : State) (k : Nat) (f : Cluster → Cluster) : (s.modCluster k f).parts = s.parts := rfl
@[simp] theorem State.modCluster_vdevs (s : State) (k : Nat) (f : Cluster → Cluster) : (s.modCluster k f).vdevs = s.vdevs := rfl
@[simp] theorem State.modCluster_ctxs (s : State) (k : Nat) (f : Cluster → Cluster) : (s.modCluster k f).ctxs = s.ctxs := rfl
@[simp] theorem State.modCluster_buckets (s : State) (k : Nat) (f : Cluster → Cluster) : (s.modCluster k f).buckets = s.buckets := rfl
@[simp] theorem State.modCluster_periods (s : State) (k : Nat) (f : Cluster → Cluster) : (s.modCluster k f).periods = s.periods := rfl
@[simp] theorem State.modCluster_inbound (s : State) (k : Nat) (f : Cluster → Cluster) : (s.modCluster k f).inbound = s.inbound := rfl
@[simp] theorem State.modCluster_peers (s : State) (k : Nat) (f : Cluster → Cluster) : (s.modCluster k f).peers = s.peers := rfl
@[simp] theorem State.modCluster_lost (s : State) (k : Nat) (f : Cluster → Cluster) : (s.modCluster k f).lost = s.lost := rfl
@[simp] theorem State.modCluster_pkg (s : State) (k : Nat) (f : Cluster → Cluster) : (s.modCluster k f).pkg = s.pkg := rfl
@[simp] theorem State.modCluster_out (s : State) (k : Nat) (f : Cluster → Cluster) : (s.modCluster k f).out = s.out := rfl
@[simp] theorem State.modCluster_queued (s : State) (k : Nat) (f : Cluster → Cluster) : (s.modCluster k f).queued = s.queued := rfl
@[simp] theorem State.modCluster_ask (s : State) (k : Nat) (f : Cluster → Cluster) : (s.modCluster k f).ask = s.ask := rfl
@[simp] theorem State.modCluster_found (s : State) (k : Nat) (f : Cluster → Cluster) : (s.modCluster k f).found = s.found := rfl
@[simp] theorem State.modCluster_held (s : State) (k : Nat) (f : Cluster → Cluster) : (s.modCluster k f).held = s.held := rfl
@[simp] theorem State.modCluster_cur (s : State) (k : Nat) (f : Cluster → Cluster) : (s.modCluster k f).cur = s.cur := rfl
@[simp] theorem State.modCluster_agenda (s : State) (k : Nat) (f : Cluster → Cluster) : (s.modCluster k f).agenda = s.agenda := rfl
@[simp] theorem State.modCluster_fresh (s : State) (k : Nat) (f : Cluster → Cluster) : (s.modCluster k f).fresh = s.fresh := rfl
@[simp] theorem State.modCluster_now (s : State) (k : Nat) (f : Cluster → Cluster) : (s.modCluster k f).now = s.now := rfl
@[simp] theorem State.modCluster_nextId (s : State) (k : Nat) (f : Cluster → Cluster) : (s.modCluster k f).nextId = s.nextId := rfl

/-! ## `State.modEngine` -/

@[simp] theorem State.modEngine_mem (s : State) (e : Nat) (f : Engine → Engine) : (s.modEngine e f).mem = s.mem := rfl
@[simp] theorem State.modEngine_side (s : State) (e : Nat) (f : Engine → Engine) : (s.modEngine e f).side = s.side := rfl
@[simp] theorem State.modEngine_bad (s : State) (e : Nat) (f : Engine → Engine) : (s.modEngine e f).bad = s.bad := rfl
@[simp] theorem State.modEngine_sideBad (s : State) (e : Nat) (f : Engine → Engine) : (s.modEngine e f).sideBad = s.sideBad := rfl
@[simp] theorem State.modEngine_slices (s : State) (e : Nat) (f : Engine → Engine) : (s.modEngine e f).slices = s.slices := rfl
@[simp] theorem State.modEngine_cells (s : State) (e : Nat) (f : Engine → Engine) : (s.modEngine e f).cells = s.cells := rfl
@[simp] theorem State.modEngine_tags (s : State) (e : Nat) (f : Engine → Engine) : (s.modEngine e f).tags = s.tags := rfl
@[simp] theorem State.modEngine_gangs (s : State) (e : Nat) (f : Engine → Engine) : (s.modEngine e f).gangs = s.gangs := rfl
@[simp] theorem State.modEngine_wgs (s : State) (e : Nat) (f : Engine → Engine) : (s.modEngine e f).wgs = s.wgs := rfl
@[simp] theorem State.modEngine_grids (s : State) (e : Nat) (f : Engine → Engine) : (s.modEngine e f).grids = s.grids := rfl
@[simp] theorem State.modEngine_cores (s : State) (e : Nat) (f : Engine → Engine) : (s.modEngine e f).cores = s.cores := rfl
@[simp] theorem State.modEngine_clusters (s : State) (e : Nat) (f : Engine → Engine) : (s.modEngine e f).clusters = s.clusters := rfl
@[simp] theorem State.modEngine_engines (s : State) (e : Nat) (f : Engine → Engine) : (s.modEngine e f).engines = SMap.upd e Engine.init f s.engines := rfl
@[simp] theorem State.modEngine_twins (s : State) (e : Nat) (f : Engine → Engine) : (s.modEngine e f).twins = s.twins := rfl
@[simp] theorem State.modEngine_parts (s : State) (e : Nat) (f : Engine → Engine) : (s.modEngine e f).parts = s.parts := rfl
@[simp] theorem State.modEngine_vdevs (s : State) (e : Nat) (f : Engine → Engine) : (s.modEngine e f).vdevs = s.vdevs := rfl
@[simp] theorem State.modEngine_ctxs (s : State) (e : Nat) (f : Engine → Engine) : (s.modEngine e f).ctxs = s.ctxs := rfl
@[simp] theorem State.modEngine_buckets (s : State) (e : Nat) (f : Engine → Engine) : (s.modEngine e f).buckets = s.buckets := rfl
@[simp] theorem State.modEngine_periods (s : State) (e : Nat) (f : Engine → Engine) : (s.modEngine e f).periods = s.periods := rfl
@[simp] theorem State.modEngine_inbound (s : State) (e : Nat) (f : Engine → Engine) : (s.modEngine e f).inbound = s.inbound := rfl
@[simp] theorem State.modEngine_peers (s : State) (e : Nat) (f : Engine → Engine) : (s.modEngine e f).peers = s.peers := rfl
@[simp] theorem State.modEngine_lost (s : State) (e : Nat) (f : Engine → Engine) : (s.modEngine e f).lost = s.lost := rfl
@[simp] theorem State.modEngine_pkg (s : State) (e : Nat) (f : Engine → Engine) : (s.modEngine e f).pkg = s.pkg := rfl
@[simp] theorem State.modEngine_out (s : State) (e : Nat) (f : Engine → Engine) : (s.modEngine e f).out = s.out := rfl
@[simp] theorem State.modEngine_queued (s : State) (e : Nat) (f : Engine → Engine) : (s.modEngine e f).queued = s.queued := rfl
@[simp] theorem State.modEngine_ask (s : State) (e : Nat) (f : Engine → Engine) : (s.modEngine e f).ask = s.ask := rfl
@[simp] theorem State.modEngine_found (s : State) (e : Nat) (f : Engine → Engine) : (s.modEngine e f).found = s.found := rfl
@[simp] theorem State.modEngine_held (s : State) (e : Nat) (f : Engine → Engine) : (s.modEngine e f).held = s.held := rfl
@[simp] theorem State.modEngine_cur (s : State) (e : Nat) (f : Engine → Engine) : (s.modEngine e f).cur = s.cur := rfl
@[simp] theorem State.modEngine_agenda (s : State) (e : Nat) (f : Engine → Engine) : (s.modEngine e f).agenda = s.agenda := rfl
@[simp] theorem State.modEngine_fresh (s : State) (e : Nat) (f : Engine → Engine) : (s.modEngine e f).fresh = s.fresh := rfl
@[simp] theorem State.modEngine_now (s : State) (e : Nat) (f : Engine → Engine) : (s.modEngine e f).now = s.now := rfl
@[simp] theorem State.modEngine_nextId (s : State) (e : Nat) (f : Engine → Engine) : (s.modEngine e f).nextId = s.nextId := rfl

/-! ## `State.modPart` -/

@[simp] theorem State.modPart_mem (s : State) (p : Nat) (f : Partition → Partition) : (s.modPart p f).mem = s.mem := rfl
@[simp] theorem State.modPart_side (s : State) (p : Nat) (f : Partition → Partition) : (s.modPart p f).side = s.side := rfl
@[simp] theorem State.modPart_bad (s : State) (p : Nat) (f : Partition → Partition) : (s.modPart p f).bad = s.bad := rfl
@[simp] theorem State.modPart_sideBad (s : State) (p : Nat) (f : Partition → Partition) : (s.modPart p f).sideBad = s.sideBad := rfl
@[simp] theorem State.modPart_slices (s : State) (p : Nat) (f : Partition → Partition) : (s.modPart p f).slices = s.slices := rfl
@[simp] theorem State.modPart_cells (s : State) (p : Nat) (f : Partition → Partition) : (s.modPart p f).cells = s.cells := rfl
@[simp] theorem State.modPart_tags (s : State) (p : Nat) (f : Partition → Partition) : (s.modPart p f).tags = s.tags := rfl
@[simp] theorem State.modPart_gangs (s : State) (p : Nat) (f : Partition → Partition) : (s.modPart p f).gangs = s.gangs := rfl
@[simp] theorem State.modPart_wgs (s : State) (p : Nat) (f : Partition → Partition) : (s.modPart p f).wgs = s.wgs := rfl
@[simp] theorem State.modPart_grids (s : State) (p : Nat) (f : Partition → Partition) : (s.modPart p f).grids = s.grids := rfl
@[simp] theorem State.modPart_cores (s : State) (p : Nat) (f : Partition → Partition) : (s.modPart p f).cores = s.cores := rfl
@[simp] theorem State.modPart_clusters (s : State) (p : Nat) (f : Partition → Partition) : (s.modPart p f).clusters = s.clusters := rfl
@[simp] theorem State.modPart_engines (s : State) (p : Nat) (f : Partition → Partition) : (s.modPart p f).engines = s.engines := rfl
@[simp] theorem State.modPart_twins (s : State) (p : Nat) (f : Partition → Partition) : (s.modPart p f).twins = s.twins := rfl
@[simp] theorem State.modPart_parts (s : State) (p : Nat) (f : Partition → Partition) : (s.modPart p f).parts = SMap.upd p Partition.init f s.parts := rfl
@[simp] theorem State.modPart_vdevs (s : State) (p : Nat) (f : Partition → Partition) : (s.modPart p f).vdevs = s.vdevs := rfl
@[simp] theorem State.modPart_ctxs (s : State) (p : Nat) (f : Partition → Partition) : (s.modPart p f).ctxs = s.ctxs := rfl
@[simp] theorem State.modPart_buckets (s : State) (p : Nat) (f : Partition → Partition) : (s.modPart p f).buckets = s.buckets := rfl
@[simp] theorem State.modPart_periods (s : State) (p : Nat) (f : Partition → Partition) : (s.modPart p f).periods = s.periods := rfl
@[simp] theorem State.modPart_inbound (s : State) (p : Nat) (f : Partition → Partition) : (s.modPart p f).inbound = s.inbound := rfl
@[simp] theorem State.modPart_peers (s : State) (p : Nat) (f : Partition → Partition) : (s.modPart p f).peers = s.peers := rfl
@[simp] theorem State.modPart_lost (s : State) (p : Nat) (f : Partition → Partition) : (s.modPart p f).lost = s.lost := rfl
@[simp] theorem State.modPart_pkg (s : State) (p : Nat) (f : Partition → Partition) : (s.modPart p f).pkg = s.pkg := rfl
@[simp] theorem State.modPart_out (s : State) (p : Nat) (f : Partition → Partition) : (s.modPart p f).out = s.out := rfl
@[simp] theorem State.modPart_queued (s : State) (p : Nat) (f : Partition → Partition) : (s.modPart p f).queued = s.queued := rfl
@[simp] theorem State.modPart_ask (s : State) (p : Nat) (f : Partition → Partition) : (s.modPart p f).ask = s.ask := rfl
@[simp] theorem State.modPart_found (s : State) (p : Nat) (f : Partition → Partition) : (s.modPart p f).found = s.found := rfl
@[simp] theorem State.modPart_held (s : State) (p : Nat) (f : Partition → Partition) : (s.modPart p f).held = s.held := rfl
@[simp] theorem State.modPart_cur (s : State) (p : Nat) (f : Partition → Partition) : (s.modPart p f).cur = s.cur := rfl
@[simp] theorem State.modPart_agenda (s : State) (p : Nat) (f : Partition → Partition) : (s.modPart p f).agenda = s.agenda := rfl
@[simp] theorem State.modPart_fresh (s : State) (p : Nat) (f : Partition → Partition) : (s.modPart p f).fresh = s.fresh := rfl
@[simp] theorem State.modPart_now (s : State) (p : Nat) (f : Partition → Partition) : (s.modPart p f).now = s.now := rfl
@[simp] theorem State.modPart_nextId (s : State) (p : Nat) (f : Partition → Partition) : (s.modPart p f).nextId = s.nextId := rfl

/-! ## `State.modVdev` -/

@[simp] theorem State.modVdev_mem (s : State) (v : Nat) (f : Vdev → Vdev) : (s.modVdev v f).mem = s.mem := rfl
@[simp] theorem State.modVdev_side (s : State) (v : Nat) (f : Vdev → Vdev) : (s.modVdev v f).side = s.side := rfl
@[simp] theorem State.modVdev_bad (s : State) (v : Nat) (f : Vdev → Vdev) : (s.modVdev v f).bad = s.bad := rfl
@[simp] theorem State.modVdev_sideBad (s : State) (v : Nat) (f : Vdev → Vdev) : (s.modVdev v f).sideBad = s.sideBad := rfl
@[simp] theorem State.modVdev_slices (s : State) (v : Nat) (f : Vdev → Vdev) : (s.modVdev v f).slices = s.slices := rfl
@[simp] theorem State.modVdev_cells (s : State) (v : Nat) (f : Vdev → Vdev) : (s.modVdev v f).cells = s.cells := rfl
@[simp] theorem State.modVdev_tags (s : State) (v : Nat) (f : Vdev → Vdev) : (s.modVdev v f).tags = s.tags := rfl
@[simp] theorem State.modVdev_gangs (s : State) (v : Nat) (f : Vdev → Vdev) : (s.modVdev v f).gangs = s.gangs := rfl
@[simp] theorem State.modVdev_wgs (s : State) (v : Nat) (f : Vdev → Vdev) : (s.modVdev v f).wgs = s.wgs := rfl
@[simp] theorem State.modVdev_grids (s : State) (v : Nat) (f : Vdev → Vdev) : (s.modVdev v f).grids = s.grids := rfl
@[simp] theorem State.modVdev_cores (s : State) (v : Nat) (f : Vdev → Vdev) : (s.modVdev v f).cores = s.cores := rfl
@[simp] theorem State.modVdev_clusters (s : State) (v : Nat) (f : Vdev → Vdev) : (s.modVdev v f).clusters = s.clusters := rfl
@[simp] theorem State.modVdev_engines (s : State) (v : Nat) (f : Vdev → Vdev) : (s.modVdev v f).engines = s.engines := rfl
@[simp] theorem State.modVdev_twins (s : State) (v : Nat) (f : Vdev → Vdev) : (s.modVdev v f).twins = s.twins := rfl
@[simp] theorem State.modVdev_parts (s : State) (v : Nat) (f : Vdev → Vdev) : (s.modVdev v f).parts = s.parts := rfl
@[simp] theorem State.modVdev_vdevs (s : State) (v : Nat) (f : Vdev → Vdev) : (s.modVdev v f).vdevs = SMap.upd v Vdev.init f s.vdevs := rfl
@[simp] theorem State.modVdev_ctxs (s : State) (v : Nat) (f : Vdev → Vdev) : (s.modVdev v f).ctxs = s.ctxs := rfl
@[simp] theorem State.modVdev_buckets (s : State) (v : Nat) (f : Vdev → Vdev) : (s.modVdev v f).buckets = s.buckets := rfl
@[simp] theorem State.modVdev_periods (s : State) (v : Nat) (f : Vdev → Vdev) : (s.modVdev v f).periods = s.periods := rfl
@[simp] theorem State.modVdev_inbound (s : State) (v : Nat) (f : Vdev → Vdev) : (s.modVdev v f).inbound = s.inbound := rfl
@[simp] theorem State.modVdev_peers (s : State) (v : Nat) (f : Vdev → Vdev) : (s.modVdev v f).peers = s.peers := rfl
@[simp] theorem State.modVdev_lost (s : State) (v : Nat) (f : Vdev → Vdev) : (s.modVdev v f).lost = s.lost := rfl
@[simp] theorem State.modVdev_pkg (s : State) (v : Nat) (f : Vdev → Vdev) : (s.modVdev v f).pkg = s.pkg := rfl
@[simp] theorem State.modVdev_out (s : State) (v : Nat) (f : Vdev → Vdev) : (s.modVdev v f).out = s.out := rfl
@[simp] theorem State.modVdev_queued (s : State) (v : Nat) (f : Vdev → Vdev) : (s.modVdev v f).queued = s.queued := rfl
@[simp] theorem State.modVdev_ask (s : State) (v : Nat) (f : Vdev → Vdev) : (s.modVdev v f).ask = s.ask := rfl
@[simp] theorem State.modVdev_found (s : State) (v : Nat) (f : Vdev → Vdev) : (s.modVdev v f).found = s.found := rfl
@[simp] theorem State.modVdev_held (s : State) (v : Nat) (f : Vdev → Vdev) : (s.modVdev v f).held = s.held := rfl
@[simp] theorem State.modVdev_cur (s : State) (v : Nat) (f : Vdev → Vdev) : (s.modVdev v f).cur = s.cur := rfl
@[simp] theorem State.modVdev_agenda (s : State) (v : Nat) (f : Vdev → Vdev) : (s.modVdev v f).agenda = s.agenda := rfl
@[simp] theorem State.modVdev_fresh (s : State) (v : Nat) (f : Vdev → Vdev) : (s.modVdev v f).fresh = s.fresh := rfl
@[simp] theorem State.modVdev_now (s : State) (v : Nat) (f : Vdev → Vdev) : (s.modVdev v f).now = s.now := rfl
@[simp] theorem State.modVdev_nextId (s : State) (v : Nat) (f : Vdev → Vdev) : (s.modVdev v f).nextId = s.nextId := rfl

/-! ## `State.modCtx` -/

@[simp] theorem State.modCtx_mem (s : State) (a : Nat) (f : Ctx → Ctx) : (s.modCtx a f).mem = s.mem := rfl
@[simp] theorem State.modCtx_side (s : State) (a : Nat) (f : Ctx → Ctx) : (s.modCtx a f).side = s.side := rfl
@[simp] theorem State.modCtx_bad (s : State) (a : Nat) (f : Ctx → Ctx) : (s.modCtx a f).bad = s.bad := rfl
@[simp] theorem State.modCtx_sideBad (s : State) (a : Nat) (f : Ctx → Ctx) : (s.modCtx a f).sideBad = s.sideBad := rfl
@[simp] theorem State.modCtx_slices (s : State) (a : Nat) (f : Ctx → Ctx) : (s.modCtx a f).slices = s.slices := rfl
@[simp] theorem State.modCtx_cells (s : State) (a : Nat) (f : Ctx → Ctx) : (s.modCtx a f).cells = s.cells := rfl
@[simp] theorem State.modCtx_tags (s : State) (a : Nat) (f : Ctx → Ctx) : (s.modCtx a f).tags = s.tags := rfl
@[simp] theorem State.modCtx_gangs (s : State) (a : Nat) (f : Ctx → Ctx) : (s.modCtx a f).gangs = s.gangs := rfl
@[simp] theorem State.modCtx_wgs (s : State) (a : Nat) (f : Ctx → Ctx) : (s.modCtx a f).wgs = s.wgs := rfl
@[simp] theorem State.modCtx_grids (s : State) (a : Nat) (f : Ctx → Ctx) : (s.modCtx a f).grids = s.grids := rfl
@[simp] theorem State.modCtx_cores (s : State) (a : Nat) (f : Ctx → Ctx) : (s.modCtx a f).cores = s.cores := rfl
@[simp] theorem State.modCtx_clusters (s : State) (a : Nat) (f : Ctx → Ctx) : (s.modCtx a f).clusters = s.clusters := rfl
@[simp] theorem State.modCtx_engines (s : State) (a : Nat) (f : Ctx → Ctx) : (s.modCtx a f).engines = s.engines := rfl
@[simp] theorem State.modCtx_twins (s : State) (a : Nat) (f : Ctx → Ctx) : (s.modCtx a f).twins = s.twins := rfl
@[simp] theorem State.modCtx_parts (s : State) (a : Nat) (f : Ctx → Ctx) : (s.modCtx a f).parts = s.parts := rfl
@[simp] theorem State.modCtx_vdevs (s : State) (a : Nat) (f : Ctx → Ctx) : (s.modCtx a f).vdevs = s.vdevs := rfl
@[simp] theorem State.modCtx_ctxs (s : State) (a : Nat) (f : Ctx → Ctx) : (s.modCtx a f).ctxs = SMap.upd a Ctx.init f s.ctxs := rfl
@[simp] theorem State.modCtx_buckets (s : State) (a : Nat) (f : Ctx → Ctx) : (s.modCtx a f).buckets = s.buckets := rfl
@[simp] theorem State.modCtx_periods (s : State) (a : Nat) (f : Ctx → Ctx) : (s.modCtx a f).periods = s.periods := rfl
@[simp] theorem State.modCtx_inbound (s : State) (a : Nat) (f : Ctx → Ctx) : (s.modCtx a f).inbound = s.inbound := rfl
@[simp] theorem State.modCtx_peers (s : State) (a : Nat) (f : Ctx → Ctx) : (s.modCtx a f).peers = s.peers := rfl
@[simp] theorem State.modCtx_lost (s : State) (a : Nat) (f : Ctx → Ctx) : (s.modCtx a f).lost = s.lost := rfl
@[simp] theorem State.modCtx_pkg (s : State) (a : Nat) (f : Ctx → Ctx) : (s.modCtx a f).pkg = s.pkg := rfl
@[simp] theorem State.modCtx_out (s : State) (a : Nat) (f : Ctx → Ctx) : (s.modCtx a f).out = s.out := rfl
@[simp] theorem State.modCtx_queued (s : State) (a : Nat) (f : Ctx → Ctx) : (s.modCtx a f).queued = s.queued := rfl
@[simp] theorem State.modCtx_ask (s : State) (a : Nat) (f : Ctx → Ctx) : (s.modCtx a f).ask = s.ask := rfl
@[simp] theorem State.modCtx_found (s : State) (a : Nat) (f : Ctx → Ctx) : (s.modCtx a f).found = s.found := rfl
@[simp] theorem State.modCtx_held (s : State) (a : Nat) (f : Ctx → Ctx) : (s.modCtx a f).held = s.held := rfl
@[simp] theorem State.modCtx_cur (s : State) (a : Nat) (f : Ctx → Ctx) : (s.modCtx a f).cur = s.cur := rfl
@[simp] theorem State.modCtx_agenda (s : State) (a : Nat) (f : Ctx → Ctx) : (s.modCtx a f).agenda = s.agenda := rfl
@[simp] theorem State.modCtx_fresh (s : State) (a : Nat) (f : Ctx → Ctx) : (s.modCtx a f).fresh = s.fresh := rfl
@[simp] theorem State.modCtx_now (s : State) (a : Nat) (f : Ctx → Ctx) : (s.modCtx a f).now = s.now := rfl
@[simp] theorem State.modCtx_nextId (s : State) (a : Nat) (f : Ctx → Ctx) : (s.modCtx a f).nextId = s.nextId := rfl

/-! ## `State.emit` -/

@[simp] theorem State.emit_mem (s : State) (o : Out) : (s.emit o).mem = s.mem := rfl
@[simp] theorem State.emit_side (s : State) (o : Out) : (s.emit o).side = s.side := rfl
@[simp] theorem State.emit_bad (s : State) (o : Out) : (s.emit o).bad = s.bad := rfl
@[simp] theorem State.emit_sideBad (s : State) (o : Out) : (s.emit o).sideBad = s.sideBad := rfl
@[simp] theorem State.emit_slices (s : State) (o : Out) : (s.emit o).slices = s.slices := rfl
@[simp] theorem State.emit_cells (s : State) (o : Out) : (s.emit o).cells = s.cells := rfl
@[simp] theorem State.emit_tags (s : State) (o : Out) : (s.emit o).tags = s.tags := rfl
@[simp] theorem State.emit_gangs (s : State) (o : Out) : (s.emit o).gangs = s.gangs := rfl
@[simp] theorem State.emit_wgs (s : State) (o : Out) : (s.emit o).wgs = s.wgs := rfl
@[simp] theorem State.emit_grids (s : State) (o : Out) : (s.emit o).grids = s.grids := rfl
@[simp] theorem State.emit_cores (s : State) (o : Out) : (s.emit o).cores = s.cores := rfl
@[simp] theorem State.emit_clusters (s : State) (o : Out) : (s.emit o).clusters = s.clusters := rfl
@[simp] theorem State.emit_engines (s : State) (o : Out) : (s.emit o).engines = s.engines := rfl
@[simp] theorem State.emit_twins (s : State) (o : Out) : (s.emit o).twins = s.twins := rfl
@[simp] theorem State.emit_parts (s : State) (o : Out) : (s.emit o).parts = s.parts := rfl
@[simp] theorem State.emit_vdevs (s : State) (o : Out) : (s.emit o).vdevs = s.vdevs := rfl
@[simp] theorem State.emit_ctxs (s : State) (o : Out) : (s.emit o).ctxs = s.ctxs := rfl
@[simp] theorem State.emit_buckets (s : State) (o : Out) : (s.emit o).buckets = s.buckets := rfl
@[simp] theorem State.emit_periods (s : State) (o : Out) : (s.emit o).periods = s.periods := rfl
@[simp] theorem State.emit_inbound (s : State) (o : Out) : (s.emit o).inbound = s.inbound := rfl
@[simp] theorem State.emit_peers (s : State) (o : Out) : (s.emit o).peers = s.peers := rfl
@[simp] theorem State.emit_lost (s : State) (o : Out) : (s.emit o).lost = s.lost := rfl
@[simp] theorem State.emit_pkg (s : State) (o : Out) : (s.emit o).pkg = s.pkg := rfl
@[simp] theorem State.emit_out (s : State) (o : Out) : (s.emit o).out = s.out ++ [o] := rfl
@[simp] theorem State.emit_queued (s : State) (o : Out) : (s.emit o).queued = s.queued := rfl
@[simp] theorem State.emit_ask (s : State) (o : Out) : (s.emit o).ask = s.ask := rfl
@[simp] theorem State.emit_found (s : State) (o : Out) : (s.emit o).found = s.found := rfl
@[simp] theorem State.emit_held (s : State) (o : Out) : (s.emit o).held = s.held := rfl
@[simp] theorem State.emit_cur (s : State) (o : Out) : (s.emit o).cur = s.cur := rfl
@[simp] theorem State.emit_agenda (s : State) (o : Out) : (s.emit o).agenda = s.agenda := rfl
@[simp] theorem State.emit_fresh (s : State) (o : Out) : (s.emit o).fresh = s.fresh := rfl
@[simp] theorem State.emit_now (s : State) (o : Out) : (s.emit o).now = s.now := rfl
@[simp] theorem State.emit_nextId (s : State) (o : Out) : (s.emit o).nextId = s.nextId := rfl

/-! ## `State.newId` -/

@[simp] theorem State.newId_fst (s : State) : s.newId.1 = s.nextId := rfl
@[simp] theorem State.newId_snd_mem (s : State) : s.newId.2.mem = s.mem := rfl
@[simp] theorem State.newId_snd_side (s : State) : s.newId.2.side = s.side := rfl
@[simp] theorem State.newId_snd_bad (s : State) : s.newId.2.bad = s.bad := rfl
@[simp] theorem State.newId_snd_sideBad (s : State) : s.newId.2.sideBad = s.sideBad := rfl
@[simp] theorem State.newId_snd_slices (s : State) : s.newId.2.slices = s.slices := rfl
@[simp] theorem State.newId_snd_cells (s : State) : s.newId.2.cells = s.cells := rfl
@[simp] theorem State.newId_snd_tags (s : State) : s.newId.2.tags = s.tags := rfl
@[simp] theorem State.newId_snd_gangs (s : State) : s.newId.2.gangs = s.gangs := rfl
@[simp] theorem State.newId_snd_wgs (s : State) : s.newId.2.wgs = s.wgs := rfl
@[simp] theorem State.newId_snd_grids (s : State) : s.newId.2.grids = s.grids := rfl
@[simp] theorem State.newId_snd_cores (s : State) : s.newId.2.cores = s.cores := rfl
@[simp] theorem State.newId_snd_clusters (s : State) : s.newId.2.clusters = s.clusters := rfl
@[simp] theorem State.newId_snd_engines (s : State) : s.newId.2.engines = s.engines := rfl
@[simp] theorem State.newId_snd_twins (s : State) : s.newId.2.twins = s.twins := rfl
@[simp] theorem State.newId_snd_parts (s : State) : s.newId.2.parts = s.parts := rfl
@[simp] theorem State.newId_snd_vdevs (s : State) : s.newId.2.vdevs = s.vdevs := rfl
@[simp] theorem State.newId_snd_ctxs (s : State) : s.newId.2.ctxs = s.ctxs := rfl
@[simp] theorem State.newId_snd_buckets (s : State) : s.newId.2.buckets = s.buckets := rfl
@[simp] theorem State.newId_snd_periods (s : State) : s.newId.2.periods = s.periods := rfl
@[simp] theorem State.newId_snd_inbound (s : State) : s.newId.2.inbound = s.inbound := rfl
@[simp] theorem State.newId_snd_peers (s : State) : s.newId.2.peers = s.peers := rfl
@[simp] theorem State.newId_snd_lost (s : State) : s.newId.2.lost = s.lost := rfl
@[simp] theorem State.newId_snd_pkg (s : State) : s.newId.2.pkg = s.pkg := rfl
@[simp] theorem State.newId_snd_out (s : State) : s.newId.2.out = s.out := rfl
@[simp] theorem State.newId_snd_queued (s : State) : s.newId.2.queued = s.queued := rfl
@[simp] theorem State.newId_snd_ask (s : State) : s.newId.2.ask = s.ask := rfl
@[simp] theorem State.newId_snd_found (s : State) : s.newId.2.found = s.found := rfl
@[simp] theorem State.newId_snd_held (s : State) : s.newId.2.held = s.held := rfl
@[simp] theorem State.newId_snd_cur (s : State) : s.newId.2.cur = s.cur := rfl
@[simp] theorem State.newId_snd_agenda (s : State) : s.newId.2.agenda = s.agenda := rfl
@[simp] theorem State.newId_snd_fresh (s : State) : s.newId.2.fresh = s.fresh := rfl
@[simp] theorem State.newId_snd_now (s : State) : s.newId.2.now = s.now := rfl
@[simp] theorem State.newId_snd_nextId (s : State) : s.newId.2.nextId = s.nextId + 1 := rfl

/-! ## Accessors after an update -/

@[simp] theorem State.gang?_putGang (s : State) (g : Nat) (G : Gang) : (s.putGang g G).gang? g = some G :=
  SMap.find?_put_same g G s.gangs

theorem State.gang?_putGang_ne (s : State) {g h : Nat} (G : Gang) (n : h ≠ g) : (s.putGang g G).gang? h = s.gang? h :=
  SMap.find?_put_ne n G s.gangs

@[simp] theorem State.gang?_modGang (s : State) (g : Nat) (f : Gang → Gang) :
    (s.modGang g f).gang? g = (s.gang? g).map f := SMap.find?_modify_same g f s.gangs

theorem State.gang?_modGang_ne (s : State) {g h : Nat} (f : Gang → Gang) (n : h ≠ g) :
    (s.modGang g f).gang? h = s.gang? h := SMap.find?_modify_ne n f s.gangs

@[simp] theorem State.wg?_modWg (s : State) (w : Nat) (f : Wg → Wg) : (s.modWg w f).wg? w = (s.wg? w).map f :=
  SMap.find?_modify_same w f s.wgs

theorem State.wg?_modWg_ne (s : State) {w v : Nat} (f : Wg → Wg) (n : v ≠ w) : (s.modWg w f).wg? v = s.wg? v :=
  SMap.find?_modify_ne n f s.wgs

@[simp] theorem State.wg?_putWg (s : State) (w : Nat) (W : Wg) : (s.putWg w W).wg? w = some W :=
  SMap.find?_put_same w W s.wgs

@[simp] theorem State.grid?_modGrid (s : State) (n : Nat) (f : Grid → Grid) : (s.modGrid n f).grid? n = (s.grid? n).map f :=
  SMap.find?_modify_same n f s.grids

@[simp] theorem State.core_modCore (s : State) (c : Nat) (f : Core → Core) : (s.modCore c f).core c = f (s.core c) :=
  SMap.getD_upd_same c Core.init f s.cores

theorem State.core_modCore_ne (s : State) {c j : Nat} (f : Core → Core) (n : j ≠ c) : (s.modCore c f).core j = s.core j :=
  SMap.getD_upd_ne n Core.init f s.cores

@[simp] theorem State.cluster_modCluster (s : State) (k : Nat) (f : Cluster → Cluster) : (s.modCluster k f).cluster k = f (s.cluster k) :=
  SMap.getD_upd_same k Cluster.init f s.clusters

theorem State.cluster_modCluster_ne (s : State) {k j : Nat} (f : Cluster → Cluster) (n : j ≠ k) : (s.modCluster k f).cluster j = s.cluster j :=
  SMap.getD_upd_ne n Cluster.init f s.clusters

@[simp] theorem State.engine_modEngine (s : State) (e : Nat) (f : Engine → Engine) : (s.modEngine e f).engine e = f (s.engine e) :=
  SMap.getD_upd_same e Engine.init f s.engines

theorem State.engine_modEngine_ne (s : State) {e j : Nat} (f : Engine → Engine) (n : j ≠ e) : (s.modEngine e f).engine j = s.engine j :=
  SMap.getD_upd_ne n Engine.init f s.engines

@[simp] theorem State.part_modPart (s : State) (p : Nat) (f : Partition → Partition) : (s.modPart p f).part p = f (s.part p) :=
  SMap.getD_upd_same p Partition.init f s.parts

theorem State.part_modPart_ne (s : State) {p j : Nat} (f : Partition → Partition) (n : j ≠ p) : (s.modPart p f).part j = s.part j :=
  SMap.getD_upd_ne n Partition.init f s.parts

@[simp] theorem State.vdev_modVdev (s : State) (v : Nat) (f : Vdev → Vdev) : (s.modVdev v f).vdev v = f (s.vdev v) :=
  SMap.getD_upd_same v Vdev.init f s.vdevs

theorem State.vdev_modVdev_ne (s : State) {v j : Nat} (f : Vdev → Vdev) (n : j ≠ v) : (s.modVdev v f).vdev j = s.vdev j :=
  SMap.getD_upd_ne n Vdev.init f s.vdevs

@[simp] theorem State.ctx_modCtx (s : State) (a : Nat) (f : Ctx → Ctx) : (s.modCtx a f).ctx a = f (s.ctx a) :=
  SMap.getD_upd_same a Ctx.init f s.ctxs

theorem State.ctx_modCtx_ne (s : State) {a j : Nat} (f : Ctx → Ctx) (n : j ≠ a) : (s.modCtx a f).ctx j = s.ctx j :=
  SMap.getD_upd_ne n Ctx.init f s.ctxs

/-! The six accessors read the same after an update of another table. -/

@[simp] theorem State.wg?_putGang (s : State) (g : Nat) (G : Gang) (j : Nat) : (s.putGang g G).wg? j = s.wg? j := rfl
@[simp] theorem State.grid?_putGang (s : State) (g : Nat) (G : Gang) (j : Nat) : (s.putGang g G).grid? j = s.grid? j := rfl
@[simp] theorem State.core_putGang (s : State) (g : Nat) (G : Gang) (j : Nat) : (s.putGang g G).core j = s.core j := rfl
@[simp] theorem State.cluster_putGang (s : State) (g : Nat) (G : Gang) (j : Nat) : (s.putGang g G).cluster j = s.cluster j := rfl
@[simp] theorem State.engine_putGang (s : State) (g : Nat) (G : Gang) (j : Nat) : (s.putGang g G).engine j = s.engine j := rfl
@[simp] theorem State.part_putGang (s : State) (g : Nat) (G : Gang) (j : Nat) : (s.putGang g G).part j = s.part j := rfl
@[simp] theorem State.vdev_putGang (s : State) (g : Nat) (G : Gang) (j : Nat) : (s.putGang g G).vdev j = s.vdev j := rfl
@[simp] theorem State.ctx_putGang (s : State) (g : Nat) (G : Gang) (j : Nat) : (s.putGang g G).ctx j = s.ctx j := rfl
@[simp] theorem State.wg?_modGang (s : State) (g : Nat) (f : Gang → Gang) (j : Nat) : (s.modGang g f).wg? j = s.wg? j := rfl
@[simp] theorem State.grid?_modGang (s : State) (g : Nat) (f : Gang → Gang) (j : Nat) : (s.modGang g f).grid? j = s.grid? j := rfl
@[simp] theorem State.core_modGang (s : State) (g : Nat) (f : Gang → Gang) (j : Nat) : (s.modGang g f).core j = s.core j := rfl
@[simp] theorem State.cluster_modGang (s : State) (g : Nat) (f : Gang → Gang) (j : Nat) : (s.modGang g f).cluster j = s.cluster j := rfl
@[simp] theorem State.engine_modGang (s : State) (g : Nat) (f : Gang → Gang) (j : Nat) : (s.modGang g f).engine j = s.engine j := rfl
@[simp] theorem State.part_modGang (s : State) (g : Nat) (f : Gang → Gang) (j : Nat) : (s.modGang g f).part j = s.part j := rfl
@[simp] theorem State.vdev_modGang (s : State) (g : Nat) (f : Gang → Gang) (j : Nat) : (s.modGang g f).vdev j = s.vdev j := rfl
@[simp] theorem State.ctx_modGang (s : State) (g : Nat) (f : Gang → Gang) (j : Nat) : (s.modGang g f).ctx j = s.ctx j := rfl
@[simp] theorem State.gang?_putWg (s : State) (w : Nat) (W : Wg) (j : Nat) : (s.putWg w W).gang? j = s.gang? j := rfl
@[simp] theorem State.grid?_putWg (s : State) (w : Nat) (W : Wg) (j : Nat) : (s.putWg w W).grid? j = s.grid? j := rfl
@[simp] theorem State.core_putWg (s : State) (w : Nat) (W : Wg) (j : Nat) : (s.putWg w W).core j = s.core j := rfl
@[simp] theorem State.cluster_putWg (s : State) (w : Nat) (W : Wg) (j : Nat) : (s.putWg w W).cluster j = s.cluster j := rfl
@[simp] theorem State.engine_putWg (s : State) (w : Nat) (W : Wg) (j : Nat) : (s.putWg w W).engine j = s.engine j := rfl
@[simp] theorem State.part_putWg (s : State) (w : Nat) (W : Wg) (j : Nat) : (s.putWg w W).part j = s.part j := rfl
@[simp] theorem State.vdev_putWg (s : State) (w : Nat) (W : Wg) (j : Nat) : (s.putWg w W).vdev j = s.vdev j := rfl
@[simp] theorem State.ctx_putWg (s : State) (w : Nat) (W : Wg) (j : Nat) : (s.putWg w W).ctx j = s.ctx j := rfl
@[simp] theorem State.gang?_modWg (s : State) (w : Nat) (f : Wg → Wg) (j : Nat) : (s.modWg w f).gang? j = s.gang? j := rfl
@[simp] theorem State.grid?_modWg (s : State) (w : Nat) (f : Wg → Wg) (j : Nat) : (s.modWg w f).grid? j = s.grid? j := rfl
@[simp] theorem State.core_modWg (s : State) (w : Nat) (f : Wg → Wg) (j : Nat) : (s.modWg w f).core j = s.core j := rfl
@[simp] theorem State.cluster_modWg (s : State) (w : Nat) (f : Wg → Wg) (j : Nat) : (s.modWg w f).cluster j = s.cluster j := rfl
@[simp] theorem State.engine_modWg (s : State) (w : Nat) (f : Wg → Wg) (j : Nat) : (s.modWg w f).engine j = s.engine j := rfl
@[simp] theorem State.part_modWg (s : State) (w : Nat) (f : Wg → Wg) (j : Nat) : (s.modWg w f).part j = s.part j := rfl
@[simp] theorem State.vdev_modWg (s : State) (w : Nat) (f : Wg → Wg) (j : Nat) : (s.modWg w f).vdev j = s.vdev j := rfl
@[simp] theorem State.ctx_modWg (s : State) (w : Nat) (f : Wg → Wg) (j : Nat) : (s.modWg w f).ctx j = s.ctx j := rfl
@[simp] theorem State.gang?_modGrid (s : State) (n : Nat) (f : Grid → Grid) (j : Nat) : (s.modGrid n f).gang? j = s.gang? j := rfl
@[simp] theorem State.wg?_modGrid (s : State) (n : Nat) (f : Grid → Grid) (j : Nat) : (s.modGrid n f).wg? j = s.wg? j := rfl
@[simp] theorem State.core_modGrid (s : State) (n : Nat) (f : Grid → Grid) (j : Nat) : (s.modGrid n f).core j = s.core j := rfl
@[simp] theorem State.cluster_modGrid (s : State) (n : Nat) (f : Grid → Grid) (j : Nat) : (s.modGrid n f).cluster j = s.cluster j := rfl
@[simp] theorem State.engine_modGrid (s : State) (n : Nat) (f : Grid → Grid) (j : Nat) : (s.modGrid n f).engine j = s.engine j := rfl
@[simp] theorem State.part_modGrid (s : State) (n : Nat) (f : Grid → Grid) (j : Nat) : (s.modGrid n f).part j = s.part j := rfl
@[simp] theorem State.vdev_modGrid (s : State) (n : Nat) (f : Grid → Grid) (j : Nat) : (s.modGrid n f).vdev j = s.vdev j := rfl
@[simp] theorem State.ctx_modGrid (s : State) (n : Nat) (f : Grid → Grid) (j : Nat) : (s.modGrid n f).ctx j = s.ctx j := rfl
@[simp] theorem State.gang?_modCore (s : State) (c : Nat) (f : Core → Core) (j : Nat) : (s.modCore c f).gang? j = s.gang? j := rfl
@[simp] theorem State.wg?_modCore (s : State) (c : Nat) (f : Core → Core) (j : Nat) : (s.modCore c f).wg? j = s.wg? j := rfl
@[simp] theorem State.grid?_modCore (s : State) (c : Nat) (f : Core → Core) (j : Nat) : (s.modCore c f).grid? j = s.grid? j := rfl
@[simp] theorem State.cluster_modCore (s : State) (c : Nat) (f : Core → Core) (j : Nat) : (s.modCore c f).cluster j = s.cluster j := rfl
@[simp] theorem State.engine_modCore (s : State) (c : Nat) (f : Core → Core) (j : Nat) : (s.modCore c f).engine j = s.engine j := rfl
@[simp] theorem State.part_modCore (s : State) (c : Nat) (f : Core → Core) (j : Nat) : (s.modCore c f).part j = s.part j := rfl
@[simp] theorem State.vdev_modCore (s : State) (c : Nat) (f : Core → Core) (j : Nat) : (s.modCore c f).vdev j = s.vdev j := rfl
@[simp] theorem State.ctx_modCore (s : State) (c : Nat) (f : Core → Core) (j : Nat) : (s.modCore c f).ctx j = s.ctx j := rfl
@[simp] theorem State.gang?_modCluster (s : State) (k : Nat) (f : Cluster → Cluster) (j : Nat) : (s.modCluster k f).gang? j = s.gang? j := rfl
@[simp] theorem State.wg?_modCluster (s : State) (k : Nat) (f : Cluster → Cluster) (j : Nat) : (s.modCluster k f).wg? j = s.wg? j := rfl
@[simp] theorem State.grid?_modCluster (s : State) (k : Nat) (f : Cluster → Cluster) (j : Nat) : (s.modCluster k f).grid? j = s.grid? j := rfl
@[simp] theorem State.core_modCluster (s : State) (k : Nat) (f : Cluster → Cluster) (j : Nat) : (s.modCluster k f).core j = s.core j := rfl
@[simp] theorem State.engine_modCluster (s : State) (k : Nat) (f : Cluster → Cluster) (j : Nat) : (s.modCluster k f).engine j = s.engine j := rfl
@[simp] theorem State.part_modCluster (s : State) (k : Nat) (f : Cluster → Cluster) (j : Nat) : (s.modCluster k f).part j = s.part j := rfl
@[simp] theorem State.vdev_modCluster (s : State) (k : Nat) (f : Cluster → Cluster) (j : Nat) : (s.modCluster k f).vdev j = s.vdev j := rfl
@[simp] theorem State.ctx_modCluster (s : State) (k : Nat) (f : Cluster → Cluster) (j : Nat) : (s.modCluster k f).ctx j = s.ctx j := rfl
@[simp] theorem State.gang?_modEngine (s : State) (e : Nat) (f : Engine → Engine) (j : Nat) : (s.modEngine e f).gang? j = s.gang? j := rfl
@[simp] theorem State.wg?_modEngine (s : State) (e : Nat) (f : Engine → Engine) (j : Nat) : (s.modEngine e f).wg? j = s.wg? j := rfl
@[simp] theorem State.grid?_modEngine (s : State) (e : Nat) (f : Engine → Engine) (j : Nat) : (s.modEngine e f).grid? j = s.grid? j := rfl
@[simp] theorem State.core_modEngine (s : State) (e : Nat) (f : Engine → Engine) (j : Nat) : (s.modEngine e f).core j = s.core j := rfl
@[simp] theorem State.cluster_modEngine (s : State) (e : Nat) (f : Engine → Engine) (j : Nat) : (s.modEngine e f).cluster j = s.cluster j := rfl
@[simp] theorem State.part_modEngine (s : State) (e : Nat) (f : Engine → Engine) (j : Nat) : (s.modEngine e f).part j = s.part j := rfl
@[simp] theorem State.vdev_modEngine (s : State) (e : Nat) (f : Engine → Engine) (j : Nat) : (s.modEngine e f).vdev j = s.vdev j := rfl
@[simp] theorem State.ctx_modEngine (s : State) (e : Nat) (f : Engine → Engine) (j : Nat) : (s.modEngine e f).ctx j = s.ctx j := rfl
@[simp] theorem State.gang?_modPart (s : State) (p : Nat) (f : Partition → Partition) (j : Nat) : (s.modPart p f).gang? j = s.gang? j := rfl
@[simp] theorem State.wg?_modPart (s : State) (p : Nat) (f : Partition → Partition) (j : Nat) : (s.modPart p f).wg? j = s.wg? j := rfl
@[simp] theorem State.grid?_modPart (s : State) (p : Nat) (f : Partition → Partition) (j : Nat) : (s.modPart p f).grid? j = s.grid? j := rfl
@[simp] theorem State.core_modPart (s : State) (p : Nat) (f : Partition → Partition) (j : Nat) : (s.modPart p f).core j = s.core j := rfl
@[simp] theorem State.cluster_modPart (s : State) (p : Nat) (f : Partition → Partition) (j : Nat) : (s.modPart p f).cluster j = s.cluster j := rfl
@[simp] theorem State.engine_modPart (s : State) (p : Nat) (f : Partition → Partition) (j : Nat) : (s.modPart p f).engine j = s.engine j := rfl
@[simp] theorem State.vdev_modPart (s : State) (p : Nat) (f : Partition → Partition) (j : Nat) : (s.modPart p f).vdev j = s.vdev j := rfl
@[simp] theorem State.ctx_modPart (s : State) (p : Nat) (f : Partition → Partition) (j : Nat) : (s.modPart p f).ctx j = s.ctx j := rfl
@[simp] theorem State.gang?_modVdev (s : State) (v : Nat) (f : Vdev → Vdev) (j : Nat) : (s.modVdev v f).gang? j = s.gang? j := rfl
@[simp] theorem State.wg?_modVdev (s : State) (v : Nat) (f : Vdev → Vdev) (j : Nat) : (s.modVdev v f).wg? j = s.wg? j := rfl
@[simp] theorem State.grid?_modVdev (s : State) (v : Nat) (f : Vdev → Vdev) (j : Nat) : (s.modVdev v f).grid? j = s.grid? j := rfl
@[simp] theorem State.core_modVdev (s : State) (v : Nat) (f : Vdev → Vdev) (j : Nat) : (s.modVdev v f).core j = s.core j := rfl
@[simp] theorem State.cluster_modVdev (s : State) (v : Nat) (f : Vdev → Vdev) (j : Nat) : (s.modVdev v f).cluster j = s.cluster j := rfl
@[simp] theorem State.engine_modVdev (s : State) (v : Nat) (f : Vdev → Vdev) (j : Nat) : (s.modVdev v f).engine j = s.engine j := rfl
@[simp] theorem State.part_modVdev (s : State) (v : Nat) (f : Vdev → Vdev) (j : Nat) : (s.modVdev v f).part j = s.part j := rfl
@[simp] theorem State.ctx_modVdev (s : State) (v : Nat) (f : Vdev → Vdev) (j : Nat) : (s.modVdev v f).ctx j = s.ctx j := rfl
@[simp] theorem State.gang?_modCtx (s : State) (a : Nat) (f : Ctx → Ctx) (j : Nat) : (s.modCtx a f).gang? j = s.gang? j := rfl
@[simp] theorem State.wg?_modCtx (s : State) (a : Nat) (f : Ctx → Ctx) (j : Nat) : (s.modCtx a f).wg? j = s.wg? j := rfl
@[simp] theorem State.grid?_modCtx (s : State) (a : Nat) (f : Ctx → Ctx) (j : Nat) : (s.modCtx a f).grid? j = s.grid? j := rfl
@[simp] theorem State.core_modCtx (s : State) (a : Nat) (f : Ctx → Ctx) (j : Nat) : (s.modCtx a f).core j = s.core j := rfl
@[simp] theorem State.cluster_modCtx (s : State) (a : Nat) (f : Ctx → Ctx) (j : Nat) : (s.modCtx a f).cluster j = s.cluster j := rfl
@[simp] theorem State.engine_modCtx (s : State) (a : Nat) (f : Ctx → Ctx) (j : Nat) : (s.modCtx a f).engine j = s.engine j := rfl
@[simp] theorem State.part_modCtx (s : State) (a : Nat) (f : Ctx → Ctx) (j : Nat) : (s.modCtx a f).part j = s.part j := rfl
@[simp] theorem State.vdev_modCtx (s : State) (a : Nat) (f : Ctx → Ctx) (j : Nat) : (s.modCtx a f).vdev j = s.vdev j := rfl
@[simp] theorem State.gang?_emit (s : State) (o : Out) (j : Nat) : (s.emit o).gang? j = s.gang? j := rfl
@[simp] theorem State.wg?_emit (s : State) (o : Out) (j : Nat) : (s.emit o).wg? j = s.wg? j := rfl
@[simp] theorem State.grid?_emit (s : State) (o : Out) (j : Nat) : (s.emit o).grid? j = s.grid? j := rfl
@[simp] theorem State.core_emit (s : State) (o : Out) (j : Nat) : (s.emit o).core j = s.core j := rfl
@[simp] theorem State.cluster_emit (s : State) (o : Out) (j : Nat) : (s.emit o).cluster j = s.cluster j := rfl
@[simp] theorem State.engine_emit (s : State) (o : Out) (j : Nat) : (s.emit o).engine j = s.engine j := rfl
@[simp] theorem State.part_emit (s : State) (o : Out) (j : Nat) : (s.emit o).part j = s.part j := rfl
@[simp] theorem State.vdev_emit (s : State) (o : Out) (j : Nat) : (s.emit o).vdev j = s.vdev j := rfl
@[simp] theorem State.ctx_emit (s : State) (o : Out) (j : Nat) : (s.emit o).ctx j = s.ctx j := rfl

end Sys2Proof.Machine
end

