-- ==== Sys2Proof/Laws/Canon.lean ====
section
/-! SUPPORT. Every operation that writes memory, its sidecar or its poison marks keeps the canonical form of all of them. -/

namespace Sys2Proof.Machine

/-- A state that has the memory, the sidecar and the marks of a canonical one is canonical. -/
theorem State.Canon.congr {s t : State} (h : s.Canon) (hm : t.mem = s.mem) (hs : t.side = s.side) (hb : t.bad = s.bad)
    (hd : t.sideBad = s.sideBad) : t.Canon := by
  rw [State.Canon, hm, hs, hb, hd]
  exact h

/-- A fold of steps that each keep the form keeps it. -/
theorem State.canon_foldl {α : Type} (f : State → α → State) (hf : ∀ s a, s.Canon → (f s a).Canon) (l : List α) (s : State)
    (h : s.Canon) : (l.foldl f s).Canon := by
  induction l generalizing s with
  | nil => exact h
  | cons a t ih => exact ih _ (hf s a h)

theorem mem_insNat {n x : Nat} : ∀ {l : List Nat}, x ∈ insNat n l ↔ x = n ∨ x ∈ l
  | [] => by simp [insNat]
  | a :: t => by
    unfold insNat
    split
    · simp
    · split
      · rename_i h
        simp [h]
      · simp only [List.mem_cons, mem_insNat (l := t)]
        exact or_left_comm

/-- Inserting a number keeps a list strictly rising. -/
theorem rising_insNat (n : Nat) : ∀ {l : List Nat}, l.Pairwise (· < ·) → (insNat n l).Pairwise (· < ·)
  | [], _ => by simp [insNat]
  | a :: t, h => by
    have ht := List.pairwise_cons.mp h
    unfold insNat
    split
    · rename_i hn
      exact List.pairwise_cons.mpr ⟨fun b hb => by
        rcases List.mem_cons.mp hb with rfl | hb
        · exact hn
        · exact Nat.lt_trans hn (ht.1 b hb), h⟩
    · split
      · exact h
      · exact List.pairwise_cons.mpr ⟨fun b hb => by
          rcases mem_insNat.mp hb with rfl | hb
          · omega
          · exact ht.1 b hb, rising_insNat n ht.2⟩

/-- So does removing one. -/
theorem rising_erase (n : Nat) {l : List Nat} (h : l.Pairwise (· < ·)) : (l.erase n).Pairwise (· < ·) :=
  h.sublist List.erase_sublist

theorem State.canon_setSectorBad (s : State) (sec : Nat) (b : Bool) (h : s.Canon) : (s.setSectorBad sec b).Canon := by
  refine ⟨h.1, h.2.1, ?_, h.2.2.2⟩
  cases b
  · exact rising_erase sec h.2.2.1
  · exact rising_insNat sec h.2.2.1

theorem State.canon_setSideBad (s : State) (line : Nat) (b : Bool) (h : s.Canon) : (s.setSideBad line b).Canon := by
  refine ⟨h.1, h.2.1, h.2.2.1, ?_⟩
  cases b
  · exact rising_erase line h.2.2.2
  · exact rising_insNat line h.2.2.2

/-- Bytes written at home, the marks left alone. -/
theorem State.canon_withBytes (s : State) (pa : Nat) (bs : List Byte) (h : s.Canon) :
    ({ s with mem := Memory.write s.mem pa bs } : State).Canon :=
  ⟨Memory.wf_write bs s.mem pa h.1, h.2⟩

/-! ## What is paid and noted beside the bytes -/

theorem State.canon_catchUp (s : State) (arb : Nat) (h : s.Canon) : (s.catchUp arb).Canon := by
  unfold State.catchUp
  dsimp only
  split <;> exact h

theorem State.canon_payAs {s t : State} {first : Bool} {arb holder n : Nat} (h : s.Canon)
    (e : s.payAs first arb holder n = some t) : t.Canon := by
  have h' := s.canon_catchUp arb h
  unfold State.payAs at e
  dsimp only at e
  repeat' split at e
  all_goals first
    | cases e; exact h
    | cases e; exact h'
    | cases e

theorem State.canon_grant {s t : State} {q : Request} (h : s.Canon) (e : s.grant q = some t) : t.Canon := by
  unfold State.grant at e
  split at e
  · cases e
  · exact State.canon_payAs h e

theorem State.canon_charge (s : State) (arb holder n : Nat) (h : s.Canon) : (s.charge arb holder n).Canon := by
  unfold State.charge
  dsimp only
  split
  · exact h
  · split
    · exact h
    · split
      · rename_i t e
        exact State.canon_grant (t := t) h e
      · exact h

theorem State.canon_chargeLater (s : State) (arb holder n : Nat) (h : s.Canon) : (s.chargeLater arb holder n).Canon := by
  unfold State.chargeLater
  cases e : s.grant ⟨arb, holder, n⟩ with
  | none => exact h
  | some t => exact State.canon_grant h e

theorem State.canon_chargeRing (s : State) (holder a b n : Nat) (h : s.Canon) : (s.chargeRing holder a b n).Canon :=
  State.canon_foldl _ (fun t _ ht => t.canon_charge _ _ _ ht) _ _ h

theorem State.canon_chargeLink (s : State) (link dir holder n : Nat) (h : s.Canon) : (s.chargeLink link dir holder n).Canon :=
  s.canon_charge _ _ _ h

theorem State.canon_send (s : State) (r : Req) (sector n : Nat) (h : s.Canon) : (s.send r sector n).Canon := by
  unfold State.send
  split
  · exact State.canon_chargeRing _ _ _ _ _ (s.canon_charge _ _ _ h)
  · exact State.canon_chargeRing _ _ _ _ _ h

theorem State.canon_reply (s : State) (r : Req) (sector n : Nat) (h : s.Canon) : (s.reply r sector n).Canon :=
  s.canon_chargeRing _ _ _ _ h

theorem State.canon_modSlice (s : State) (line : Nat) (f : SliceLine → SliceLine) (h : s.Canon) : (s.modSlice line f).Canon := h

theorem State.canon_dropCells (s : State) (pa n : Nat) (h : s.Canon) : (s.dropCells pa n).Canon := by
  unfold State.dropCells
  split <;> exact h

theorem State.canon_takeLost (s : State) (link : Nat) (h : s.Canon) : (s.takeLost link).1.Canon := by
  unfold State.takeLost
  split <;> exact h

/-! ## Bytes, scale bytes and poison -/

theorem State.canon_lay (s : State) (pa : Nat) (bs : List Byte) (h : s.Canon) : (s.lay pa bs).Canon := by
  unfold State.lay
  dsimp only
  refine State.canon_withBytes _ _ _ ?_
  split
  · exact h
  · exact State.canon_foldl _ (fun t i ht => t.canon_modSlice _ _ ht) _ _ h

theorem State.canon_writePa (s : State) (pa : Nat) (bs : List Byte) (p : Bool) (h : s.Canon) : (s.writePa pa bs p).Canon := by
  have h' := State.canon_lay _ pa bs (s.canon_dropCells pa bs.length h)
  unfold State.writePa
  dsimp only
  split
  · exact h'
  · refine State.canon_foldl _ (fun t i ht => ?_) _ _ h'
    split
    · exact t.canon_setSectorBad _ _ ht
    · split
      · exact t.canon_setSectorBad _ _ ht
      · exact ht

theorem State.canon_writeSide (s : State) (line j : Nat) (bs : List Byte) (h : s.Canon) : (s.writeSide line j bs).Canon := by
  have h' := State.canon_foldl (fun (t : State) i => t.modSlice line fun l => l.maskSide t.side (j + i))
    (fun t i ht => t.canon_modSlice _ _ ht) (List.range bs.length) s h
  exact ⟨h'.1, Memory.wf_write bs _ _ h'.2.1, h'.2.2⟩

theorem State.canon_chargeRingLater (s : State) (holder a b n : Nat) (h : s.Canon) : (s.chargeRingLater holder a b n).Canon :=
  State.canon_foldl _ (fun t _ ht => t.canon_chargeLater _ _ _ ht) _ _ h

theorem State.canon_dropReplica (s : State) (key line : Nat) (h : s.Canon) : (s.dropReplica key line).Canon := h

theorem State.canon_dropSharers (s : State) (line sharers : Nat) (h : s.Canon) : (s.dropSharers line sharers).Canon :=
  State.canon_foldl _ (fun t x ht => by
    split
    · exact State.canon_dropReplica _ _ _ (t.canon_dropReplica _ _ ht)
    · exact ht) _ _ h

theorem State.canon_dropReplicas (s : State) (pa : Nat) (h : s.Canon) : (s.dropReplicas pa).Canon := by
  unfold State.dropReplicas
  dsimp only
  split
  · exact h
  · exact State.canon_modSlice _ _ _ (s.canon_dropSharers _ _ h)

theorem State.canon_bump (s : State) (p off n : Nat) (h : s.Canon) : (s.bump p off n).Canon :=
  State.canon_lay _ _ _ (s.canon_dropReplicas _ h)

/-! ## Lines between memory and the slices -/

theorem State.canon_bringIn (s : State) (holder pa : Nat) (h : s.Canon) : (s.bringIn holder pa).Canon := by
  unfold State.bringIn
  split
  · dsimp only
    split
    · exact State.canon_bump _ _ _ _ (s.canon_charge _ _ _ h)
    · exact s.canon_charge _ _ _ h
  · split
    · exact State.canon_chargeRing _ _ _ _ _ (State.canon_chargeLink _ _ _ _ _
          (State.canon_chargeLink _ _ _ _ _ (s.canon_chargeRing _ _ _ _ h)))
    · exact h

theorem State.canon_mergeIn (s : State) (holder pa : Nat) (h : s.Canon) : (s.mergeIn holder pa).Canon := by
  unfold State.mergeIn
  split
  · dsimp only
    split
    · exact State.canon_bump _ _ _ _ (s.canon_chargeLater _ _ _ h)
    · exact s.canon_chargeLater _ _ _ h
  · exact h

theorem State.canon_writeOut (s : State) (holder pa : Nat) (h : s.Canon) : (s.writeOut holder pa).Canon := by
  unfold State.writeOut
  split
  · dsimp only
    split
    · exact State.canon_bump _ _ _ _ (s.canon_chargeLater _ _ _ h)
    · exact s.canon_chargeLater _ _ _ h
  · split
    · exact State.canon_chargeLater _ _ _ _ (s.canon_chargeRingLater _ _ _ _ h)
    · exact h

theorem State.canon_encodeStored (s : State) (line : Nat) (h : s.Canon) : (s.encodeStored line).Canon := by
  unfold State.encodeStored
  dsimp only
  split
  · exact h
  · split
    · exact h
    · split <;> exact h

theorem State.canon_settlePoison (s : State) (l : SliceLine) (h : s.Canon) : (s.settlePoison l).Canon := by
  have h' := State.canon_foldl (fun (s : State) i =>
    if bits l.wm (64 * i + 63) (64 * i) = 0 then s.setSectorBad (4 * l.line + i) (bit l.oldBad i) else s) (fun t i ht => by
      split
      · exact t.canon_setSectorBad _ _ ht
      · exact ht) (List.range 4) s h
  unfold State.settlePoison
  dsimp only
  split
  · exact State.canon_setSideBad _ _ _ h'
  · exact h'

theorem State.canon_leave (s : State) (q : Nat) (l : SliceLine) (h : s.Canon) : (s.leave q l).Canon := by
  have h' := State.canon_settlePoison _ l (s.canon_dropSharers l.line l.sharers h)
  unfold State.leave
  dsimp only
  split
  · exact h
  · split
    · exact h'
    · refine State.canon_writeOut _ _ _ (State.canon_encodeStored _ _ ?_)
      split
      · exact h'
      · exact State.canon_mergeIn _ _ _ h'

theorem State.canon_touchSet (s : State) (q key : Nat) (o : Option Nat) (line : Nat) (r : Bool) (h : s.Canon) :
    (s.touchSet q key o line r).Canon := by
  unfold State.touchSet
  dsimp only
  split
  · exact h
  · split
    · exact h
    · exact h
    · exact State.canon_leave _ _ _ h

theorem State.canon_failFetch (s : State) (key line : Nat) (h : s.Canon) : (s.failFetch key line).Canon :=
  State.canon_foldl _ (fun t i ht => by
    split
    · exact ht
    · exact t.canon_setSectorBad _ _ ht) _ _ h

theorem State.canon_fetchLine (s : State) (r : Req) (q pa n : Nat) (side : Bool) (h : s.Canon) : (s.fetchLine r q pa n side).Canon := by
  have h1 := s.canon_touchSet q (s.setKey q pa) r.owner (pa / 256) false h
  have h2 := State.canon_bringIn _ r.holder pa h1
  unfold State.fetchLine
  dsimp only
  split
  · exact h1
  · refine State.canon_modSlice _ _ _ ?_
    split
    · exact h2
    · rename_i k _
      have h3 := State.canon_takeLost _ (tierLink k) h2
      split
      · rename_i t e
        rw [e] at h3
        exact h3
      · rename_i t e
        rw [e] at h3
        exact State.canon_failFetch _ _ _ h3

theorem State.canon_flushCells (s : State) (line : Nat) (h : s.Canon) : (s.flushCells line).Canon := by
  unfold State.flushCells
  split
  · exact h
  · exact State.canon_foldl _ (fun t c ht => t.canon_lay _ _ ht) _ _ h

/-! ## Accesses at the home -/

theorem State.canon_reachRead (s : State) (r : Req) (pa n : Nat) (d side : Bool) (h : s.Canon) : (s.reachRead r pa n d side).Canon := by
  have h1 := s.canon_flushCells (pa / 256) h
  have home : ∀ (t : State) (q : Nat), t.Canon → (((t.send r (q / 2) 1).fetchLine r q pa n side).reply r (q / 2) (beats n)).Canon :=
    fun t q ht => State.canon_reply _ _ _ _ (State.canon_fetchLine _ _ _ _ _ _ (t.canon_send _ _ _ ht))
  unfold State.reachRead
  dsimp only
  split
  · exact State.canon_reply _ _ _ _ (State.canon_chargeLink _ _ _ _ _ (State.canon_chargeLink _ _ _ _ _ (State.canon_send _ _ _ _ h1)))
  · split
    · exact home _ _ h1
    · split
      · exact State.canon_touchSet _ _ _ _ _ _ (State.canon_send _ _ _ _ h1)
      · split
        · exact home _ _ h1
        · exact State.canon_touchSet _ _ _ _ _ _ (State.canon_modSlice _ _ _ (home _ _ h1))

theorem State.canon_reachWrite (s : State) (r : Req) (pa n : Nat) (h : s.Canon) : (s.reachWrite r pa n).Canon := by
  have h1 := s.canon_flushCells (pa / 256) h
  unfold State.reachWrite
  dsimp only
  split
  · exact State.canon_chargeLink _ _ _ _ _ (State.canon_send _ _ _ _ h1)
  · exact State.canon_touchSet _ _ _ _ _ _ (State.canon_dropReplicas _ _ (State.canon_send _ _ _ _ h1))

theorem State.canon_writeThrough (s : State) (r : Req) (pa n : Nat) (h : s.Canon) : (s.writeThrough r pa n).Canon := by
  unfold State.writeThrough
  dsimp only
  split
  · exact h
  · refine State.canon_writeOut _ _ _ (State.canon_encodeStored _ _ ?_)
    split
    · exact h
    · exact s.canon_mergeIn _ _ h

/-- An access that may meet the loss of a packet on the host link. -/
theorem State.canon_unlessLost (s : State) (lost : Bool) (h : s.Canon) :
    (if lost then s.takeLost hostLink else (s, false)).1.Canon := by
  split
  · exact s.canon_takeLost _ h
  · exact h

theorem State.canon_homeRead (s : State) (r : Req) (pa n : Nat) (d : Bool) (h : s.Canon) : (s.homeRead r pa n d).1.Canon :=
  State.canon_unlessLost _ _ (s.canon_reachRead r pa n d false h)

theorem State.canon_putAtomic (s : State) (r : Req) (lost : Bool) (pa : Nat) (bs : List Byte) (p : Bool) (h : s.Canon) :
    (s.putAtomic r lost pa bs p).Canon := by
  unfold State.putAtomic
  split
  · exact h
  · exact State.canon_writeThrough _ _ _ _ (s.canon_writePa _ _ _ h)

theorem State.canon_homeWrite (s : State) (r : Req) (pa : Nat) (bs : List Byte) (p : Bool) (h : s.Canon) :
    (s.homeWrite r pa bs p).Canon := by
  have h1 := State.canon_unlessLost _ (isHost pa) (s.canon_reachWrite r pa bs.length h)
  revert h1
  unfold State.homeWrite
  dsimp only
  generalize (if isHost pa then _ else _ : State × Bool) = l
  intro h1
  split
  · exact h1
  · exact State.canon_writeThrough _ _ _ _ (State.canon_writePa _ _ _ _ h1)

theorem State.canon_homeAtomic (s : State) (r : Req) (pa n : Nat) (h : s.Canon) : (s.homeAtomic r pa n).1.Canon := by
  have h1 := s.canon_reachWrite r pa n h
  unfold State.homeAtomic
  dsimp only
  split
  · exact State.canon_takeLost _ _ (State.canon_reply _ _ _ _ (State.canon_chargeLink _ _ _ _ _ h1))
  · exact State.canon_reply _ _ _ _ (State.canon_fetchLine _ _ _ _ _ _ h1)

theorem State.canon_homeLine (s : State) (r : Req) (pa : Nat) (d : Bool) (h : s.Canon) : (s.homeLine r pa d).1.Canon :=
  State.canon_unlessLost _ _ (s.canon_reachRead r (pa / 256 * 256) 256 d true h)

theorem State.canon_putHomeLine (s : State) (r : Req) (pa : Nat) (o : LineOut) (h : s.Canon) : (s.putHomeLine r pa o).Canon := by
  have h1 := State.canon_unlessLost _ (isHost pa) (s.canon_reachWrite r (pa / 256 * 256) 256 h)
  revert h1
  unfold State.putHomeLine
  dsimp only
  generalize (if isHost pa then _ else _ : State × Bool) = l
  intro h1
  split
  · exact h1
  · refine State.canon_writeThrough _ _ _ _ ?_
    have h2 := State.canon_foldl (fun (s : State) (jb : Nat × Byte) => s.writeSide (pa / 256 * 256 / 256) jb.1 [jb.2])
      (fun u jb hu => u.canon_writeSide _ _ _ hu) o.scales _ (State.canon_foldl (fun (s : State) (i : Nat) =>
        s.writePa (pa / 256 * 256 + 64 * i) ((o.bytes.drop (64 * i)).take 64) (bit o.bad i))
        (fun u i hu => u.canon_writePa _ _ _ hu) (List.range 4) _ h1)
    split
    · exact State.canon_setSideBad _ _ _ h2
    · exact h2

theorem State.canon_count (s : State) (p off : Nat) (h : s.Canon) : (s.count p off).Canon :=
  State.canon_bump _ _ _ _ (s.canon_reachWrite _ _ _ h)

theorem State.canon_keepCell (s : State) (pa : Nat) (image : List Byte) (h : s.Canon) : (s.keepCell pa image).Canon :=
  State.canon_foldl _ (fun t _ ht => State.canon_lay _ _ _ (t.canon_touchSet _ _ _ _ _ ht)) _ _ h

theorem State.canon_putCell (s : State) (r : Req) (pa : Nat) (image : List Byte) (h : s.Canon) : (s.putCell r pa image).Canon := by
  unfold State.putCell
  split
  · exact State.canon_lay _ _ _ (s.canon_reachWrite _ _ _ h)
  · exact s.canon_keepCell _ _ h

theorem State.canon_strikeSector (s : State) (pa : Nat) (h : s.Canon) : (s.strikeSector pa).Canon :=
  State.canon_encodeStored _ _ (State.canon_modSlice _ _ _ (s.canon_setSectorBad _ _ h))

theorem State.canon_strikeSide (s : State) (line : Nat) (h : s.Canon) : (s.strikeSide line).Canon :=
  State.canon_encodeStored _ _ (State.canon_modSlice _ _ _ (s.canon_setSideBad _ _ h))

/-- The bytes that a write-back lays down and the poison it leaves (R230, R234). -/
theorem State.canon_layMarked (l : L1Line) (s : State) (h : s.Canon) :
    (l.marked.foldl (fun (s : State) on => (s.dropCells (l.pa + on.1) on.2).lay (l.pa + on.1) (Memory.read l.bytes on.1 on.2)) s).Canon :=
  State.canon_foldl _ (fun t _ ht => State.canon_lay _ _ _ (t.canon_dropCells _ _ ht)) _ _ h

end Sys2Proof.Machine
end

