-- ==== Sys2Proof/Laws/Issue.lean ====
section
/-! SUPPORT. What the frames of a scalar word and of a lane word can do, said once each. -/

namespace Sys2Proof.Machine

theorem State.ScalarTurn.some {s : State} {G : Gang} {i : Instr} (h : s.ScalarTurn G i) : s.gang? s.cur = some G := h.gang

/-- A scalar word whose turn it is and that waits for nothing answers what its own effect answers. -/
theorem scalarWord_eq {s : State} {G : Gang} {i : Instr} {u : ScalarUse} (h : s.ScalarTurn G i) (w : u.waits G = false)
    (f : Nat → Gang → State → Issued) :
    scalarWord i u f s = .next (match f s.cur G s with
      | .wait => s
      | .illegal => s.illegalScalar G ((encode i).headD 0).toNat
      | .stop t => t
      | .done t => t.issuedNow s.cur G) := by
  simp only [scalarWord, h.gang, h.ready, h.wf, w, Bool.not_true, Bool.false_eq_true, if_false]
  cases f s.cur G s <;> rfl

/-- A scalar word whose effect is on its gang alone has that effect and goes on at the next word. -/
theorem gangWord_eq {s : State} {G : Gang} {i : Instr} {u : ScalarUse} (h : s.ScalarTurn G i) (w : u.waits G = false)
    (f : Gang → Gang) : gangWord i u f s = .next (s.scalarDone G (f G).next) := scalarWord_eq h w _

/-- A scalar word that waits changes nothing. -/
theorem scalarWord_waits {s : State} {G : Gang} {i : Instr} {u : ScalarUse} (h : s.ScalarTurn G i) (w : u.waits G = true)
    (f : Nat → Gang → State → Issued) : scalarWord i u f s = .next s := by
  simp [scalarWord, h.gang, h.ready, h.wf, w]

/-- A scalar word is never a fault or a refusal of the model. -/
theorem scalarWord_next (i : Instr) (u : ScalarUse) (f : Nat → Gang → State → Issued) (s : State) :
    ∃ t, scalarWord i u f s = .next t := by
  unfold scalarWord
  split
  · exact ⟨_, rfl⟩
  · split
    · exact ⟨_, rfl⟩
    · split
      · exact ⟨_, rfl⟩
      · split
        · exact ⟨_, rfl⟩
        · split <;> exact ⟨_, rfl⟩

/-- Waits of a word that reads and writes nothing that a run holds. -/
@[simp] theorem ScalarUse.waits_none (G : Gang) : ({} : ScalarUse).waits G = false := rfl

theorem ScalarUse.waits_false (u : ScalarUse) (G : Gang) :
    u.waits G = false ↔ (∀ k ∈ u.mrd, G.maskReadWaits k = false) ∧ (∀ k ∈ u.mwr, G.maskWriteWaits k = false)
      ∧ (∀ n ∈ u.swr, G.sregWriteWaits n = false) ∧ (u.gated = true → G.gated = false) := by
  simp only [ScalarUse.waits, Bool.or_eq_false_iff, List.any_eq_false, Bool.not_eq_true, Bool.and_eq_false_imp,
    and_assoc]

/-- A gang without errors in its lane registers meets none, and reads its sources as they are. -/
@[simp] theorem Use.met_sound (u : Use) (i : Instr) (x : Issue) (h : x.gang.lane.err = []) : u.met i x = [] := by
  simp [Use.met, h]

@[simp] theorem Issue.sensed_nil (x : Issue) (i : Instr) : x.sensed i [] = x := rfl

@[simp] theorem State.registerErrors_nil (s : State) (G : Gang) : s.registerErrors G [] = s := rfl

/-- Without an error strict mode does not halt. -/
@[simp] theorem State.strictRegister_nil (s : State) (G : Gang) (r : Run) : s.strictRegister G r [] = none := by
  unfold State.strictRegister
  split <;> rfl

/-- A lane word whose turn it is answers what its own effect answers. -/
theorem laneWord_eq {s p : State} {G : Gang} {r : Run} {i : Instr} {msel : Option Nat} {u : Use}
    (h : s.LaneTurn G r i msel u p) (f : Issue → State → Issued) :
    laneWord i msel u f s = .next (match f (mkIssue s s.cur G r msel) (s.laneIn G r msel u p) with
      | .wait => s
      | .illegal => s.illegalLane G r.addr r.next (laneWord.wordsNat (encode i))
      | .stop t => t
      | .done t => t.laneIssued s.cur G r.serial) := by
  obtain ⟨rest, hr⟩ : ∃ rest, G.runs = r :: rest := by
    have := h.run
    cases hg : G.runs with
    | nil => rw [hg] at this; cases this
    | cons a t => rw [hg] at this; cases this; exact ⟨t, rfl⟩
  have hm : decide (r.len ≤ r.next) = false := by
    have := h.more
    simp only [decide_eq_false_iff_not]
    omega
  have hl : (if (G.sp.lutrap && u.trap) = true then u.freedLanes (mkIssue s s.cur G r msel) else none) = none := by
    split
    · exact h.live (by assumption)
    · rfl
  have he : (mkIssue s s.cur G r msel).gang.lane.err = [] := h.sound
  unfold laneWord
  simp only [h.gang, hr, h.ready, h.wf, hm, h.role, h.alloc, h.free, Use.met_sound u i _ he, Issue.sensed_nil, hl, h.paid,
    Bool.not_true, Bool.or_self, Bool.false_eq_true, if_false, State.registerErrors_nil, State.strictRegister_nil]
  change (match f (mkIssue s s.cur G r msel) (s.laneIn G r msel u p) with
    | .wait => Host.Outcome.next s
    | .illegal => Host.Outcome.next (s.illegalLane G r.addr r.next (laneWord.wordsNat (encode i)))
    | .stop t => Host.Outcome.next t
    | .done t => Host.Outcome.next (t.laneIssued s.cur G r.serial)) = _
  cases f (mkIssue s s.cur G r msel) (s.laneIn G r msel u p) <;> rfl

/-- A lane word is never a fault or a refusal of the model. -/
theorem laneWord_next (i : Instr) (msel : Option Nat) (u : Use) (f : Issue → State → Issued) (s : State) :
    ∃ t, laneWord i msel u f s = .next t := by
  unfold laneWord
  repeat' first
    | exact ⟨_, rfl⟩
    | split
    | dsimp only

/-- A word of the vector pipes that its entries allow leaves its results. -/
theorem vectorWord_eq {s p : State} {G : Gang} {r : Run} {i : Instr} {msel : Nat} {u : Use} {ok : Gang → Bool}
    (h : s.LaneTurn G r i (some msel) u p) (k : ok G = true) (d : Dst) (out : Issue → Nat → LaneOut) :
    vectorWord i msel u d ok out s = .next (s.vectorDone G r msel u p d out) := by
  rw [vectorWord, laneWord_eq h]
  have : ok (mkIssue s s.cur G r (some msel)).gang = true := k
  simp [this, State.vectorDone]

/-- A word whose result is a function of its sources leaves it. -/
theorem numWord_eq {s p : State} {G : Gang} {r : Run} {i : Instr} {msel : Nat} {srcs : List (Src × Bool)} {d : Dst} {wide : Bool}
    (h : s.LaneTurn G r i (some msel) (srcUse srcs d wide) p) (g : List Nat → Nat) :
    numWord i msel srcs d wide g s = .next (s.numDone G r msel srcs p d wide g) := vectorWord_eq h rfl d _

end Sys2Proof.Machine
end

