-- ==== Sys2Proof/Laws/Tokens.lean ====
section
/-! SUPPORT. What asking an arbiter can do, said once: it changes the token buckets and the queues of requests, and nothing else of the
machine. -/

namespace Sys2Proof.Machine

/-- Two states that differ in nothing but tokens: the buckets, their periods, the requests that wait, and what the turn in progress
has asked (R443 to R447). -/
def State.SameButTokens (s t : State) : Prop :=
  ∃ b p k x, t = { s with buckets := b, periods := p, queued := k, ask := x }

theorem State.SameButTokens.refl (s : State) : s.SameButTokens s := ⟨_, _, _, _, rfl⟩

theorem State.SameButTokens.trans {s t u : State} (h : s.SameButTokens t) (k : t.SameButTokens u) : s.SameButTokens u := by
  obtain ⟨_, _, _, _, rfl⟩ := h
  obtain ⟨_, _, _, _, rfl⟩ := k
  exact ⟨_, _, _, _, rfl⟩

theorem State.catchUp_tokens (s : State) (arb : Nat) : s.SameButTokens (s.catchUp arb) := by
  unfold State.catchUp
  dsimp only
  split
  · exact .refl s
  · exact ⟨_, _, _, _, rfl⟩

/-- A request that is paid or borrowed for (R444, R445). -/
theorem State.payAs_tokens {s t : State} {first : Bool} {arb holder n : Nat} (h : s.payAs first arb holder n = some t) :
    s.SameButTokens t := by
  have up := s.catchUp_tokens arb
  unfold State.payAs at h
  dsimp only at h
  repeat' split at h
  all_goals first
    | cases h; done
    | cases h; exact .refl s
    | cases h; exact up
    | cases h; exact up.trans ⟨_, _, _, _, rfl⟩

/-- A request that an arbiter grants (R444, R447). -/
theorem State.grant_tokens {s t : State} {q : Request} (h : s.grant q = some t) : s.SameButTokens t := by
  unfold State.grant at h
  split at h
  · cases h
  · exact State.payAs_tokens h

theorem State.charge_tokens (s : State) (arb holder n : Nat) : s.SameButTokens (s.charge arb holder n) := by
  unfold State.charge
  dsimp only
  split
  · exact .refl s
  · split
    · exact ⟨_, _, _, _, rfl⟩
    · split
      · rename_i t h
        exact (State.grant_tokens h).trans ⟨_, _, _, _, rfl⟩
      · exact ⟨_, _, _, _, rfl⟩

/-- A request that nothing waits for (R429). -/
theorem State.chargeLater_tokens (s : State) (arb holder n : Nat) : s.SameButTokens (s.chargeLater arb holder n) := by
  unfold State.chargeLater
  cases h : s.grant ⟨arb, holder, n⟩ with
  | none => exact ⟨_, _, _, _, rfl⟩
  | some t => exact State.grant_tokens h

/-- One clk of a grant of time (R445). -/
theorem State.payTime_tokens (s : State) (arb : Nat) (g : Grant) : s.SameButTokens (s.payTime arb g) := by
  unfold State.payTime
  split
  · exact .refl s
  · exact (s.catchUp_tokens arb).trans ⟨_, _, _, _, rfl⟩

theorem State.chargeStream_tokens (s : State) (arb holder n : Nat) : s.SameButTokens (s.chargeStream arb holder n) := by
  unfold State.chargeStream
  dsimp only
  split
  · exact .refl s
  · exact (s.catchUp_tokens arb).trans ⟨_, _, _, _, rfl⟩

theorem State.chargeRing_tokens (s : State) (holder a b n : Nat) : s.SameButTokens (s.chargeRing holder a b n) := by
  unfold State.chargeRing
  generalize ringPath a b = l
  induction l generalizing s with
  | nil => exact .refl s
  | cons x l ih => exact (s.charge_tokens _ _ _).trans (ih _)

/-- A packet to or from a peer (R442, R460). -/
theorem State.peerPacket_tokens (s : State) (r : Req) (acc dir n : Nat) : s.SameButTokens (s.peerPacket r acc dir n) := by
  unfold State.peerPacket
  dsimp only
  split <;> exact (s.charge_tokens _ _ _).trans (State.chargeRing_tokens _ _ _ _ _)

theorem State.SameButTokens.peerWindow {s t : State} (h : s.SameButTokens t) (x off : Nat) (acc : Acc) :
    t.peerWindow x off acc = s.peerWindow x off acc := by
  obtain ⟨_, _, _, _, rfl⟩ := h
  rfl

end Sys2Proof.Machine
end

