-- ==== Sys2Proof/Tests/Slice0.lean ====
section
/-! SUPPORT. Tests of the model. The words of the decode tests are written field by field from the layouts and opcode
tables of the spec (R44, R51, R55 to R64, R70), the ill-formed terms break one rule each of WellFormed, each
`witness_<Name>` shows a state and operands that meet the hypotheses of the statement of that name, and the last tests
run one word on values worked out by hand. -/
namespace Sys2Proof.Tests
-- One test at a time: tests that wait for one another side by side take a thread, and its stack, each.
set_option Elab.async false
open Sys2Proof Sys2Proof.Machine
/-- A scalar word decodes to an instruction, and that instruction encodes to the word. -/
def scalarWord (e : Word × Instr) : Bool := decide ((decodeScalar e.1).toOption = some e.2 ∧ encode e.2 = [e.1])
/-- A lane word decodes to an instruction, and that instruction encodes to the word's three parts. -/
def laneWord (e : BitVec 96 × Instr) : Bool :=
  decide ((decodeLane e.1).toOption = some e.2 ∧ encode e.2 = [fld e.1 0 32, fld e.1 32 32, fld e.1 64 32])

/-- R51: the words of the scalar arithmetic, with a different value in each field. -/
theorem test_words_scalar_alu : ([
    (0x06525E60, .sadd 74 37 115),
    (0x06525E61, .ssub 74 37 115),
    (0x06525E62, .smul 74 37 115),
    (0x06525E63, .smulh 74 37 115),
    (0x06525E64, .smulhN32 74 37 115),
    (0x06525E65, .sand 74 37 115),
    (0x06525E66, .sor 74 37 115),
    (0x06525E67, .sxor 74 37 115),
    (0x06525E68, .sshl 74 37 115),
    (0x06525E69, .sshr 74 37 115),
    (0x06525E6A, .ssra 74 37 115),
    (0x06525E6B, .smin 74 37 115),
    (0x06525E6C, .sminN32 74 37 115),
    (0x06525E6D, .smax 74 37 115),
    (0x06525E6E, .smaxN32 74 37 115),
    (0x06525E6F, .ssel 74 37 115),
    (0x06525010, .smov 74 37),
    (0x06525011, .spopc 74 37),
    (0x06525012, .sffs 74 37),
    (0x06525013, .sbrev 74 37),
    (0x06526E94, .saddB64 74 38 116),
    (0x06526E95, .ssubB64 74 38 116),
    (0x0A525E69, .scmp 74 37 115 9)] : List (Word × Instr)).all scalarWord = true := by decide +kernel

/-- R51: the immediate and scalar memory words. -/
theorem test_words_scalar_immediates : ([
    (0x0E5269C5, .saddi 74 38 2501),
    (0xC25269C5, .sldB32 74 38 2501),
    (0xCA5269C5, .sstB32 74 38 2501),
    (0x1A5269C5, .saddiB64 74 38 2501),
    (0xC65269C5, .sldB64 74 38 2501),
    (0xCE5269C5, .sstB64 74 38 2501),
    (0x1255A5C3, .sli 74 370115),
    (0x1655A5C3, .sliH 74 370115)] : List (Word × Instr)).all scalarWord = true := by decide +kernel

/-- R51: the mask and control words. -/
theorem test_words_masks_branches : ([
    (0x402830C0, .mand 5 3 6),
    (0x482830C0, .mandn 5 3 6),
    (0x4C2830C0, .mxor 5 3 6),
    (0x442830C0, .mor 5 3 6 false),
    (0x440030C1, .mor 0 3 6 true),
    (0x54283000, .mmov 5 3 false),
    (0x54003001, .mmov 0 3 true),
    (0x50283000, .mnot 5 3),
    (0x5A503000, .mpop 74 3),
    (0x5E503000, .mfirst 74 3),
    (0x60004D2B, .jmp 19755),
    (0x60C04D2B, .bcT 19755),
    (0x61004D2B, .bcF 19755),
    (0x64004D2B, .call 19755),
    (0xF0004D2B, .mrest 19755),
    (0x6042CD2B, .bz 5 19755),
    (0x6082CD2B, .bnz 5 19755),
    (0x7402CD2B, .repack 5 19755),
    (0x6A404D2B, .callw 9 19755)] : List (Word × Instr)).all scalarWord = true := by decide +kernel

/-- R51: the runs, waits, fences, semaphores, rings, launches, special registers and chains. -/
theorem test_words_system : ([
    (0x6C000000, .ret),
    (0x6C000001, .retw),
    (0x70000000, .exit),
    (0x78000000, .unpack),
    (0x94000000, .xfence),
    (0xE8000000, .nop),
    (0xE8000001, .yield),
    (0xE8000002, .bkpt),
    (0xE8000003, .mcommit),
    (0x8272C5A4, .lrun 19 1230244),
    (0x8448F379, .waitc 1 2 3 12 13 14 1),
    (0x8804A005, .waitr 74 5),
    (0x8C000012, .fence 4 2),
    (0x90000009, .pfence 9),
    (0xA004A025, .bari 74 37),
    (0xA4000025, .bara 37),
    (0xA8000025, .barw 37),
    (0xAE526E92, .semadd 74 38 116 4 2),
    (0xB0026E92, .semwait 38 116 4 2),
    (0xB4026E92, .semset 38 116 4 2),
    (0xBA525000, .rpost 74 37),
    (0xBE525000, .rtake 74 37),
    (0xFA525000, .cbstat 74 37),
    (0xD0026000, .launch 38),
    (0xD4026E80, .spawn 38 116),
    (0xE2500008, .getsr 74 8),
    (0xE4026045, .setsr 38 69),
    (0xEC05A5C3, .trap 370115),
    (0xF6526001, .cbgoLadle 74 38 1),
    (0xF6526002, .cbgoPle 74 38),
    (0xF6526006, .cbgoRunner 74 38 2)] : List (Word × Instr)).all scalarWord = true := by decide +kernel

/-- R55, R56, R59, R64: the integer words of a run. -/
theorem test_words_lane_integer : ([
    (0x000000000000000000000000, .lnop),
    (0x10043264B105001404000000, .iadd ⟨4, ⟨.v, 201⟩, ⟨true, .v, 150⟩, ⟨false, .q, 5⟩, ⟨false, .v, 0⟩, 5, 0, 0, true, false, 0, 0, 0, 0⟩),
    (0x11043264B105001404000000, .isub ⟨4, ⟨.v, 201⟩, ⟨true, .v, 150⟩, ⟨false, .q, 5⟩, ⟨false, .v, 0⟩, 5, 0, 0, true, false, 0, 0, 0, 0⟩),
    (0x13043264B105001404000000, .imul ⟨4, ⟨.v, 201⟩, ⟨true, .v, 150⟩, ⟨false, .q, 5⟩, ⟨false, .v, 0⟩, 5, 0, 0, true, false, 0, 0, 0, 0⟩),
    (0x12013264B10500140000002D, .iaddc ⟨1, ⟨.v, 201⟩, ⟨true, .v, 150⟩, ⟨false, .q, 5⟩, ⟨false, .v, 0⟩, 5, 0, 0, false, false, 0, 0, 0, 45⟩),
    (0x14053264B105001400000000, .imulh ⟨5, ⟨.v, 201⟩, ⟨true, .v, 150⟩, ⟨false, .q, 5⟩, ⟨false, .v, 0⟩, 5, 0, 0, false, false, 0, 0, 0, 0⟩),
    (0x150832A4B105409400000000, .imad ⟨8, ⟨.v, 202⟩, ⟨true, .v, 150⟩, ⟨false, .q, 5⟩, ⟨false, .t, 4⟩, 5, 0, 0, false, false, 0, 0, 0, 0⟩),
    (0x16043264B000001404000000, .iabs ⟨4, ⟨.v, 201⟩, ⟨true, .v, 150⟩, ⟨false, .v, 0⟩, ⟨false, .v, 0⟩, 5, 0, 0, true, false, 0, 0, 0, 0⟩),
    (0x17073264B000001404000000, .ineg ⟨7, ⟨.v, 201⟩, ⟨true, .v, 150⟩, ⟨false, .v, 0⟩, ⟨false, .v, 0⟩, 5, 0, 0, true, false, 0, 0, 0, 0⟩),
    (0x18063264B105001400000000, .imin ⟨6, ⟨.v, 201⟩, ⟨true, .v, 150⟩, ⟨false, .q, 5⟩, ⟨false, .v, 0⟩, 5, 0, 0, false, false, 0, 0, 0, 0⟩),
    (0x19063264B105001400000000, .imax ⟨6, ⟨.v, 201⟩, ⟨true, .v, 150⟩, ⟨false, .q, 5⟩, ⟨false, .v, 0⟩, 5, 0, 0, false, false, 0, 0, 0, 0⟩),
    (0x1A003264B10540D400000000, .iclamp ⟨0, ⟨.v, 201⟩, ⟨true, .v, 150⟩, ⟨false, .q, 5⟩, ⟨false, .t, 6⟩, 5, 0, 0, false, false, 0, 0, 0, 0⟩),
    (0x1B093264B105001400000000, .and ⟨9, ⟨.v, 201⟩, ⟨true, .v, 150⟩, ⟨false, .q, 5⟩, ⟨false, .v, 0⟩, 5, 0, 0, false, false, 0, 0, 0, 0⟩),
    (0x1C093264B105001400000000, .or ⟨9, ⟨.v, 201⟩, ⟨true, .v, 150⟩, ⟨false, .q, 5⟩, ⟨false, .v, 0⟩, 5, 0, 0, false, false, 0, 0, 0, 0⟩),
    (0x1D093264B105001400000000, .xor ⟨9, ⟨.v, 201⟩, ⟨true, .v, 150⟩, ⟨false, .q, 5⟩, ⟨false, .v, 0⟩, 5, 0, 0, false, false, 0, 0, 0, 0⟩),
    (0x1E0332A4B000001400000000, .not ⟨3, ⟨.v, 202⟩, ⟨true, .v, 150⟩, ⟨false, .v, 0⟩, ⟨false, .v, 0⟩, 5, 0, 0, false, false, 0, 0, 0, 0⟩),
    (0x1F063264B105001400000000, .shl ⟨6, ⟨.v, 201⟩, ⟨true, .v, 150⟩, ⟨false, .q, 5⟩, ⟨false, .v, 0⟩, 5, 0, 0, false, false, 0, 0, 0, 0⟩),
    (0x20063264B105001400000000, .shr ⟨6, ⟨.v, 201⟩, ⟨true, .v, 150⟩, ⟨false, .q, 5⟩, ⟨false, .v, 0⟩, 5, 0, 0, false, false, 0, 0, 0, 0⟩),
    (0x21063264B105001400000000, .sra ⟨6, ⟨.v, 201⟩, ⟨true, .v, 150⟩, ⟨false, .q, 5⟩, ⟨false, .v, 0⟩, 5, 0, 0, false, false, 0, 0, 0, 0⟩),
    (0x22083264B105001400000000, .rot ⟨8, ⟨.v, 201⟩, ⟨true, .v, 150⟩, ⟨false, .q, 5⟩, ⟨false, .v, 0⟩, 5, 0, 0, false, false, 0, 0, 0, 0⟩),
    (0x230332A4B105001400000000, .bfx ⟨3, ⟨.v, 202⟩, ⟨true, .v, 150⟩, ⟨false, .q, 5⟩, ⟨false, .v, 0⟩, 5, 0, 0, false, false, 0, 0, 0, 0⟩),
    (0x24013264B10540D400000000, .bfi ⟨1, ⟨.v, 201⟩, ⟨true, .v, 150⟩, ⟨false, .q, 5⟩, ⟨false, .t, 6⟩, 5, 0, 0, false, false, 0, 0, 0, 0⟩),
    (0x25033264B000001400000000, .popc ⟨3, ⟨.v, 201⟩, ⟨true, .v, 150⟩, ⟨false, .v, 0⟩, ⟨false, .v, 0⟩, 5, 0, 0, false, false, 0, 0, 0, 0⟩),
    (0x26013264B000001400000000, .clz ⟨1, ⟨.v, 201⟩, ⟨true, .v, 150⟩, ⟨false, .v, 0⟩, ⟨false, .v, 0⟩, 5, 0, 0, false, false, 0, 0, 0, 0⟩),
    (0x27013264B000001400000000, .brev ⟨1, ⟨.v, 201⟩, ⟨true, .v, 150⟩, ⟨false, .v, 0⟩, ⟨false, .v, 0⟩, 5, 0, 0, false, false, 0, 0, 0, 0⟩),
    (0x284BC024B10400140000000D, .iset ⟨75, ⟨.special, 0⟩, ⟨true, .v, 150⟩, ⟨false, .q, 4⟩, ⟨false, .v, 0⟩, 5, 0, 0, false, false, 0, 0, 0, 13⟩),
    (0x29013264B105001400000006, .sel ⟨1, ⟨.v, 201⟩, ⟨true, .v, 150⟩, ⟨false, .q, 5⟩, ⟨false, .v, 0⟩, 5, 0, 0, false, false, 0, 0, 0, 6⟩),
    (0x2A0381A4B000001400000000, .movl ⟨3, ⟨.t, 6⟩, ⟨true, .v, 150⟩, ⟨false, .v, 0⟩, ⟨false, .v, 0⟩, 5, 0, 0, false, false, 0, 0, 0, 0⟩),
    (0x2B023280000089ABCDEFA000, .lim ⟨2, ⟨.v, 202⟩, ⟨false, .v, 0⟩, ⟨false, .v, 0⟩, 0x89abcdef, 5, 0⟩),
    (0x2C153264B105001400000000, .lea ⟨21, ⟨.v, 201⟩, ⟨true, .v, 150⟩, ⟨false, .q, 5⟩, ⟨false, .v, 0⟩, 5, 0, 0, false, false, 0, 0, 0, 0⟩),
    (0x2D0532A4B104001400000000, .lea64 ⟨5, ⟨.v, 202⟩, ⟨true, .v, 150⟩, ⟨false, .q, 4⟩, ⟨false, .v, 0⟩, 5, 0, 0, false, false, 0, 0, 0, 0⟩),
    (0x2E313264B000001400000003, .cvti ⟨49, ⟨.v, 201⟩, ⟨true, .v, 150⟩, ⟨false, .v, 0⟩, ⟨false, .v, 0⟩, 5, 0, 0, false, false, 0, 0, 0, 3⟩),
    (0x2F0E3264B10540D400000000, .idot4 ⟨14, ⟨.v, 201⟩, ⟨true, .v, 150⟩, ⟨false, .q, 5⟩, ⟨false, .t, 6⟩, 5, 0, 0, false, false, 0, 0, 0, 0⟩)] : List (BitVec 96 × Instr)).all laneWord = true := by decide +kernel

/-- R55, R64: the floating-point words of a run. -/
theorem test_words_lane_float : ([
    (0x30093264B1050016EC000000, .fadd ⟨9, ⟨.v, 201⟩, ⟨true, .v, 150⟩, ⟨false, .q, 5⟩, ⟨false, .v, 0⟩, 5, 11, 5, true, false, 0, 0, 0, 0⟩),
    (0x31093264B1050016EC000000, .fsub ⟨9, ⟨.v, 201⟩, ⟨true, .v, 150⟩, ⟨false, .q, 5⟩, ⟨false, .v, 0⟩, 5, 11, 5, true, false, 0, 0, 0, 0⟩),
    (0x32093264B1050016EC000000, .fmul ⟨9, ⟨.v, 201⟩, ⟨true, .v, 150⟩, ⟨false, .q, 5⟩, ⟨false, .v, 0⟩, 5, 11, 5, true, false, 0, 0, 0, 0⟩),
    (0x45093264B1050016EC000000, .hadd2 ⟨9, ⟨.v, 201⟩, ⟨true, .v, 150⟩, ⟨false, .q, 5⟩, ⟨false, .v, 0⟩, 5, 11, 5, true, false, 0, 0, 0, 0⟩),
    (0x46093264B1050016EC000000, .hmul2 ⟨9, ⟨.v, 201⟩, ⟨true, .v, 150⟩, ⟨false, .q, 5⟩, ⟨false, .v, 0⟩, 5, 11, 5, true, false, 0, 0, 0, 0⟩),
    (0x33253264B10540D6EC000000, .ffma ⟨37, ⟨.v, 201⟩, ⟨true, .v, 150⟩, ⟨false, .q, 5⟩, ⟨false, .t, 6⟩, 5, 11, 5, true, false, 0, 0, 0, 0⟩),
    (0x47253264B10540D6EC000000, .hfma2 ⟨37, ⟨.v, 201⟩, ⟨true, .v, 150⟩, ⟨false, .q, 5⟩, ⟨false, .t, 6⟩, 5, 11, 5, true, false, 0, 0, 0, 0⟩),
    (0x34093264B1050016C0000000, .fmin ⟨9, ⟨.v, 201⟩, ⟨true, .v, 150⟩, ⟨false, .q, 5⟩, ⟨false, .v, 0⟩, 5, 11, 0, false, false, 0, 0, 0, 0⟩),
    (0x35093264B1050016C0000000, .fmax ⟨9, ⟨.v, 201⟩, ⟨true, .v, 150⟩, ⟨false, .q, 5⟩, ⟨false, .v, 0⟩, 5, 11, 0, false, false, 0, 0, 0, 0⟩),
    (0x3606C024B1050016C0000015, .fset ⟨6, ⟨.special, 0⟩, ⟨true, .v, 150⟩, ⟨false, .q, 5⟩, ⟨false, .v, 0⟩, 5, 11, 0, false, false, 0, 0, 0, 21⟩),
    (0x37003264B0000016C0000000, .fclass ⟨0, ⟨.v, 201⟩, ⟨true, .v, 150⟩, ⟨false, .v, 0⟩, ⟨false, .v, 0⟩, 5, 11, 0, false, false, 0, 0, 0, 0⟩),
    (0x38003264B0000016E8000000, .frnd ⟨0, ⟨.v, 201⟩, ⟨true, .v, 150⟩, ⟨false, .v, 0⟩, ⟨false, .v, 0⟩, 5, 11, 5, false, false, 0, 0, 0, 0⟩),
    (0x39003264B0000016DC00005B, .fcvt ⟨0, ⟨.v, 201⟩, ⟨true, .v, 150⟩, ⟨false, .v, 0⟩, ⟨false, .v, 0⟩, 5, 11, 3, true, false, 0, 0, 0, 91⟩),
    (0x3A0232A4B0000016D0000000, .ftoi ⟨2, ⟨.v, 202⟩, ⟨true, .v, 150⟩, ⟨false, .v, 0⟩, ⟨false, .v, 0⟩, 5, 11, 2, false, false, 0, 0, 0, 0⟩),
    (0x3B013264B0000016D0000000, .itof ⟨1, ⟨.v, 201⟩, ⟨true, .v, 150⟩, ⟨false, .v, 0⟩, ⟨false, .v, 0⟩, 5, 11, 2, false, false, 0, 0, 0, 0⟩),
    (0x3C003264B0000016D8000000, .frcp ⟨0, ⟨.v, 201⟩, ⟨true, .v, 150⟩, ⟨false, .v, 0⟩, ⟨false, .v, 0⟩, 5, 11, 3, false, false, 0, 0, 0, 0⟩),
    (0x3E003264B0000016D8000000, .fsqrt ⟨0, ⟨.v, 201⟩, ⟨true, .v, 150⟩, ⟨false, .v, 0⟩, ⟨false, .v, 0⟩, 5, 11, 3, false, false, 0, 0, 0, 0⟩),
    (0x3D003264B0000016C0000000, .frsq ⟨0, ⟨.v, 201⟩, ⟨true, .v, 150⟩, ⟨false, .v, 0⟩, ⟨false, .v, 0⟩, 5, 11, 0, false, false, 0, 0, 0, 0⟩),
    (0x3F003264B0000016C0000000, .fexp2 ⟨0, ⟨.v, 201⟩, ⟨true, .v, 150⟩, ⟨false, .v, 0⟩, ⟨false, .v, 0⟩, 5, 11, 0, false, false, 0, 0, 0, 0⟩),
    (0x40003264B0000016C0000000, .flog2 ⟨0, ⟨.v, 201⟩, ⟨true, .v, 150⟩, ⟨false, .v, 0⟩, ⟨false, .v, 0⟩, 5, 11, 0, false, false, 0, 0, 0, 0⟩),
    (0x41003264B0000016C0000000, .fsin ⟨0, ⟨.v, 201⟩, ⟨true, .v, 150⟩, ⟨false, .v, 0⟩, ⟨false, .v, 0⟩, 5, 11, 0, false, false, 0, 0, 0, 0⟩),
    (0x42003264B0000016C0000000, .fcos ⟨0, ⟨.v, 201⟩, ⟨true, .v, 150⟩, ⟨false, .v, 0⟩, ⟨false, .v, 0⟩, 5, 11, 0, false, false, 0, 0, 0, 0⟩),
    (0x43003264B0000016C0000000, .ftanh ⟨0, ⟨.v, 201⟩, ⟨true, .v, 150⟩, ⟨false, .v, 0⟩, ⟨false, .v, 0⟩, 5, 11, 0, false, false, 0, 0, 0, 0⟩),
    (0x44003264B1050016D8000000, .fdivs ⟨0, ⟨.v, 201⟩, ⟨true, .v, 150⟩, ⟨false, .q, 5⟩, ⟨false, .v, 0⟩, 5, 11, 3, false, false, 0, 0, 0, 0⟩),
    (0x48253264B10540D6EC00000D, .fdot2 ⟨37, ⟨.v, 201⟩, ⟨true, .v, 150⟩, ⟨false, .q, 5⟩, ⟨false, .t, 6⟩, 5, 11, 5, true, false, 0, 0, 0, 13⟩)] : List (BitVec 96 × Instr)).all laneWord = true := by decide +kernel

/-- R55, R64: the block words of a run. -/
theorem test_words_lane_blocks : ([
    (0x50003244B0000016C0000000, .bmax ⟨0, ⟨.v, 201⟩, ⟨false, .v, 150⟩, ⟨false, .v, 0⟩, ⟨false, .v, 0⟩, 5, 11, 0, false, false, 0, 0, 0, 0⟩),
    (0x51003244B0000016EC005400, .bscl ⟨0, ⟨.v, 201⟩, ⟨false, .v, 150⟩, ⟨false, .v, 0⟩, ⟨false, .v, 0⟩, 5, 11, 5, true, false, 0, 0, 21, 0⟩),
    (0x52003244B0000016EC005400, .bqnt ⟨0, ⟨.v, 201⟩, ⟨false, .v, 150⟩, ⟨false, .v, 0⟩, ⟨false, .v, 0⟩, 5, 11, 5, true, false, 0, 0, 21, 0⟩),
    (0x53003244B0000016ED30000D, .bdqt ⟨0, ⟨.v, 201⟩, ⟨false, .v, 150⟩, ⟨false, .v, 0⟩, ⟨false, .v, 0⟩, 5, 11, 5, true, false, 19, 0, 0, 13⟩),
    (0x54003244B0280016ED355400, .badd ⟨0, ⟨.v, 201⟩, ⟨false, .v, 150⟩, ⟨false, .v, 40⟩, ⟨false, .v, 0⟩, 5, 11, 5, true, false, 19, 10, 21, 0⟩),
    (0x55003244B0280016ED355400, .bmul ⟨0, ⟨.v, 201⟩, ⟨false, .v, 150⟩, ⟨false, .v, 40⟩, ⟨false, .v, 0⟩, 5, 11, 5, true, false, 19, 10, 21, 0⟩),
    (0x56003244B0280C16ED355400, .bfma ⟨0, ⟨.v, 201⟩, ⟨false, .v, 150⟩, ⟨false, .v, 40⟩, ⟨false, .v, 96⟩, 5, 11, 5, true, false, 19, 10, 21, 0⟩),
    (0x57003244B0000016ED305400, .brnm ⟨0, ⟨.v, 201⟩, ⟨false, .v, 150⟩, ⟨false, .v, 0⟩, ⟨false, .v, 0⟩, 5, 11, 5, true, false, 19, 0, 21, 0⟩),
    (0x58003244B0000016ED30540D, .bcvt ⟨0, ⟨.v, 201⟩, ⟨false, .v, 150⟩, ⟨false, .v, 0⟩, ⟨false, .v, 0⟩, 5, 11, 5, true, false, 19, 0, 21, 13⟩),
    (0x59003244B0280C16C53500B6, .bsdot ⟨0, ⟨.v, 201⟩, ⟨false, .v, 150⟩, ⟨false, .v, 40⟩, ⟨false, .v, 96⟩, 5, 11, 0, true, false, 19, 10, 0, 182⟩),
    (0x5A053264B0000016E4000000, .xred ⟨5, ⟨.v, 201⟩, ⟨true, .v, 150⟩, ⟨false, .v, 0⟩, ⟨false, .v, 0⟩, 5, 11, 4, true, false, 0, 0, 0, 0⟩)] : List (BitVec 96 × Instr)).all laneWord = true := by decide +kernel

/-- R61, R64: the crossbar words of a run. -/
theorem test_words_lane_marver : ([
    (0x6000C004B0000016D0000000, .xldp ⟨0, ⟨.special, 0⟩, ⟨false, .v, 150⟩, ⟨false, .v, 0⟩, ⟨false, .v, 0⟩, 5, 45, 0, 0, 0, 0, 0⟩),
    (0x61023264B0000016D60000A6, .xpat ⟨2, ⟨.v, 201⟩, ⟨true, .v, 150⟩, ⟨false, .v, 0⟩, ⟨false, .v, 0⟩, 5, 45, 3, 0, 0, 0, 166⟩),
    (0x62163264B00000140400002D, .xshf ⟨22, ⟨.v, 201⟩, ⟨true, .v, 150⟩, ⟨false, .v, 0⟩, ⟨false, .v, 0⟩, 5, 0, 2, 0, 0, 0, 45⟩),
    (0x63143264B00000140400002D, .xbcst ⟨20, ⟨.v, 201⟩, ⟨true, .v, 150⟩, ⟨false, .v, 0⟩, ⟨false, .v, 0⟩, 5, 0, 2, 0, 0, 0, 45⟩),
    (0x64013264B105001404000000, .xgath ⟨1, ⟨.v, 201⟩, ⟨true, .v, 150⟩, ⟨false, .q, 5⟩, ⟨false, .v, 0⟩, 5, 0, 2, 0, 0, 0, 0⟩),
    (0x65003264B0000014000000B1, .qswz ⟨0, ⟨.v, 201⟩, ⟨true, .v, 150⟩, ⟨false, .v, 0⟩, ⟨false, .v, 0⟩, 5, 0, 0, 0, 0, 0, 177⟩),
    (0x66003264B000001400000002, .qbcst ⟨0, ⟨.v, 201⟩, ⟨true, .v, 150⟩, ⟨false, .v, 0⟩, ⟨false, .v, 0⟩, 5, 0, 0, 0, 0, 0, 2⟩),
    (0x67003264B000001400000006, .vbal ⟨0, ⟨.v, 201⟩, ⟨true, .v, 150⟩, ⟨false, .v, 0⟩, ⟨false, .v, 0⟩, 5, 0, 0, 0, 0, 0, 6⟩),
    (0x68003264B000001400000006, .vany ⟨0, ⟨.v, 201⟩, ⟨true, .v, 150⟩, ⟨false, .v, 0⟩, ⟨false, .v, 0⟩, 5, 0, 0, 0, 0, 0, 6⟩),
    (0x6900C024B000001400000006, .vall ⟨0, ⟨.special, 0⟩, ⟨true, .v, 150⟩, ⟨false, .v, 0⟩, ⟨false, .v, 0⟩, 5, 0, 0, 0, 0, 0, 6⟩),
    (0x6A613264B000001400000003, .xscan ⟨97, ⟨.v, 201⟩, ⟨true, .v, 150⟩, ⟨false, .v, 0⟩, ⟨false, .v, 0⟩, 5, 0, 0, 0, 0, 0, 3⟩),
    (0x6B0632A4B1050014000000CB, .topk ⟨6, ⟨.v, 202⟩, ⟨true, .v, 150⟩, ⟨false, .q, 5⟩, ⟨false, .v, 0⟩, 5, 0, 0, 0, 0, 0, 203⟩),
    (0x6C0632A4B1050014000000C0, .xsort ⟨6, ⟨.v, 202⟩, ⟨true, .v, 150⟩, ⟨false, .q, 5⟩, ⟨false, .v, 0⟩, 5, 0, 0, 0, 0, 0, 192⟩),
    (0x6D013244B105051400000000, .sdec ⟨1, ⟨.v, 201⟩, ⟨false, .v, 150⟩, ⟨false, .q, 5⟩, ⟨false, .v, 40⟩, 5, 0, 0, 0, 0, 0, 0⟩),
    (0x6E003264B000001400000005, .xxch ⟨0, ⟨.v, 201⟩, ⟨true, .v, 150⟩, ⟨false, .v, 0⟩, ⟨false, .v, 0⟩, 5, 0, 0, 0, 0, 0, 5⟩)] : List (BitVec 96 × Instr)).all laneWord = true := by decide +kernel

/-- R60, R64: the memory words of a run. -/
theorem test_words_lane_memory : ([
    (0x70013324B0008765AD50484A, .ldg ⟨1, ⟨.v, 204⟩, ⟨true, .v, 150⟩, ⟨false, .v, 0⟩, 0x8765, 5, 3, 1, 5, 0, 2, 2, 74⟩),
    (0x7101C024B0288765AE50484A, .stg ⟨1, ⟨.special, 0⟩, ⟨true, .v, 150⟩, ⟨false, .v, 40⟩, 0x8765, 5, 3, 2, 5, 0, 2, 2, 74⟩),
    (0x72013264B0008765ADBAC84A, .ldb ⟨1, ⟨.v, 201⟩, ⟨true, .v, 150⟩, ⟨false, .v, 0⟩, 0x8765, 5, 3, 1, 11, 21, 2, 2, 74⟩),
    (0x7301C024B0298765AEBAC84A, .stb ⟨1, ⟨.special, 0⟩, ⟨true, .v, 150⟩, ⟨false, .v, 41⟩, 0x8765, 5, 3, 2, 11, 21, 2, 2, 74⟩),
    (0x740132A4B8008765A5400000, .lds ⟨1, ⟨.v, 202⟩, ⟨true, .v, 151⟩, ⟨false, .v, 0⟩, 0x8765, 5, 1, 1, 4, 0, 0, 0, 0⟩),
    (0x7501C024BA028765A6400000, .sts ⟨1, ⟨.special, 0⟩, ⟨true, .v, 151⟩, ⟨false, .t, 2⟩, 0x8765, 5, 1, 2, 4, 0, 0, 0, 0⟩),
    (0x760232A4B0008765AD40484A, .ldl ⟨2, ⟨.v, 202⟩, ⟨true, .v, 150⟩, ⟨false, .v, 0⟩, 0x8765, 5, 3, 1, 4, 0, 2, 2, 74⟩),
    (0x770132A4B0008765A0400000, .ldc ⟨1, ⟨.v, 202⟩, ⟨true, .v, 150⟩, ⟨false, .v, 0⟩, 0x8765, 5, 0, 0, 4, 0, 0, 0, 0⟩),
    (0x7800C024B0288765AE20484A, .cstore ⟨0, ⟨.special, 0⟩, ⟨true, .v, 150⟩, ⟨false, .v, 40⟩, 0x8765, 5, 3, 2, 2, 0, 2, 2, 74⟩),
    (0x790932A4B0288765AF50084A, .atom ⟨9, ⟨.v, 202⟩, ⟨true, .v, 150⟩, ⟨false, .v, 40⟩, 0x8765, 5, 3, 3, 5, 0, 0, 2, 74⟩),
    (0x7A00C024B0298765AF40084A, .atomxAdd ⟨0, ⟨.special, 0⟩, ⟨true, .v, 150⟩, ⟨false, .v, 41⟩, 0x8765, 5, 3, 3, 4, 0, 0, 2, 74⟩),
    (0x7A113264B0008765AF40084A, .atomxRd ⟨17, ⟨.v, 201⟩, ⟨true, .v, 150⟩, ⟨false, .v, 0⟩, 0x8765, 5, 3, 3, 4, 0, 0, 2, 74⟩),
    (0x7A123264B0008765AF40084A, .atomxRdclr ⟨18, ⟨.v, 201⟩, ⟨true, .v, 150⟩, ⟨false, .v, 0⟩, 0x8765, 5, 3, 3, 4, 0, 0, 2, 74⟩),
    (0x7A03C024B0008765AF40084A, .atomxClr ⟨3, ⟨.special, 0⟩, ⟨true, .v, 150⟩, ⟨false, .v, 0⟩, 0x8765, 5, 3, 3, 4, 0, 0, 2, 74⟩),
    (0x7B0AC024B0298765AE40084A, .redg ⟨10, ⟨.special, 0⟩, ⟨true, .v, 150⟩, ⟨false, .v, 41⟩, 0x8765, 5, 3, 2, 4, 0, 0, 2, 74⟩),
    (0x7C01C024B0008765A0004000, .pref ⟨1, ⟨.special, 0⟩, ⟨true, .v, 150⟩, ⟨false, .v, 0⟩, 0x8765, 5, 0, 0, 0, 0, 2, 0, 0⟩)] : List (BitVec 96 × Instr)).all laneWord = true := by decide +kernel

/-- R62, R64: the matrix and tile words. -/
theorem test_words_lane_tiles : ([
    (0x800000000000000000000000, .mconv ⟨0, 0, 0, 0, 0, 0, 0, 0, 0, 0, false, false, 0, 0, 0⟩),
    (0x800100000000000000000000, .mconvDis ⟨1, 0, 0, 0, 0, 0, 0, 0, 0, 0, false, false, 0, 0, 0⟩),
    (0x81009AB258000016C730000D, .mma ⟨0, 77, 44, 150, 0, 0, 0, 5, 11, 0, true, true, 19, 0, 13⟩),
    (0x82029AA25802CA16C730000D, .mmas ⟨2, 77, 40, 150, 0, 2, 101, 5, 11, 0, true, true, 19, 0, 13⟩),
    (0x83009A025800CA16C73018BD, .gmma ⟨0, 77, 0, 150, 0, 0, 101, 5, 11, 0, true, true, 19, 6, 189⟩),
    (0x84009A000000001400000150, .tzero ⟨0, 77, 0, 0, 0, 0, 0, 5, 0, 0, false, false, 0, 0, 336⟩),
    (0x85009A000000CC1400000150, .tld ⟨0, 77, 0, 0, 0, 0, 102, 5, 0, 0, false, false, 0, 0, 336⟩),
    (0x860001340000CC1400000150, .tst ⟨0, 0, 77, 0, 0, 0, 102, 5, 0, 0, false, false, 0, 0, 336⟩),
    (0x870B013658000016C0004D40, .trd ⟨11, 0, 77, 150, 0, 0, 0, 5, 11, 0, false, false, 0, 19, 320⟩),
    (0x880B9A0258000016C1300140, .twr ⟨11, 77, 0, 150, 0, 0, 0, 5, 11, 0, false, false, 19, 0, 320⟩)] : List (BitVec 96 × Instr)).all laneWord = true := by decide +kernel

/-- R55, R63, R64: LMMA, the sprue and query words, and the trailer. -/
theorem test_words_lane_queries : ([
    (0x98028184B10540D6C0000000, .lmma ⟨2, ⟨.t, 6⟩, ⟨false, .v, 150⟩, ⟨false, .q, 5⟩, ⟨false, .t, 6⟩, 5, 11, 0, false, false, 0, 0, 0, 0⟩),
    (0x9001C024B1050014000000B6, .qpost ⟨1, ⟨.special, 0⟩, ⟨true, .v, 150⟩, ⟨false, .q, 5⟩, ⟨false, .v, 0⟩, 5, 0, 0, false, false, 0, 0, 0, 182⟩),
    (0x912B328000000014000000B6, .qtake ⟨43, ⟨.v, 202⟩, ⟨false, .v, 0⟩, ⟨false, .v, 0⟩, ⟨false, .v, 0⟩, 5, 0, 0, false, false, 0, 0, 0, 182⟩),
    (0x9201C004B000001400000002, .plq ⟨1, ⟨.special, 0⟩, ⟨false, .v, 150⟩, ⟨false, .v, 0⟩, ⟨false, .v, 0⟩, 5, 0, 0, false, false, 0, 0, 0, 2⟩),
    (0x9301C024B105001400000002, .plfuse ⟨1, ⟨.special, 0⟩, ⟨true, .v, 150⟩, ⟨false, .q, 5⟩, ⟨false, .v, 0⟩, 5, 0, 0, false, false, 0, 0, 0, 2⟩),
    (0x942B32800000001400000002, .plnext ⟨43, ⟨.v, 202⟩, ⟨false, .v, 0⟩, ⟨false, .v, 0⟩, ⟨false, .v, 0⟩, 5, 0, 0, false, false, 0, 0, 0, 2⟩),
    (0x950032400000001400000002, .plclose ⟨0, ⟨.v, 201⟩, ⟨false, .v, 0⟩, ⟨false, .v, 0⟩, ⟨false, .v, 0⟩, 5, 0, 0, false, false, 0, 0, 0, 2⟩),
    (0xF003324960A0000000000000, .endrun ⟨3, ⟨.v, 201⟩, ⟨.v, 150⟩, ⟨.v, 40⟩, ⟨.v, 0⟩⟩)] : List (BitVec 96 × Instr)).all laneWord = true := by decide +kernel

/-! ## Ill-formed terms: one for each check, each refused

Each list starts from a well-formed word (`w3`, `wx`, `wm`, `wt`, shown well-formed beside it) and spoils one field. -/

def n0 : Src := ⟨false, .v, 0⟩
def nd : Dst := ⟨.special, 0⟩
def v (i : BitVec 8) : Src := ⟨false, .v, i⟩
def dv (i : BitVec 8) : Dst := ⟨.v, i⟩

def w3 : L3 := ⟨0, dv 2, v 4, v 6, n0, 0, 0, 0, false, false, 0, 0, 0, 0⟩
def w1 : L3 := { w3 with b := n0 }
def wc : L3 := { w3 with c := v 8 }
def wx : LX := ⟨0, dv 2, v 4, n0, n0, 0, 0, 0, 0, 0, 0, 0⟩
def wm : LM := ⟨0, dv 2, v 4, n0, 0, 0, 0, 0, 4, 0, 0, 0, 0⟩
def ws : LM := { wm with dst := nd, b := v 6 }
def wt : LT := ⟨0, 0, 0, 0, 0, 0, 0, 0, 0, 0, false, false, 0, 0, 0⟩

/-- Every term of a list is refused. -/
def allBad (l : List Instr) : Bool := l.all fun i => !i.wf

theorem test_wf_bases : ([.iadd w3, .imad wc, .not { w1 with fn := 1 }, .fadd w3, .badd w3, .xred w1, .xshf wx, .qswz wx,
    .ldg wm, .stg ws, .mma wt, .tzero wt] : List Instr).all Instr.wf = true := by decide

/-- R46, R51 to R53, R72: the scalar field checks. -/
theorem test_wf_scalar : allBad [
    .saddB64 1 2 4, .saddB64 2 1 4, .saddB64 2 4 1, .ssubB64 2 4 1, .saddiB64 1 2 0, .saddiB64 2 1 0, .scmp 0 0 0 10,
    .mand 8 0 0, .mandn 0 8 0, .mxor 0 0 8, .mor 1 0 0 true, .mor 0 8 0 false, .mnot 8 0, .mmov 1 0 true, .mmov 0 8 false,
    .mpop 0 8, .mfirst 0 8, .bz 8 0, .bnz 8 0, .repack 8 0, .callw 0 0, .lrun 0 0, .lrun 25 0, .lrun 1 2, .waitc 0 0 0 0 0 0 2,
    .waitr 0 6, .fence 5 3, .fence 0 0, .pfence 0, .semadd 1 0 0 0 0, .semadd 0 1 0 0 0, .semadd 0 0 1 0 0, .semadd 0 0 0 5 0,
    .semwait 1 0 0 0, .semwait 0 0 0 3, .semset 0 1 0 0, .semset 0 0 0 1, .semset 0 0 0 3, .sldB32 0 1 0, .sldB64 1 0 0,
    .sstB32 0 1 0, .sstB64 1 0 0, .launch 1, .spawn 1 0, .getsr 0 0x001, .getsr 1 0x008, .getsr 0 0x00E,
    .getsr 0 0x027, .getsr 0 0x050, .setsr 0 0x002, .setsr 0 0x00C, .setsr 1 0x00A, .setsr 0 0x020, .cbgoLadle 0 1 0,
    .cbgoPle 0 1, .cbgoRunner 0 1 0] = true := by decide

/-- R56, R65, R128 to R139: the operand fields and the integer words. -/
theorem test_wf_integer : allBad [
    .iadd { w3 with rnd := 1 }, .iadd { w3 with fmt := 1 }, .iadd { w3 with reuse := true }, .iadd { w3 with xA := 1 },
    .iadd { w3 with xB := 1 }, .iadd { w3 with xD := 1 }, .iadd { w3 with aux := 1 }, .iadd { w3 with fn := 8 },
    .iadd { w3 with c := v 1 }, .iadd { w3 with dst := ⟨.q, 8⟩ }, .iadd { w3 with dst := nd }, .iadd { w3 with a := ⟨false, .t, 8⟩ },
    .iadd { w3 with a := ⟨true, .q, 0⟩ }, .iadd { w3 with a := ⟨false, .special, 4⟩ }, .iadd { w3 with a := ⟨true, .special, 0⟩ },
    .iadd { w3 with fn := 2, dst := dv 3 }, .iadd { w3 with fn := 2, a := v 5 }, .iadd { w3 with fn := 3, b := v 7 },
    .imulh { w3 with sat := true }, .imad { wc with fn := 10 }, .imad { wc with fn := 8, c := v 9 }, .iabs { w1 with fn := 1 },
    .imin { w3 with sat := true }, .and w3, .and { w3 with fn := 17 }, .not { w1 with fn := 9 }, .shl { w3 with fn := 8 },
    .shl { w3 with sat := true }, .rot { w3 with fn := 16 }, .bfx { w3 with fn := 4 }, .bfi { wc with fn := 2 }, .popc w1,
    .clz { w1 with fn := 5 }, .brev w1, .iset { w3 with dst := nd, aux := 0 }, .iset { w3 with aux := 1 },
    .iset { w3 with dst := nd, aux := 25 }, .iset { w3 with dst := nd, aux := 33 }, .iset { w3 with dst := nd, aux := 1, fn := 80 },
    .iset { w3 with dst := nd, aux := 1, fn := 48 }, .iset { w3 with dst := nd, aux := 1, fn := 4 }, .sel w3,
    .sel { w3 with fn := 1, aux := 8 }, .iaddc { w3 with fn := 0 }, .iaddc { w3 with fn := 1, aux := 64 }, .movl w1,
    .lim ⟨3, dv 2, n0, n0, 0, 0, 0⟩, .lim ⟨1, dv 3, n0, n0, 0, 0, 0⟩, .lim ⟨0, dv 2, v 1, n0, 0, 0, 0⟩, .lim ⟨0, dv 2, n0, n0, 0, 0, 1⟩,
    .lea { w3 with fn := 32 }, .lea { w3 with dst := dv 3 }, .lea64 { w3 with fn := 8 }, .cvti { w1 with fn := 64 },
    .cvti { w1 with aux := 1 }, .idot4 { wc with fn := 22 }] = true := by decide

/-- R142, R143, R148 to R168: the floating-point and block words. -/
theorem test_wf_float : allBad [
    .fadd { w3 with fn := 16 }, .fadd { w3 with rnd := 6 }, .fadd { w3 with xA := 1 }, .fadd { w3 with aux := 1 }, .fadd wc,
    .ffma { wc with aux := 1 }, .fmin { w3 with rnd := 1 }, .fmax { w3 with sat := true }, .fset w3, .fset { w3 with dst := nd, aux := 1, fn := 8 },
    .fclass { w1 with rnd := 1 }, .fclass { w1 with aux := 1 }, .frnd { w1 with sat := true }, .fcvt { w1 with aux := 128 },
    .ftoi { w1 with fn := 4 }, .ftoi { w1 with fn := 2, dst := dv 3 }, .itof { w1 with fn := 2, a := v 5 }, .frcp { w1 with rnd := 5 },
    .frcp { w1 with dst := ⟨.q, 0⟩ }, .frsq { w1 with rnd := 1 }, .fdivs wc, .fdot2 { wc with fn := 64 }, .fdot2 { wc with aux := 16 },
    .bmax { w1 with xA := 1 }, .bscl { w1 with xA := 1 }, .bqnt { w1 with aux := 1 }, .bdqt { w1 with xD := 1 },
    .bdqt { w1 with aux := 16 }, .badd { w3 with reuse := true }, .bmul { w3 with a := ⟨false, .special, 0⟩ }, .bfma { wc with c := ⟨false, .special, 0⟩ },
    .brnm { w1 with xB := 1 }, .bcvt { w1 with aux := 16 }, .bsdot { wc with rnd := 1 }, .xred { w1 with rnd := 1 },
    .xred { w1 with fn := 8 }, .xred { w1 with fn := 1, rnd := 5 }] = true := by decide

/-- R199 to R221: the crossbar words. -/
theorem test_wf_marver : allBad [
    .xldp { wx with dst := nd, a := v 5 }, .xldp { wx with dst := nd, imm := 1 }, .xldp wx, .xpat { wx with fn := 3 },
    .xpat { wx with fn := 1 }, .xpat { wx with imm := 256 }, .xshf { wx with fn := 28 }, .xshf { wx with imm := 32 },
    .xshf { wx with fn := 20 }, .xshf { wx with pat := 1 }, .xshf { wx with esz := 4 }, .xbcst { wx with fn := 1 }, .xgath { wx with fn := 2, b := v 6 },
    .xgath { wx with fn := 1, esz := 3, b := v 6 }, .qswz { wx with imm := 256 }, .qbcst { wx with imm := 4 },
    .vbal { wx with imm := 8 }, .vany { wx with dst := nd }, .xscan { wx with fn := 128 }, .xscan { wx with fn := 8 },
    .xscan { wx with fn := 41 }, .topk { wx with b := v 6 }, .topk { wx with b := v 6, imm := 33 }, .topk { wx with b := v 6, fn := 3, imm := 1 },
    .topk { wx with b := v 6, dst := dv 3, imm := 1 }, .xsort { wx with b := v 6, imm := 1 }, .xsort { wx with b := v 6, imm := 256 },
    .sdec { wx with b := v 6, c := v 4 }, .sdec { wx with b := v 6, c := v 3 }, .sdec { wx with b := v 6, c := v 2 },
    .sdec { wx with b := v 6, dst := dv 5, c := v 8 }, .xxch { wx with imm := 8 }, .xxch { wx with xA := 1 }] = true := by decide

/-- R60, R235 to R246: the memory words. -/
theorem test_wf_memory : allBad [
    .ldg { wm with a := v 5 }, .ldg { wm with aux := 2 }, .ldg { wm with amode := 1, aux := 1 }, .ldg { wm with amode := 1, aux := 128 },
    .ldg { wm with amode := 3 }, .ldg { wm with scope := 5 }, .ldg { wm with order := 2 }, .ldg { wm with width := 6 },
    .ldg { wm with fn := 1, width := 0 }, .ldg { wm with fn := 3 }, .ldg { wm with xB := 1 }, .ldg { wm with b := v 6 },
    .ldg { wm with dst := dv 3, width := 5 }, .ldg { wm with dst := ⟨.q, 0⟩ }, .stg { ws with order := 1 }, .stg { ws with width := 1 },
    .stg { ws with dst := dv 2 }, .stg { ws with fn := 1, b := v 7 }, .lds { wm with amode := 1 }, .lds { wm with scope := 2 }, .lds { wm with hint := 1 },
    .sts { ws with scope := 2 }, .ldl { wm with width := 5 }, .ldl { wm with dst := dv 3 }, .ldl { wm with fn := 2, dst := dv 250 },
    .ldb { wm with fn := 2 }, .ldb { wm with dst := dv 3 }, .stb { ws with b := ⟨false, .special, 0⟩ }, .ldc { wm with order := 1 },
    .ldc { wm with hint := 1 }, .cstore { ws with fn := 1 }, .atom { wm with b := v 6, fn := 13 }, .atom { wm with b := v 6, fn := 10, width := 5 },
    .atom { wm with b := v 7, fn := 9 }, .atom { wm with b := v 6, hint := 1 }, .redg { ws with fn := 8 }, .redg { ws with fn := 9 },
    .redg { ws with order := 3 }, .atomxAdd { ws with width := 5 }, .atomxAdd { wm with b := v 6 }, .atomxRd { wm with fn := 65 },
    .atomxRd { wm with fn := 21 }, .atomxRdclr { wm with fn := 1 }, .atomxClr { ws with fn := 3 }, .pref { wm with dst := nd },
    .pref { wm with dst := nd, width := 0, hint := 3 }, .pref { wm with dst := nd, width := 0, scope := 1 }] = true := by decide

/-- R63, R71, R252, R257 to R268, R304 to R306, R417 to R421: the matrix, tile, sprue and query words, and the trailer. -/
theorem test_wf_tiles : allBad [
    .mconv { wt with fn := 1 }, .mconv { wt with aux := 1 }, .mconvDis wt, .mma { wt with vA := 1 }, .mma { wt with vA := 242 },
    .mma { wt with zD := 96 }, .mma { wt with zB := 1 }, .mma { wt with zB := 96 }, .mma { wt with rnd := 1 }, .mma { wt with aux := 16 },
    .mma { wt with sS := 1 }, .mmas wt, .mmas { wt with spat := 3 }, .mmas { wt with spat := 1, zB := 2 }, .mmas { wt with spat := 2, zB := 4 },
    .mmas { wt with spat := 1, sS := 1 }, .mmas { wt with spat := 1, fn := 2, vM := 1 }, .gmma { wt with xD := 8 }, .gmma { wt with zB := 2 },
    .gmma { wt with aux := 256 }, .tzero { wt with sS := 1 }, .tzero { wt with zD := 96 }, .tzero { wt with aux := 1 }, .tld { wt with sS := 1 }, .tst { wt with zD := 1 },
    .trd { wt with fn := 5 }, .trd { wt with fn := 8 }, .trd { wt with fn := 9, vA := 1 }, .trd { wt with fn := 9, xD := 31, aux := 16 },
    .trd { wt with fmt := 1 }, .trd { wt with fn := 4, vA := 241 }, .twr { wt with xD := 1 }, .twr { wt with fn := 11, xA := 29 },
    .lmma { wc with fn := 4 }, .lmma { wc with fn := 3, a := v 226 }, .lmma { wc with a := ⟨false, .q, 0⟩ }, .qpost w3,
    .qpost { w3 with dst := nd, fn := 2 }, .qpost { w3 with dst := nd, aux := 256 }, .qtake { w1 with a := n0 },
    .qtake { w1 with a := n0, fn := 1, dst := dv 3 }, .plq { w1 with dst := nd, a := v 5 }, .plfuse { w3 with dst := nd, aux := 4 },
    .plnext { w1 with a := n0, fn := 1, aux := 4 }, .plclose { w1 with a := n0, fn := 1 }, .endrun ⟨5, dv 0, dv 0, dv 0, dv 0⟩,
    .endrun ⟨1, ⟨.q, 0⟩, dv 0, dv 0, dv 0⟩, .endrun ⟨1, dv 1, dv 1, dv 0, dv 0⟩] = true := by decide

/-- R1, R2: an event that names a part the package does not have. -/
theorem test_wf_events : allBad [
    .matrixOperationDispatch 216, .matrixOperationRetire 216, .matrixWatchdogExpiry 216, .engineStop 12 0, .engineStop 0 90,
    .faultRecordGroupWrite 12, .idleCounterSwapCheck 432, .placeUnit 12, .unitReservation 12, .wayConversionComplete 432 0,
    .wayConversionComplete 0 12, .dispatcherEntry 96 0, .dispatcherEntry 0 9, .recordNextWake 96 0, .functionLevelReset 0,
    .functionLevelReset 97, .headWrite 96 0 0, .headWrite 0 8 0, .logbaseWrite 96 0, .logsizeWrite 96 0, .gtbaseWrite 96 0,
    .wbaseWrite 0 16 0, .registerWrite 96 0 0, .translationContextWrite 96 0, .genraise 12 0, .asflush 0 96, .flushTimeout 12,
    .ptsync 12, .replay 12 0, .pgclean 12 0 0, .escalate 12 0, .clreset 0 9, .clusterResetDeadline 12, .clusterPowerGate 108,
    .twinReset 216, .vdevTableWrite 0 8 0 [0, 0, 0, 0, 0, 0, 0] [], .vdevTableWrite 0 0 0 [] [], .vdevTableWrite 0 0 0 [0, 0, 0, 0, 0, 0, 0] [144],
    .remapRegisterWrite 6 0, .portShareWrite [], .readGrantSet 12 0 0, .strictModeSet 12 true, .partitionReset 12,
    .attestationRequest (List.replicate 33 0), .debuggerEnable 96 true, .gafferChainStart 12 0 0, .gafferChainStart 0 18 0,
    .clusterUngate 108] = true := by decide

/-- R51, R64, R70: opcodes that no table lists, and reserved bits, are refused. -/
theorem test_words_refused :
    ([0x00000000, 0x1C000000, 0x04000016, 0x08000010, 0xEC080000, 0xFC000000, 0x70000001, 0xE8000004] : List Word).all
      (fun w => (decodeScalar w).toOption.isNone) = true
    ∧ ([0x000000000000000000000001, 0x010000000000000000000000, 0x490000000000000000000000, 0x5B0000000000000000000000,
        0x6F0000000000000000000000, 0x7D0000000000000000000000, 0x890000000000000000000000, 0x960000000000000000000000,
        0x990000000000000000000000, 0xF10000000000000000000000, 0xF00800000000000000000000, 0xF00000000000000000000001,
        0x840000000000002000000000, 0x840000000000000000008000] : List (BitVec 96)).all
      (fun w => (decodeLane w).toOption.isNone) = true := by decide

/-! ## Witnesses: states that meet the hypotheses of the statements

`s0` is the machine after reset with a one-gang grid placed (log entry 4): gang 0 on core 0, at PC 0x1000, with nothing in
flight; `on H` is that machine with `H` for its gang. Each theorem is named after its statement. -/

def s0 : State := State.reset.withFetchWord 32 0
def g0 : Gang := placedGang []

/-- The machine with `H` for gang 0, `D` for grid 0 and `W` for workgroup 0, and further gangs and workgroups. -/
def mach (H : Gang) (D : Grid) (W : Wg) (gs : List (Nat × Gang)) (ws : List (Nat × Wg)) : State :=
  { s0 with gangs := (0, H) :: gs, grids := [(0, D)], wgs := (0, W) :: ws }

/-- The machine with `H` for its gang. -/
def on (H : Gang) : State := mach H placedGrid placedWg [] []

/-- A well-formed scalar word has its turn on the placed gang. -/
theorem turn_scalar (i : Instr) (h : i.wf = true) : s0.ScalarTurn g0 i := ⟨rfl, rfl, h⟩

/-- A read or a store that went well, from its decidable part. -/
theorem ok_of {α β ε : Type} (p : α × Except ε β) (h : p.2.toOption.isSome = true) : ∃ u x, p = (u, .ok x) := by
  obtain ⟨u, e | x⟩ := p
  · cases h
  · exact ⟨u, x, rfl⟩
theorem none_of {α β : Type} (p : α × Option β) (h : p.2.isNone = true) : ∃ u, p = (u, none) := by
  obtain ⟨u, _ | x⟩ := p
  · exact ⟨u, rfl⟩
  · cases h

/-- A gang that is awake, waits for nothing and stands where the placed gang does is ready. -/
theorem ready_on (H : Gang) (h : H.life = .awake ∧ H.wait = .none ∧ H.place.wg = 0 ∧ H.vnum = 0) :
    (on H).scalarReady H = true := by
  have hw : (on H).wg? 0 = some placedWg := rfl
  have hs : (on H).stopped (partOfVnum 0) = false := rfl
  simp only [State.scalarReady, State.wgStage, h.1, h.2.1, h.2.2.1, h.2.2.2, hw, hs]
  decide

/-- A well-formed scalar word has its turn on such a gang. -/
theorem turn_on (H : Gang) (i : Instr) (h : H.life = .awake ∧ H.wait = .none ∧ H.place.wg = 0 ∧ H.vnum = 0) (w : i.wf = true) :
    (on H).ScalarTurn H i := ⟨rfl, ready_on H h, w⟩

/-- The placed grid gives its gangs 256 registers. -/
theorem regs_on (H : Gang) (h : H.grid = 0) : (on H).regsOf H = 256 := by
  have hg : (on H).grid? 0 = some placedGrid := rfl
  simp [State.regsOf, h, hg, placedGrid]

/-- The placed gang with a run of one LNOP that has not issued. -/
def gRun : Gang := placedGang [placedRun 0]

/-- The placed gang in window mode, at window base `b` with a call stack. -/
def gWin (b : Nat) (st : List CallEntry) : Gang := { g0 with sp := { g0.sp with win := true, wb := b }, stack := st }

/-- The placed gang with a call stack. -/
def gStack (st : List CallEntry) : Gang := { g0 with stack := st }

/-- A load outstanding. -/
def pend0 : Pend := ⟨0, .load, some .ld, none, [2], [], [], [], false, none, 0, .lnop, 0, 0, 0, 0, [], [], [], [], 0, false⟩

theorem witness_ScalarAluResults :
    s0.ScalarTurn g0 (.ssra 127 0 127) ∧ s0.ScalarTurn g0 (.sbrev 127 127) ∧ s0.ScalarTurn g0 (.saddB64 126 0 126)
    ∧ g0.sregWriteWaits 126 = false ∧ g0.sregWriteWaits 127 = false :=
  ⟨turn_scalar _ rfl, turn_scalar _ rfl, turn_scalar _ rfl, rfl, rfl⟩

theorem witness_ScalarCompareResult :
    s0.ScalarTurn g0 (.scmp 127 0 1 0) ∧ s0.ScalarTurn g0 (.scmp 127 0 1 9) ∧ g0.sregWriteWaits 127 = false
    ∧ 0x0A ≤ (0x0A : BitVec 5).toNat ∧ 0x0A ≤ (0x1F : BitVec 5).toNat ∧ s0.gang? s0.cur = some g0 ∧ s0.scalarReady g0 = true :=
  ⟨turn_scalar _ rfl, turn_scalar _ rfl, rfl, by decide, by decide, rfl, rfl⟩

theorem witness_ScalarImmediateResults :
    s0.ScalarTurn g0 (.saddi 127 0 0x800) ∧ s0.ScalarTurn g0 (.sliH 127 0x7FFFF) ∧ s0.ScalarTurn g0 (.saddiB64 126 0 0x800)
    ∧ g0.sregWriteWaits 126 = false ∧ g0.sregWriteWaits 127 = false ∧ (127 : BitVec 7).toNat % 2 = 1 :=
  ⟨turn_scalar _ rfl, turn_scalar _ rfl, turn_scalar _ rfl, rfl, rfl, rfl⟩

theorem witness_MaskResults :
    (∀ i ∈ ([.mand 7 0 7, .mor 7 0 7 false, .mandn 7 0 7, .mxor 7 0 7, .mnot 7 0, .mmov 7 0 false, .mor 0 1 7 true, .mmov 0 7 true,
      .mpop 127 7, .mfirst 127 7] : List Instr), s0.ScalarTurn g0 i)
    ∧ (∀ k, g0.maskReadWaits k = false) ∧ (∀ k, g0.maskWriteWaits k = false) ∧ g0.sregWriteWaits 127 = false ∧ g0.runs = []
    ∧ (on gRun).ScalarTurn gRun (.mmov 0 7 true) ∧ gRun.runs ≠ [] :=
  ⟨fun i h => turn_scalar i ((by decide : ([.mand 7 0 7, .mor 7 0 7 false, .mandn 7 0 7, .mxor 7 0 7, .mnot 7 0, .mmov 7 0 false,
      .mor 0 1 7 true, .mmov 0 7 true, .mpop 127 7, .mfirst 127 7] : List Instr).all Instr.wf = true) |> fun w => List.all_eq_true.mp w i h),
    fun _ => rfl, fun _ => rfl, rfl, rfl, turn_on _ _ ⟨rfl, rfl, rfl, rfl⟩ rfl, by decide⟩

/-- A full call stack, one with room for one call, and the two kinds of entry on top. -/
theorem witness_BranchesAndCalls :
    (∀ off, s0.ScalarTurn g0 (.jmp off)) ∧ s0.ScalarTurn g0 (.bz 7 0x4000) ∧ g0.maskReadWaits 7 = false
    ∧ (∀ st, (on (gStack st)).ScalarTurn (gStack st) (.call 0x4000) ∧ (on (gStack st)).ScalarTurn (gStack st) .ret)
    ∧ (List.replicate 31 (⟨0, false, 0⟩ : CallEntry)).length < 32 ∧ ¬(List.replicate 32 (⟨0, true, 0⟩ : CallEntry)).length < 32 :=
  ⟨fun _ => turn_scalar _ rfl, turn_scalar _ rfl, rfl, fun _ => ⟨turn_on _ _ ⟨rfl, rfl, rfl, rfl⟩ rfl, turn_on _ _ ⟨rfl, rfl, rfl, rfl⟩ rfl⟩, by decide, by decide⟩

/-- CALLW: outside window mode, a stack that is full, the last window that fits, the first that does not; RETW: no entry, a
plain one, one of a window. -/
theorem witness_WindowCalls :
    (s0.ScalarTurn g0 (.callw 1 0) ∧ g0.gated = false ∧ g0.sp.win = false ∧ s0.ScalarTurn g0 .retw)
    ∧ (∀ b st, let H := gWin b st
        (on H).ScalarTurn H (.callw 15 0) ∧ (on H).ScalarTurn H .retw ∧ H.gated = false ∧ H.sp.win = true ∧ H.windowWaits = false
        ∧ (on H).spillStride H < H.sp.low + 1 ∧ (on H).regsOf H = 256)
    ∧ 1 + 15 + 32 / 2 ≤ 32 + 0 ∧ 32 + 0 < 2 + 15 + 32 / 2 ∧ (gWin 15 [⟨0x2000, true, 15⟩]).sp.low ≤ 15 - 15 :=
  ⟨⟨turn_scalar _ rfl, rfl, rfl, turn_scalar _ rfl⟩,
    fun _ _ => ⟨turn_on _ _ ⟨rfl, rfl, rfl, rfl⟩ rfl, turn_on _ _ ⟨rfl, rfl, rfl, rfl⟩ rfl, rfl, rfl, rfl, Nat.zero_lt_one, regs_on _ rfl⟩, by decide, by decide, by decide⟩

/-- The placed grid with a spill area of 8 granules a gang at 0x40000. -/
def gridSp : Grid := { placedGrid with spbase := 0x40000, spstr := 8 }
/-- The gang of `gWin 2` with zero in the registers of its granule 0. -/
def gLive : Gang :=
  { gWin 2 [] with lane := { g0.lane with regs := (List.range 32).flatMap fun l => (List.range 8).map fun r => (l * 1024 + r, ⟨0, false, true⟩) } }
def slid : Slide → Bool
  | .done _ => true
  | .stop _ => false
theorem done_of (p : Slide) (h : slid p = true) : ∃ t, p = .done t := by
  cases p with
  | done t => exact ⟨t, rfl⟩
  | stop _ => cases h

/-- A CALLW of 15 at window base 2 spills one granule, and a RETW to base 0 with LOW at 1 fills one. -/
def gFill : Gang := { g0 with sp := { g0.sp with win := true, wb := 1, low := 1 }, stack := [⟨0x2000, true, 1⟩] }
theorem witness_WindowSpills :
    (let H := gLive
     let s := mach H gridSp placedWg [] []
     s.ScalarTurn H (.callw 15 0) ∧ H.gated = false ∧ H.windowWaits = false ∧ H.stack.length < 32
     ∧ 256 / 8 + H.sp.low < 2 + 15 + 256 / 8 / 2 ∧ H.sp.low + 1 ≤ s.spillStride H ∧ (∃ t, s.spill 0 17 48 = .done t)
     ∧ (∃ u, s.storeChunks 0 H (H.granule 0 0) (s.spillArea H) = (u, none)))
    ∧ (let s := mach gFill gridSp placedWg [] []
       s.ScalarTurn gFill .retw ∧ gFill.windowWaits = false ∧ 0 < gFill.sp.low ∧ (∃ t, s.fillTo 0 0 48 = .done t)
       ∧ (∃ u cs, s.loadChunks gFill (s.scalarAgent gFill 1 gFill.pc) 16 (s.spillArea gFill) = (u, .ok cs)))
    ∧ (List.replicate 16 (([], false) : List Byte × Bool)).length = 16 :=
  ⟨⟨⟨rfl, by decide, rfl⟩, rfl, rfl, by decide, by decide, by decide, done_of _ (by decide +kernel), none_of _ (by decide +kernel)⟩,
    ⟨⟨rfl, by decide, rfl⟩, rfl, by decide, done_of _ (by decide +kernel), ok_of _ (by decide +kernel)⟩, by decide⟩

/-- The run at the lane base, of one LNOP (memory there is zero) and the trailer of the placed lane word. -/
theorem witness_LrunQueuesARun :
    s0.ScalarTurn g0 (.lrun 24 0) ∧ g0.runs.length < 4 ∧ (∀ x ∈ g0.runs, x.serial ≠ s0.nextId)
    ∧ (s0.fetchLane g0 25 0x2000).2.toOption.isSome = true
    ∧ (let H := placedGang [placedRun 0, placedRun 0, placedRun 0, placedRun 0]
       (on H).ScalarTurn H (.lrun 24 0) ∧ 4 ≤ H.runs.length)
    ∧ (Instr.lrun 25 0).wf = false ∧ (Instr.lrun 1 2).wf = false :=
  ⟨turn_scalar _ rfl, by decide, by decide, by decide, ⟨turn_on _ _ ⟨rfl, rfl, rfl, rfl⟩ rfl, by decide⟩, rfl, rfl⟩

theorem witness_SystemWordsAndExit :
    (∀ i ∈ ([.nop, .yield, .bkpt, .trap 0x7FFFF, .exit] : List Instr), s0.ScalarTurn g0 i)
    ∧ s0.ask.rivals = (false, false) ∧ ({ s0 with ask := { s0.ask with rivals := (true, true) } } : State).ScalarTurn g0 .yield
    ∧ (s0.vdev g0.vnum).debug = false ∧ g0.runs = []
    ∧ ((s0.modVdev 0 fun V => { V with debug := true }).vdev g0.vnum).debug = true
    ∧ (s0.modVdev 0 fun V => { V with debug := true }).ScalarTurn g0 .bkpt
    ∧ ((on { g0 with wait := .bkpt }).gang? 0).map Gang.wait = some .bkpt
    ∧ (on gRun).ScalarTurn gRun (.trap 0) ∧ gRun.runs ≠ [] ∧ g0.drained = true ∧ gRun.drained = false :=
  ⟨fun i h => turn_scalar i (List.all_eq_true.mp
      (by decide : ([.nop, .yield, .bkpt, .trap 0x7FFFF, .exit] : List Instr).all Instr.wf = true) i h),
    rfl, ⟨rfl, rfl, rfl⟩, rfl, rfl, rfl, ⟨rfl, rfl, rfl⟩, rfl, turn_on _ _ ⟨rfl, rfl, rfl, rfl⟩ rfl, by decide, rfl, rfl⟩

/-- With nothing outstanding each wait ends; with a load outstanding WAITC of 0 loads does not. -/
theorem witness_WaitsAndFences :
    s0.ScalarTurn g0 (.waitc 0 15 15 15 15 15 0) ∧ s0.ScalarTurn g0 (.waitc 15 15 15 15 15 15 1) ∧ s0.ScalarTurn g0 (.waitr 127 5)
    ∧ s0.ScalarTurn g0 (.fence 4 3) ∧ s0.ScalarTurn g0 (.pfence 15) ∧ s0.ScalarTurn g0 .xfence ∧ g0.runsIssued = true ∧ g0.count .ld = 0
    ∧ (let H := { g0 with pend := [pend0] }
       (on H).ScalarTurn H (.waitc 0 15 15 15 15 15 0) ∧ ¬(H.count .ld ≤ 0) ∧ H.count .ld ≤ 1) :=
  ⟨turn_scalar _ rfl, turn_scalar _ rfl, turn_scalar _ rfl, turn_scalar _ rfl, turn_scalar _ rfl, turn_scalar _ rfl, rfl, rfl,
    turn_on _ _ ⟨rfl, rfl, rfl, rfl⟩ rfl, by decide, by decide⟩

/-- The workgroup of the placed gang, with barrier 0 declared; one arrival of the two that E asks for, and both. -/
theorem witness_Barriers :
    s0.wg? g0.place.wg = some placedWg ∧ s0.ScalarTurn g0 (.bari 127 63) ∧ s0.ScalarTurn g0 (.bara 63) ∧ s0.ScalarTurn g0 (.barw 0)
    ∧ (∀ a, let q := s0.modWg 0 fun W => { W with bars := [(0, ⟨2, a⟩)] }
        ((q.wg? 0).map fun V => SMap.getD 0 ⟨0, 0⟩ V.bars) = some ⟨2, a⟩) ∧ placedWg.gangs.Nodup :=
  ⟨rfl, turn_scalar _ rfl, turn_scalar _ rfl, turn_scalar _ rfl, fun _ => rfl, by decide⟩

/-- Two gangs at a rendezvous: at REPACK with one target, at REPACK at two PCs, at UNPACK, and one that has not arrived. -/
def gMeet (j : Nat) (pack : Bool) (pc : Nat) : Gang :=
  { g0 with place := { g0.place with gidx := j, slot := 16 * j }, wait := .rendezvous pack 0 0x3000, pc := pc }
def wgTwo : Wg := { placedWg with gangs := [0, 1] }
def sMeet (a b : Gang) : State := mach a placedGrid wgTwo [(1, b)] []

theorem witness_Rendezvous :
    s0.wg? g0.place.wg = some placedWg ∧ s0.ScalarTurn g0 (.repack 7 0x4000) ∧ s0.ScalarTurn g0 .unpack
    ∧ s0.hasRoles placedWg = false ∧ g0.sp.win = false ∧ g0.drained = true
    ∧ (∀ a b, ((sMeet a b).gang? 0).isSome = true ∧ (a.life = .awake → b.life = .awake → a.place.gidx ≤ b.place.gidx → (sMeet a b).awakeGangs wgTwo = [(0, a), (1, b)]))
    ∧ (gMeet 0 true 0x1000).inRendezvous = true ∧ g0.inRendezvous = false ∧ (gMeet 0 true 0x1000).pc ≠ (gMeet 1 true 0x1004).pc
    ∧ (∀ p < 32, ∀ x ∈ lanesAt [(0, gMeet 0 false 0x1000), (1, gMeet 1 false 0x1000)] p, x.birth = 0 ∨ x.birth = 1)
    ∧ (([(0, gMeet 0 true 0x1000), (1, gMeet 1 true 0x1000)] : List (Nat × Gang)).map Prod.fst).Nodup
    ∧ (∃ p, p < 32 ∧ (((packPosition [(0, gMeet 0 true 0x1000), (1, { gMeet 1 true 0x1000 with m := [] })] p).getD 0 none).any Moved.go) = true)
    ∧ (∀ p, (((packPosition [(0, gMeet 0 true 0x1000), (1, { gMeet 1 true 0x1000 with m := [] })] p).getD 1 none).any Moved.go) = false
        ∨ 32 ≤ p)
    ∧ (let x : Moved := ⟨0, 0, true, [(5, ⟨7, false, true⟩)], []⟩
       (x.regs.map Prod.fst).Nodup ∧ (5, (⟨7, false, true⟩ : Cell)) ∈ x.regs ∧ ∀ e ∈ x.regs, e.1 < 1024) :=
  ⟨rfl, turn_scalar _ rfl, turn_scalar _ rfl, rfl, rfl, rfl, fun a b => ⟨rfl, fun ha hb hg => by
      have h : (sMeet a b).members wgTwo = [(0, a), (1, b)] := by
        simp [State.members, wgTwo, sMeet, mach, State.gang?, SMap.find?, sortBy, sortBy.ins, hg]
      simp [State.awakeGangs, h, ha, hb]⟩,
    by decide, by decide, by decide, by decide +kernel, by decide, ⟨0, by decide, by decide +kernel⟩, fun p => by
      rcases Nat.lt_or_ge p 32 with h | h
      · exact .inl ((by decide +kernel : ∀ p < 32, (((packPosition [(0, gMeet 0 true 0x1000), (1, { gMeet 1 true 0x1000 with m := [] })] p).getD 1
          none).any Moved.go) = false) p h)
      · exact .inr h, by decide⟩

/-- The placed gang with 0x4000 in its pair s4 and 1 in its pair s6. -/
def gPair : Gang := { g0 with s := [(4, 0x4000), (6, 1), (10, 0xFFFFFFFF)] }

/-- The word at 0x4000 is 0; SEMWAIT compares with 1. For the ring words, a workgroup with scratch holds a ring of
one slot for one arrival a side; at cursor 0 the slot is ready for side 0, at cursor 1 it is not. -/
theorem witness_SemaphoreAndRingWords :
    ((∀ i ∈ ([.semadd 8 4 6 4 3, .semset 4 6 4 2, .semwait 4 6 4 0, .semwait 4 6 4 1, .semwait 4 6 4 2] : List Instr), (on gPair).ScalarTurn gPair i)
      ∧ gPair.gated = false ∧ gPair.runsIssued = true ∧ gPair.releaseWaits = false ∧ (gPair.spair 4).toNat % 8 = 0
      ∧ addrFault (gPair.spair 4).toNat 0 = none ∧ gPair.sregWriteWaits 8 = false ∧ gPair.sregWriteWaits 9 = false
      ∧ (∃ u, ((on gPair).release gPair 4).atHome 0 0 .rmw true 0x4000 = (u, .ok 0x4000)
        ∧ (u.homeAtomic gPair.req 0x4000 8).2 = false ∧ (u.homeAtomic gPair.req 0x4000 8).1.extentBad 0x4000 8 = false)
      ∧ (∃ u, ((on gPair).release gPair 4).atHome 0 0 .write true 0x4000 = (u, .ok 0x4000))
      ∧ (∃ u, (on gPair).atHome 0 0 .read true 0x4000 = (u, .ok 0x4000) ∧ (u.homeRead gPair.req 0x4000 8 true).2.2 = false
        ∧ ofBytes (u.homeRead gPair.req 0x4000 8 true).2.1 = 0)
      ∧ (∀ es, (on gPair).comesAfter gPair gPair.pend es = false) ∧ gPair.acquireWaits = false ∧ isHost 0x4000 = false)
    ∧ (let t := ({ on g0 with wgs := [(0, placedWg)], grids := [(0, { placedGrid with scr := 64 })] } : State)
       (∀ es, t.comesAfter g0 g0.pend es = false) ∧ g0.acquiring = false ∧ g0.acquireWaits = false ∧ t.ScalarTurn g0 (.rtake 8 4) ∧ t.ScalarTurn g0 (.rpost 8 4) ∧ (g0.sreg 4).toNat / 2 % 32 = 0 ∧ t.scratchOk g0 0 64 = true
       ∧ ofBytes (t.scratchRead g0 0 8).bytes = 0 ∧ ofBytes (t.scratchRead g0 32 1).bytes = 0 ∧ g0.arrivalWaits = false
       ∧ (0 / 64 % 2 = 0 / 1 % 2 ∧ 0 / 128 % 2 = 0 / 1 % 2) ∧ ¬(0 / 64 % 2 = 1 / 1 % 2)) :=
  ⟨⟨fun i h => turn_on gPair i ⟨rfl, rfl, rfl, rfl⟩ (List.all_eq_true.mp (by decide : ([.semadd 8 4 6 4 3, .semset 4 6 4 2, .semwait 4 6 4 0,
      .semwait 4 6 4 1, .semwait 4 6 4 2] : List Instr).all Instr.wf = true) i h), rfl, rfl, rfl, by decide, by decide, rfl, rfl,
      ⟨_, Prod.ext rfl (by rfl), by decide, by decide⟩, ⟨_, Prod.ext rfl (by rfl)⟩, ⟨_, Prod.ext rfl (by rfl), by decide, by decide⟩, fun _ => rfl, rfl, by decide⟩,
    fun _ => rfl, rfl, rfl, ⟨rfl, rfl, rfl⟩, ⟨rfl, rfl, rfl⟩, by decide, by decide, by decide, by decide, rfl, by decide, by decide⟩

/-- `gPair` with a store of lane 0 to 0x4000 that is not performed yet. -/
def gStoring : Gang :=
  { gPair with pend := [{ pend0 with kind := .store, cls := some .st, word := .stg ws, todo := 1, ops := [(0, ⟨0x4000, false, true⟩)] }] }

/-- At 0x4000, and, for the misaligned clauses, at 0x4001; and behind a store to 0x4000. -/
theorem witness_ScalarLoadStore :
    (∀ i ∈ ([.sldB32 8 4 0, .sldB64 8 4 0, .sstB32 8 4 1, .sstB64 8 4 1] : List Instr), (on gPair).ScalarTurn gPair i)
    ∧ gPair.gated = false ∧ gPair.runsIssued = true ∧ gPair.sregWriteWaits 8 = false ∧ gPair.sregWriteWaits 9 = false
    ∧ (BitVec.ofInt 64 ((gPair.spair 4).toInt + (0 : BitVec 12).toInt)).toNat = 0x4000
    ∧ (BitVec.ofInt 64 ((gPair.spair 4).toInt + (1 : BitVec 12).toInt)).toNat % 4 ≠ 0
    ∧ (∀ n ∈ [4, 8], (on gPair).addressFault gPair 0 0x4000 n n true = none ∧ (on gPair).addressFault gPair 1 0x4000 n n true = none)
    ∧ (∃ u x, (on gPair).lsLoad gPair ((on gPair).scalarAgent gPair 1 gPair.pc) false 0 0x4000 8 = (u, .ok x))
    ∧ (∃ u, (on gPair).lsStore 0 gPair false 0 0x4000 (toBytes 8 1) false = (u, none))
    ∧ (∀ es, (on gPair).comesAfter gPair gPair.pend es = false)
    ∧ (on gStoring).comesAfter gStoring gStoring.pend [(0x4000, 4)] = true :=
  ⟨fun i h => turn_on gPair i ⟨rfl, rfl, rfl, rfl⟩ (List.all_eq_true.mp (by decide : ([.sldB32 8 4 0, .sldB64 8 4 0, .sstB32 8 4 1,
      .sstB64 8 4 1] : List Instr).all Instr.wf = true) i h), rfl, rfl, rfl, rfl, by decide, by decide, by decide, ok_of _ (by decide), none_of _ (by decide), fun _ => rfl, by decide⟩

/-- A record at 0x4000 and one at 1; a queue with room and a full one; an entry at 0x4000 and one at 1. -/
theorem witness_LaunchAndSpawn :
    (∀ i ∈ ([.launch 4, .launch 6, .spawn 4 8, .spawn 6 8] : List Instr), (on gPair).ScalarTurn gPair i)
    ∧ gPair.gated = false ∧ gPair.runsIssued = true ∧ gPair.releaseWaits = false
    ∧ (gPair.spair 4).toNat % 128 = 0 ∧ inWindow (gPair.spair 4).toNat = false ∧ (gPair.spair 6).toNat % 128 ≠ 0
    ∧ (gPair.spair 4).toNat % 4 = 0 ∧ (gPair.spair 6).toNat % 4 ≠ 0
    ∧ ((on gPair).vdev gPair.vnum).queue.length < 64
    ∧ 64 ≤ (((on gPair).modVdev 0 fun V => { V with queue := List.replicate 64 0 }).vdev gPair.vnum).queue.length
    ∧ (((on gPair).release gPair 3).cluster 0).tasks.length < 256
    ∧ 256 ≤ ((((on gPair).modCluster 0 fun K => { K with tasks := List.replicate 256 ⟨0, [], 0, 0, 0⟩ }).release gPair 3).cluster 0).tasks.length :=
  ⟨fun i h => turn_on gPair i ⟨rfl, rfl, rfl, rfl⟩ (List.all_eq_true.mp (by decide :
      ([.launch 4, .launch 6, .spawn 4 8, .spawn 6 8] : List Instr).all Instr.wf = true) i h), rfl, rfl, rfl, by decide, by decide, by decide,
    by decide, by decide, by decide, by decide +kernel, by decide, by decide +kernel⟩

/-- The format image at 0x4000 reads as zeros. -/
theorem formats_read : ((on gPair).pathReadMany (.const 0) 0 0 2 0x4000 128).2.toOption.map (fun d => (d.bytes, d.bad)) =
    some (List.replicate 128 0, false) := by decide +kernel
/-- So loading it ends well. -/
theorem formats_done : ∃ u, (on gPair).loadFormats 0 gPair 0x4000 (fun t => t.illegalScalar gPair 0) = .done u := by
  have h := formats_read
  unfold State.loadFormats
  generalize hp : (on gPair).pathReadMany (.const 0) 0 0 2 0x4000 128 = p at h
  obtain ⟨t, e | d⟩ := p
  · cases h
  · have hb : d.bytes = List.replicate 128 0 ∧ d.bad = false := by
      have := Option.some.inj h
      exact ⟨congrArg Prod.fst this, congrArg Prod.snd this⟩
    have hw : (((List.range 16).map fun i => (i, ofBytes ((d.bytes.drop (8 * i)).take 8))).all fun w => entryOk w.2) = true := by
      rw [hb.1]; decide +kernel
    have hq : (on gPair).pathReadMany (.const gPair.place.core) (clusterOf gPair.place.core) gPair.vnum 2 0x4000 128 = (t, .ok d) := hp
    simp only [hq, hw, if_true]
    exact ⟨_, rfl⟩

/-- Every readable number; SETSR of an aligned and of a misaligned base, of each width of %mode and of a preset format entry. -/
theorem witness_SpecialRegisters :
    (∀ n ∈ ([0x002, 0x003, 0x004, 0x005, 0x006, 0x007, 0x008, 0x009, 0x00A, 0x00B, 0x00C, 0x00D, 0x020, 0x026, 0x040, 0x04F] : List (BitVec 12)),
      (on gPair).ScalarTurn gPair (.getsr 126 n))
    ∧ gPair.sregWriteWaits 126 = false ∧ gPair.sregWriteWaits 127 = false ∧ gPair.parkedWord = false ∧ gPair.gated = false ∧ gPair.runsIssued = true
    ∧ (∀ n ∈ ([0x009, 0x00A, 0x00B, 0x00D, 0x040, 0x04F] : List (BitVec 12)), (on gPair).ScalarTurn gPair (.setsr 4 n) ∧ (on gPair).ScalarTurn gPair (.setsr 6 n))
    ∧ (gPair.spair 4).toNat % 64 = 0 ∧ (gPair.spair 6).toNat % 16 ≠ 0
    ∧ (∃ u, (on gPair).loadFormats 0 gPair 0x4000 (fun t => t.illegalScalar gPair 0) = .done u)
    ∧ entryOk (gPair.spair 10).toNat = false ∧ entryOk (SMap.getD 0 0 presets).toNat = true
    ∧ (∀ es, (on gPair).comesAfter gPair gPair.pend es = false) :=
  ⟨fun n h => turn_on gPair _ ⟨rfl, rfl, rfl, rfl⟩ (List.all_eq_true.mp (by decide : ([0x002, 0x003, 0x004, 0x005, 0x006, 0x007, 0x008, 0x009,
      0x00A, 0x00B, 0x00C, 0x00D, 0x020, 0x026, 0x040, 0x04F] : List (BitVec 12)).all (fun n => (Instr.getsr 126 n).wf) = true) n h),
    rfl, rfl, rfl, rfl, rfl,
    fun n h => ⟨turn_on gPair _ ⟨rfl, rfl, rfl, rfl⟩ (List.all_eq_true.mp (by decide : ([0x009, 0x00A, 0x00B, 0x00D, 0x040, 0x04F] :
      List (BitVec 12)).all (fun n => (Instr.setsr 4 n).wf) = true) n h), turn_on gPair _ ⟨rfl, rfl, rfl, rfl⟩ (List.all_eq_true.mp (by decide : ([0x009, 0x00A, 0x00B,
      0x00D, 0x040, 0x04F] : List (BitVec 12)).all (fun n => (Instr.setsr 6 n).wf) = true) n h)⟩,
    by decide, by decide, formats_done, by decide, by decide, fun _ => rfl⟩

/-- A chain's block at 0x4000 and one at 1; an idle engine; for CBSTAT a handle not given, one 65 old, one that runs and one that has
ended, the oldest kept. -/
theorem witness_RestartAndChainWords :
    (s0.ScalarTurn g0 (.mrest 0x4000) ∧ s0.ScalarTurn g0 .mcommit ∧ g0.runs = [] ∧ g0.count .st = 0 ∧ g0.count .tl = 0
      ∧ (let t := ({ s0 with grids := [(0, { placedGrid with mt := 1, f := 1, v := 1 })] } : State)
         t.ScalarTurn g0 (.mrest 0x4000) ∧ t.ScalarTurn g0 .mcommit ∧ t.hasMatrix g0 = true))
    ∧ (∀ i ∈ ([.cbgoLadle 8 4 1, .cbgoPle 8 4, .cbgoRunner 8 4 3, .cbgoLadle 8 6 0, .cbstat 8 6] : List Instr), (on gPair).ScalarTurn gPair i)
    ∧ gPair.sregWriteWaits 8 = false ∧ gPair.gated = false ∧ gPair.runsIssued = true ∧ gPair.releaseWaits = false ∧ gPair.count .cp < 63
    ∧ (gPair.spair 4).toNat % 64 = 0 ∧ inWindow (gPair.spair 4).toNat = false ∧ (gPair.spair 6).toNat % 64 ≠ 0
    ∧ (∀ e ∈ [1, 216, 327], (on gPair).engineFull e = false)
    ∧ (∀ n st, let H := { gPair with eng := { gPair.eng with chains := n, status := st } }
        (on H).ScalarTurn H (.cbstat 8 6) ∧ H.eng.chains = n ∧ (H.sreg 6).toNat = 1)
    ∧ 64 < 66 - 1 ∧ 65 ≤ 1 + 64 ∧ SMap.find? 1 ([] : SMap Word) = none ∧ SMap.find? 1 ([(1, 5)] : SMap Word) = some 5 :=
  ⟨⟨turn_scalar _ rfl, turn_scalar _ rfl, rfl, rfl, rfl, ⟨rfl, rfl, rfl⟩, ⟨rfl, rfl, rfl⟩, by decide⟩,
    fun i h => turn_on gPair i ⟨rfl, rfl, rfl, rfl⟩ (List.all_eq_true.mp (by decide : ([.cbgoLadle 8 4 1, .cbgoPle 8 4, .cbgoRunner 8 4 3,
      .cbgoLadle 8 6 0, .cbstat 8 6] : List Instr).all Instr.wf = true) i h),
    rfl, rfl, rfl, rfl, by decide, by decide, by decide, by decide, by decide,
    fun _ _ => ⟨turn_on _ _ ⟨rfl, rfl, rfl, rfl⟩ rfl, rfl, rfl⟩, by decide, by decide, rfl, rfl⟩

/-! ## Lane words

`gRun` has a run of one word that is due; what a lane word's turn needs is one Bool of the word and its operands. -/

def r0 : Run := placedRun 0

/-- A state with the token of one lane word borrowed. -/
def paid (s : State) : State :=
  { s with buckets := SMap.put 0 { s0.bucket 0 0 with brw := (s0.bucket 0 0).brw + 1 } s0.buckets }

/-- A gang that stands where the placed gang does, with the run `r0`. -/
def Stands (H : Gang) : Prop :=
  (H.life = .awake ∧ H.place.wg = 0 ∧ H.place.core = 0 ∧ H.place.qtr = 0 ∧ H.vnum = 0 ∧ H.grid = 0) ∧ H.runs = [r0] ∧ H.sp.lutrap = false ∧ H.lane.err = []

/-- A lane word that may issue on a gang. -/
def mayIssue (H : Gang) (m : Option Nat) (e : Instr × Use) : Bool :=
  e.1.wf && roleAllows H.place.role (laneOp e.1) && e.2.allocated H 256 && !e.2.waits e.1 H 256 m

theorem turn_lane {H : Gang} {D : Grid} {W : Wg} {gs : List (Nat × Gang)} {ws : List (Nat × Wg)} {m : Option Nat} {i : Instr} {u : Use}
    (k : Stands H) (hD : D.regs = 256) (hW : W.stage = .running) (h : mayIssue H m (i, u) = true) :
    (mach H D W gs ws).LaneTurn H r0 i m u (paid (mach H D W gs ws)) := by
  simp only [mayIssue, Bool.and_eq_true, Bool.not_eq_true'] at h
  obtain ⟨⟨hl, hp, hc, hq, hv, hg⟩, hr, ht, he⟩ := k
  have hn : (mach H D W gs ws).regsOf H = 256 := by
    have : (mach H D W gs ws).grid? 0 = some D := rfl
    simp [State.regsOf, hg, this, hD]
  have hwg : (mach H D W gs ws).wg? 0 = some W := rfl
  have hs : (mach H D W gs ws).stopped (partOfVnum 0) = false := rfl
  have hpay : (mach H D W gs ws).pay 0 0 1 = some (paid (mach H D W gs ws)) := by
    have hk : (mach H D W gs ws).pkg = s0.pkg := rfl
    have hd : (mach H D W gs ws).periodsDue 0 = 0 := (by decide : s0.periodsDue 0 = 0)
    have hu : (mach H D W gs ws).catchUp 0 = mach H D W gs ws := by rw [State.catchUp, hd]; rfl
    have hb : (mach H D W gs ws).bucket 0 0 = s0.bucket 0 0 := rfl
    unfold State.pay State.payAs
    simp only [hk, hu, hb]
    rw [if_neg (by decide), if_neg (by decide), if_neg (by decide), if_neg (by decide)]
    rfl
  refine ⟨rfl, by rw [hr]; rfl, ?_, h.1.1.1, by decide, h.1.1.2, hn ▸ h.1.2, hn ▸ h.2, he, fun x => ?_, ?_⟩
  · simp only [State.laneReady, State.wgStage, hl, hp, hv, hwg, hs, Option.map_some, hW]
    decide
  · rw [ht] at x; cases x
  · rw [hc, hq, hv]; exact hpay

theorem turns_on {H : Gang} {m : Option Nat} {l : List (Instr × Use)} (k : Stands H) (h : l.all (mayIssue H m) = true) :
    ∀ e ∈ l, (on H).LaneTurn H r0 e.1 m e.2 (paid (on H)) := fun e he => turn_lane k rfl rfl (List.all_eq_true.mp h e he)

theorem stands_gRun : Stands gRun := ⟨⟨rfl, rfl, rfl, rfl, rfl, rfl⟩, rfl, rfl, rfl⟩

def l0 : State := on gRun
def p0 : State := paid l0
theorem turns_lane {l : List (Instr × Use)} (h : l.all (mayIssue gRun (some 0)) = true) :
    ∀ e ∈ l, l0.LaneTurn gRun r0 e.1 (some 0) e.2 p0 := turns_on stands_gRun h

def a1 : Src × Bool := (v 4, false)
def b1 : Src × Bool := (v 6, false)
def c1 : Src × Bool := (v 8, false)
def a2 : Src × Bool := (v 4, true)
def b2 : Src × Bool := (v 6, true)
def c2 : Src × Bool := (v 8, true)

/-- 32-bit, 8-bit and 64-bit types, and the widening form of each signedness. -/
theorem witness_IntegerArithmetic : ∀ e ∈ ([(.iadd w3, srcUse [a1, b1] (dv 2) false), (.isub { w3 with fn := 7 }, srcUse [a1, b1] (dv 2) false),
    (.imul { w3 with fn := 2 }, srcUse [a2, b2] (dv 2) true), (.imulh { w3 with fn := 3 }, srcUse [a2, b2] (dv 2) true),
    (.imad { wc with fn := 2 }, srcUse [a2, b2, c2] (dv 2) true), (.iabs { w1 with fn := 6 }, srcUse [a1] (dv 2) false),
    (.ineg { w1 with fn := 7 }, srcUse [a1] (dv 2) false), (.imin w3, srcUse [a1, b1] (dv 2) false), (.imax w3, srcUse [a1, b1] (dv 2) false),
    (.iclamp wc, srcUse [a1, b1, c1] (dv 2) false), (.imad { wc with fn := 8 }, srcUse [a1, b1, c2] (dv 2) true),
    (.imad { wc with fn := 9 }, srcUse [a1, b1, c2] (dv 2) true)] : List (Instr × Use)), l0.LaneTurn gRun r0 e.1 (some 0) e.2 p0 :=
  turns_lane (by decide)

theorem witness_LogicAndShift : ∀ e ∈ ([(.and { w3 with fn := 1 }, srcUse [a1, b1] (dv 2) false), (.or { w3 with fn := 9 }, srcUse [a1, b1] (dv 2) false),
    (.xor { w3 with fn := 3 }, srcUse [a2, b2] (dv 2) true), (.not { w1 with fn := 1 }, srcUse [a1] (dv 2) false),
    (.shl w3, srcUse [a1, b1] (dv 2) false), (.shr { w3 with fn := 2 }, srcUse [a2, b1] (dv 2) true), (.sra { w3 with fn := 6 }, srcUse [a1, b1] (dv 2) false),
    (.rot { w3 with fn := 8 }, srcUse [a1, b1] (dv 2) false), (.popc { w1 with fn := 3 }, srcUse [a2] (dv 2) false), (.clz { w1 with fn := 1 }, srcUse [a1] (dv 2) false),
    (.brev { w1 with fn := 1 }, srcUse [a1] (dv 2) false), (.bfx w3, srcUse [a1, b1] (dv 2) false), (.bfi { wc with fn := 3 }, srcUse [a2, b2, c1] (dv 2) true)] :
    List (Instr × Use)), l0.LaneTurn gRun r0 e.1 (some 0) e.2 p0 := turns_lane (by decide)

/-- With and without masks J and K, and every condition of ISET with two sources or one. -/
theorem witness_MaskedWords : ∀ e ∈ ([(.iaddc { w3 with fn := 1 }, srcUse [a1, b1] (dv 2) false),
    (.iaddc { w3 with fn := 1, aux := 63 }, { srcUse [a1, b1] (dv 2) false with mrd := [7], mwr := [7] }),
    (.iset { w3 with dst := nd, aux := 1 }, { srcUse [a1, b1] nd false with mwr := [1] }),
    (.iset { w3 with dst := nd, fn := 9 * 8 + 3, aux := 23 }, { srcUse [a2, b2] nd false with mwr := [7] }),
    (.iset { w3 with dst := nd, fn := 56, b := n0, aux := 15 }, { srcUse [a1] nd false with mwr := [7] }),
    (.sel { w3 with fn := 1 }, { srcUse [a1, b1] (dv 2) false with mrd := [0] }),
    (.sel { w3 with fn := 3, aux := 7 }, { srcUse [a2, b2] (dv 2) true with mrd := [7] })] : List (Instr × Use)),
    l0.LaneTurn gRun r0 e.1 (some 0) e.2 p0 := turns_lane (by decide)

/-- CVTI: same width, narrowing that keeps the rest of its destination, and narrowing from 64 bits. -/
theorem witness_MovesAddressesConversions : ∀ e ∈ ([(.movl { w1 with fn := 1 }, srcUse [a1] (dv 2) false), (.movl { w1 with fn := 3 }, srcUse [a2] (dv 2) true),
    (.lim ⟨0, dv 2, n0, n0, 5, 0, 0⟩, srcUse [] (dv 2) false), (.lim ⟨2, dv 2, n0, n0, 5, 0, 0⟩, srcUse [] (dv 2) true),
    (.lea w3, srcUse [a2, b1] (dv 2) true), (.lea { w3 with fn := 31 }, srcUse [a1, b1] (dv 2) false), (.lea64 { w3 with fn := 7 }, srcUse [a2, b2] (dv 2) true),
    (.cvti w1, srcUse [a1] (dv 2) false), (.cvti { w1 with fn := 6, aux := 3 }, srcUse [a1, (v 2, false)] (dv 2) false),
    (.cvti { w1 with fn := 16 }, srcUse [a2] (dv 2) false), (.idot4 { wc with fn := 7 }, srcUse [a1, b1, c1] (dv 2) false)] : List (Instr × Use)),
    l0.LaneTurn gRun r0 e.1 (some 0) e.2 p0 := turns_lane (by decide)

/-- Entry 0 is binary32 and entry 1 a 16-bit one, so each word meets its class and its opposite. -/
theorem witness_FloatArithmetic : (∀ e ∈ ([(.fadd w3, srcUse [a1, b1] (dv 2) false), (.fsub w3, srcUse [a1, b1] (dv 2) false), (.fmul w3, srcUse [a1, b1] (dv 2) false),
    (.ffma { wc with fn := 63 }, srcUse [a1, b1, c1] (dv 2) false), (.fmin w3, srcUse [a1, b1] (dv 2) false), (.fmax w3, srcUse [a1, b1] (dv 2) false),
    (.hadd2 { w3 with fmt := 1 }, srcUse [a1, b1] (dv 2) false), (.hmul2 { w3 with fmt := 1 }, srcUse [a1, b1] (dv 2) false),
    (.hfma2 { wc with fmt := 1 }, srcUse [a1, b1, c1] (dv 2) false), (.fdot2 { wc with fmt := 1 }, srcUse [a1, b1, c1] (dv 2) false),
    (.fadd { w3 with fmt := 1 }, srcUse [a1, b1] (dv 2) false), (.hadd2 w3, srcUse [a1, b1] (dv 2) false), (.fdot2 wc, srcUse [a1, b1, c1] (dv 2) false)] :
    List (Instr × Use)), l0.LaneTurn gRun r0 e.1 (some 0) e.2 p0)
    ∧ (gRun.fmt 0).s32 = true ∧ (gRun.fmt 0).s16 = false ∧ (gRun.fmt 1).s16 = true ∧ (gRun.fmt 1).s32 = false ∧ ((0 : Int) ≤ 0 ∧ (0 : Int) + 0 ≤ 0) :=
  ⟨turns_lane (by decide), by decide, by decide, by decide, by decide, by decide⟩

/-- The largest finite code, the least NaN above infinity, and infinity; the words. -/
theorem witness_FloatCompareConvert : (0x7F7FFFFF < 2 ^ 32 ∧ 0x7F7FFFFF / 2 ^ 23 % 2 ^ 8 ≠ 255
    ∧ (0x7F800001 / 2 ^ 23 % 2 ^ 8 = 255 ∧ 0x7F800001 % 2 ^ 23 ≠ 0) ∧ (0x7F800000 / 2 ^ 23 % 2 ^ 8 = 255 ∧ 0x7F800000 % 2 ^ 23 = 0))
    ∧ (∀ e ∈ ([(.fset { w3 with dst := nd, aux := 23, fn := 7 }, { srcUse [a1, b1] nd false with mwr := [7] }),
    (.fclass w1, srcUse [a1] (dv 2) false), (.frnd { w1 with fmt := 1 }, srcUse [a1] (dv 2) false), (.fcvt { w1 with aux := 1 }, srcUse [a1, (v 2, false)] (dv 2) false),
    (.fcvt { w1 with fmt := 1, aux := 16 }, srcUse [a1] (dv 2) false), (.fcvt { w1 with aux := 32 }, srcUse [a1] (dv 2) false),
    (.ftoi { w1 with fn := 3 }, srcUse [a1] (dv 2) true), (.ftoi w1, srcUse [a1] (dv 2) false), (.itof { w1 with fn := 2 }, srcUse [a2] (dv 2) false),
    (.itof { w1 with fn := 1 }, srcUse [a1] (dv 2) false), (.fset { w3 with dst := nd, aux := 1, fmt := 1 }, { srcUse [a1, b1] nd false with mwr := [1] }),
    (.fclass { w1 with fmt := 3 }, srcUse [a1] (dv 2) false), (.frnd { w1 with fmt := 3 }, srcUse [a1] (dv 2) false),
    (.ftoi { w1 with fmt := 1 }, srcUse [a1] (dv 2) false), (.itof { w1 with fmt := 1 }, srcUse [a1] (dv 2) false)] : List (Instr × Use)), l0.LaneTurn gRun r0 e.1 (some 0) e.2 p0)
    ∧ (gRun.fmt 0).s32 = true ∧ fcvtOk (gRun.fmt 1) (gRun.fmt 0) 1 = true ∧ fcvtOk (gRun.fmt 0) (gRun.fmt 0) 2 = false
    ∧ (gRun.fmt 1).s32 = false ∧ ((gRun.fmt 3).s32 || (gRun.fmt 3).s16) = false
    ∧ fcvtOk (gRun.fmt 0) (gRun.fmt 1) 0 = true ∧ (gRun.fmt 0).perLane < (gRun.fmt 1).perLane :=
  ⟨by decide, turns_lane (by decide), by decide, by decide, by decide, by decide, by decide, by decide, by decide⟩

/-- An argument of FEXP2 beyond its range and one within it; keys that differ in the sign of the argument. -/
theorem witness_SpecialFunctions : (∀ e ∈ ([(.frcp w1, srcUse [a1] (dv 2) false), (.frsq w1, srcUse [a1] (dv 2) false), (.fsqrt w1, srcUse [a1] (dv 2) false),
    (.fexp2 w1, srcUse [a1] (dv 2) false), (.flog2 w1, srcUse [a1] (dv 2) false), (.fsin w1, srcUse [a1] (dv 2) false), (.fcos w1, srcUse [a1] (dv 2) false),
    (.ftanh w1, srcUse [a1] (dv 2) false), (.fdivs w3, srcUse [a1, b1] (dv 2) false), (.fdivs { w3 with fmt := 1 }, srcUse [a1, b1] (dv 2) false)] : List (Instr × Use)),
    l0.LaneTurn gRun r0 e.1 (some 0) e.2 p0) ∧ (gRun.fmt 0).s32 = true ∧ (gRun.fmt 1).s32 = false
    ∧ Machine.Num.lt (.fin false 200 0) (.fin false 201 0) = true ∧ Machine.Num.lt (.fin false 200 0) (.fin false 200 0) = false
    ∧ Machine.Num.lt (.fin false 9 0) (.fin false 9 0) = false ∧ 12 / 8 = 8 / 8 ∧ 12 % 4 = 8 % 4 ∧ (-4 + (2 : Nat) : Int) % 2 = 0 :=
  ⟨turns_lane (by decide), by decide, by decide, by decide, by decide, by decide, by decide, by decide, by decide⟩

/-- Entry 3 has four 8-bit elements in a lane, entry 7 eight of four bits. -/
theorem witness_BlockScaling : (∀ e ∈ ([(.bmax { w1 with fmt := 3 }, { srcs := [(v 4, 4)], dsts := [(dv 2, 1)] }),
    (.bscl { w1 with fmt := 7, a := v 8 }, { srcs := [(v 8, 8)], dsts := [(dv 2, 1)] }), (.bqnt { w1 with fmt := 3 }, { srcs := [(v 4, 4)], dsts := [(dv 2, 1)] }),
    (.badd { w3 with fmt := 3 }, { srcs := [(v 4, 1), (v 6, 1)], dsts := [(dv 2, 1)] }), (.bmul { w3 with fmt := 7 }, { srcs := [(v 4, 1), (v 6, 1)], dsts := [(dv 2, 1)] }),
    (.bfma { wc with fmt := 3 }, { srcs := [(v 4, 1), (v 6, 1), (v 8, 1)], dsts := [(dv 2, 1)] }), (.brnm { w1 with fmt := 3 }, { srcs := [(v 4, 1)], dsts := [(dv 2, 1)] }),
    (.bcvt { w1 with fmt := 3, aux := 4 }, { srcs := [(v 4, 1)], dsts := [(dv 2, 1)] }),
    (.bdqt { w1 with fmt := 7, dst := dv 8 }, { srcs := [(v 4, 1)], dsts := [(dv 8, 8)] }),
    (.bsdot { wc with fmt := 3, aux := 4 }, { srcs := [(v 4, 1), (v 6, 1), (v 8, 1)], dsts := [(dv 2, 1)] })] : List (Instr × Use)),
    l0.LaneTurn gRun r0 e.1 (some 0) e.2 p0)
    ∧ (gRun.fmt 3).b = true ∧ (gRun.fmt 4).b = true ∧ (gRun.fmt 3).blkLane = 4 ∧ (gRun.fmt 4).blkLane = 4 ∧ (gRun.fmt 7).b = true ∧ (gRun.fmt 7).blkLane = 8
    ∧ (gRun.fmt 0).s32 = true ∧ (gRun.fmt 3).width ≠ 4 ∧ (gRun.fmt 7).width = 4 :=
  ⟨turns_lane (by decide), by decide, by decide, by decide, by decide, by decide, by decide, by decide, by decide, by decide⟩

/-! ## The Marver -/

/-- `gRun` with lane 0 selected by m0 and, in it, 0x4000 in v4, 8 in v6, 0x4000 in v8 and 1 in v10, each with a zero above. -/
def gMem : Gang := { gRun with m := [(0, 1)], lane := { gRun.lane with regs := [(4, ⟨0x4000, false, true⟩), (5, ⟨0, false, true⟩),
  (6, ⟨8, false, true⟩), (7, ⟨0, false, true⟩), (8, ⟨0x4000, false, true⟩), (9, ⟨0, false, true⟩), (10, ⟨1, false, true⟩),
  (11, ⟨0, false, true⟩)] } }

theorem stands_gMem : Stands gMem := ⟨⟨rfl, rfl, rfl, rfl, rfl, rfl⟩, rfl, rfl, rfl⟩

def one1 : Use := { srcs := [(v 4, 1)], dsts := [(dv 2, 1)], gated := true }

/-- A paired grid of two workgroups, the second workgroup's gang and an exchange that it has outstanding. -/
def dPair : Grid := { placedGrid with w := 2, coh := 1, cpair := true }
def gPeer (ps : List Pend) : Gang := { g0 with place := { g0.place with wg := 1, core := 1 }, pend := ps }
def xch (tag : BitVec 8) : Pend := { pend0 with kind := .xxch 0 false [] 0, cls := some .gx, dests := [], word := .xxch { wx with fn := tag } }
def sPair (ps : List Pend) : State :=
  mach gRun dPair placedWg [(1, gPeer ps)] [(1, { placedWg with num := 1, core := 1, gangs := [1] })]

/-- Under a mask register that is not empty and under one that is; for the exchange, in a grid without pairs, with a partner whose exchange
has not issued, with one that has, of the same tag and of another, and a completion of each. -/
theorem witness_CrossLaneMovesAndExchange :
    (∀ e ∈ ([(.xshf { wx with fn := 1, imm := 31 }, one1), (.xbcst { wx with imm := 31 }, one1), (.xgath { wx with b := v 6 },
        { srcs := [(v 4, 1), (v 6, 1)], dsts := [(dv 2, 1)], gated := true }), (.qswz { wx with imm := 255 }, one1), (.qbcst { wx with imm := 3 }, one1)] :
        List (Instr × Use)), l0.LaneTurn gRun r0 e.1 (some 0) e.2 p0)
    ∧ gRun.mreg 0 ≠ 0 ∧ gRun.full .gx = false ∧ l0.LaneTurn gRun r0 (.xshf { wx with msel := 1 }) (some 1) one1 p0 ∧ gRun.mreg 1 = 0
    ∧ (let u : Use := { one1 with mrd := [0] }
       l0.LaneTurn gRun r0 (.xxch wx) (some 0) u p0 ∧ placedGrid.cpair = false
       ∧ (∀ ps, (sPair ps).LaneTurn gRun r0 (.xxch wx) (some 0) u (paid (sPair ps))
          ∧ ((sPair ps).laneIn gRun r0 (some 0) u (paid (sPair ps))).wg? 0 = some placedWg
          ∧ ((sPair ps).laneIn gRun r0 (some 0) u (paid (sPair ps))).grid? 0 = some dPair
          ∧ ((sPair ps).laneIn gRun r0 (some 0) u (paid (sPair ps))).partner gRun 1 = some 1
          ∧ ((sPair ps).laneIn gRun r0 (some 0) u (paid (sPair ps))).gang? 1 = some (gPeer ps)) ∧ gRun.exchanges < 4
       ∧ (dPair.cpair = true ∧ dPair.coh ≠ 0 ∧ ((placedWg.num / dPair.coh) ^^^ 1) * dPair.coh + placedWg.num % dPair.coh < dPair.w)
       ∧ (gPeer []).exchange 0 = none ∧ (gPeer [xch 0]).exchange 0 = some (xch 0) ∧ (xch 0).tag = wx.fn.toNat
       ∧ (gPeer [xch 1]).exchange 0 = some (xch 1) ∧ (xch 1).tag ≠ wx.fn.toNat)
    ∧ (sPair [xch 0]).pend? 1 0 = some (xch 0) ∧ (xch 0).kind = .xxch 0 false [] 0 ∧ (xch 0).done = false
    ∧ (sPair [xch 0]).gang? 1 = some (gPeer [xch 0]) ∧ (xch 0).park = none
    ∧ ((sPair [xch 0]).part (partOfVnum (gPeer [xch 0]).vnum)).halted = false :=
  ⟨turns_lane (by decide), by decide, by decide, turn_lane stands_gRun rfl rfl (by decide), by decide,
    ⟨turn_lane stands_gRun rfl rfl (by decide), rfl,
      fun _ => ⟨turn_lane stands_gRun rfl rfl (by decide), rfl, rfl, rfl, rfl⟩, by decide, by decide, rfl, by decide, by decide, by decide, by decide⟩,
    by decide, rfl, rfl, rfl, rfl, by decide⟩

def pair1 (a : BitVec 8) : Use := { srcs := [(v a, 2)], gated := true }
def wSlot : Wg := { placedWg with slots := [(0, 0x4000)] }
def sSlot (H : Gang) : State := mach H placedGrid wSlot [] []
/-- The state in which a word of `gMem` takes its effect. -/
def qPat (s : State) (u : Use) : State := s.laneIn gMem r0 (some 0) u (paid s)
def uSdec : Use := { srcs := [(v 4, 2), (v 6, 1), (v 8, 2)], dsts := [(dv 2, 1), (dv 4, 2), (dv 8, 2)], gated := true }
def wSdec : LX := { wx with b := v 6, c := v 8 }

/-- XLDP at an aligned address and at 1; XPAT of a slot not bound, bound and loaded, and bound whose load is out; one lane that claims a word. -/
theorem witness_PatternsAndStreams :
    (gMem.mreg 0 ≠ 0 ∧ gMem.full .gx = false ∧ (on gMem).LaneTurn gMem r0 (.xldp { wx with dst := nd }) (some 0) (pair1 4) (paid (on gMem))
      ∧ (on gMem).LaneTurn gMem r0 (.xldp { wx with dst := nd, a := v 10 }) (some 0) (pair1 10) (paid (on gMem))
      ∧ (let x := mkIssue (on gMem) 0 gMem r0 (some 0)
         x.act = [0] ∧ (x.word 0 (v 4) true).1 = 0x4000 ∧ (x.word 0 (v 10) true).1 % 64 ≠ 0)
      ∧ (∀ es, ({ qPat (on gMem) (pair1 4) with nextId := (qPat (on gMem) (pair1 4)).nextId + 1 } : State).comesAfter gMem gMem.pend es = false)
      ∧ (∃ t e, (({ qPat (on gMem) (pair1 4) with nextId := (qPat (on gMem) (pair1 4)).nextId + 1 } : State).modWg 0 fun W => W.bind 0 0x4000 0).pattern 0 0 0x4000 ((on gMem).laneAgent gMem 0x2000 0) = (t, .ok e)))
    ∧ ((on gMem).LaneTurn gMem r0 (.xpat wx) (some 0) one1 (paid (on gMem)) ∧ (({ qPat (on gMem) one1 with nextId := (qPat (on gMem) one1).nextId + 1 } : State).binding 0 0 0).2 = none
      ∧ (sSlot gMem).LaneTurn gMem r0 (.xpat wx) (some 0) one1 (paid (sSlot gMem)) ∧ (({ qPat (sSlot gMem) one1 with nextId := (qPat (sSlot gMem) one1).nextId + 1 } : State).binding 0 0 0).2 = some 0x4000 ∧ wSlot.older = []
      ∧ (qPat (sSlot gMem) one1).slotPending 0 0 = false ∧ (∀ es, (qPat (sSlot gMem) one1).comesAfter gMem gMem.pend es = false)
      ∧ (∃ t e, (({ qPat (sSlot gMem) one1 with nextId := (qPat (sSlot gMem) one1).nextId + 1 } : State).binding 0 0 0).1.pattern 0 0 0x4000
          ((sSlot gMem).laneAgent gMem 0x2000 0) = (t, .ok e))
      ∧ (let H := { gMem with pend := [{ pend0 with kind := .xldp, dests := [], word := .xldp { wx with dst := nd } }] }
         (sSlot H).LaneTurn H r0 (.xpat wx) (some 0) one1 (paid (sSlot H)) ∧ (sSlot H).slotPending 0 0 = true))
    ∧ ((on gMem).LaneTurn gMem r0 (.sdec wSdec) (some 0) uSdec (paid (on gMem))
      ∧ (let x := mkIssue (on gMem) 0 gMem r0 (some 0)
         (∀ es, (qPat (on gMem) uSdec).comesAfter gMem gMem.pend es = false) ∧ ((x.cell 0 (v 4) 1).val.toNat % 64 < (x.cell 0 (v 6) 0).val.toNat % 64) ∧ (x.word 0 (v 8) true).1 / 4 * 4 = 0x4000)
      ∧ (({ qPat (on gMem) uSdec with nextId := (qPat (on gMem) uSdec).nextId + 1 } : State).streamWords gMem ((on gMem).laneAgent gMem 0x2000 0) 1 0x4000).2 = ([], [(0, false)])) :=
  ⟨⟨by decide, by decide, turn_lane stands_gMem rfl rfl (by decide), turn_lane stands_gMem rfl rfl (by decide), by decide, fun _ => rfl,
      ok_of _ (by decide +kernel)⟩,
    ⟨turn_lane stands_gMem rfl rfl (by decide), by decide, turn_lane stands_gMem rfl rfl (by decide), by decide, rfl, by decide, fun _ => rfl,
      ok_of _ (by decide +kernel), turn_lane stands_gMem rfl rfl (by decide), by decide⟩,
    turn_lane stands_gMem rfl rfl (by decide), ⟨fun _ => rfl, by decide⟩, by decide +kernel⟩

def two1 : Use := { srcs := [(v 4, 1), (v 6, 1)], dsts := [(dv 2, 2)], gated := true }

/-- With a destination and mask J, with one of them alone; every segment; the smallest and largest counts. -/
theorem witness_VotesScansRanks :
    (∀ e ∈ ([(.vbal { wx with imm := 7 }, { one1 with mwr := [7] }), (.vany wx, one1), (.vall { wx with dst := nd, imm := 1 },
        { one1 with dsts := [], mwr := [1] }), (.xscan { wx with fn := 65, imm := 3 }, one1), (.topk { wx with b := v 6, imm := 1 }, two1),
        (.topk { wx with b := v 6, fn := 6, imm := 32 }, two1), (.xsort { wx with b := v 6, imm := 192 }, two1)] : List (Instr × Use)),
      l0.LaneTurn gRun r0 e.1 (some 0) e.2 p0)
    ∧ gRun.mreg 0 ≠ 0 ∧ gRun.full .gx = false
    ∧ ((0x7F800000 / 2 ^ 23 % 256 = 255 ∧ ¬0x7F800000 % 2 ^ 23 ≠ 0) ∧ (0x7F800001 / 2 ^ 23 % 256 = 255 ∧ 0x7F800001 % 2 ^ 23 ≠ 0)) :=
  ⟨turns_lane (by decide), by decide, by decide, by decide⟩

/-! ## Memory words, at 0x4000 and in lane 0 -/

theorem lanes_one {α : Type} (one : State → Nat → State × Except FaultInfo α) (q : State)
    (h : (one q 0).2.toOption.isSome = true) : ∃ t out, LanesOk one q [0] t out := by
  obtain ⟨u, x, e⟩ := ok_of _ h
  exact ⟨u, fun _ => x, u, e, rfl⟩

/-- `gMem` in a grid with scratch. -/
def sMem : State := mach gMem { placedGrid with scr := 64 } placedWg [] []
def xMem : Issue := mkIssue sMem 0 gMem r0 (some 0)
def agMem : Agent := sMem.laneAgent gMem 0x2000 0

/-- A memory word's turn on `gMem`. -/
theorem turn_mem {i : Instr} {f : LM} {u : Use} {c : Cnt} (h : mayIssue gMem (some f.msel.toNat) (i, u) = true) (hm : f.msel = 0)
    (hc : gMem.full c = false) : sMem.MemTurn gMem r0 i f u c (paid sMem) :=
  ⟨turn_lane stands_gMem rfl rfl h, by rw [hm]; decide, hc, fun _ => rfl, fun _ => rfl⟩

def uLd (n : Nat) : Use := { srcs := [(v 4, 2)], dsts := [(dv 2, n)], gated := true }
def uSt (a n : Nat) : Use := { srcs := [(v 4, a), (v 6, n)], dsts := [], gated := true }
def memIn0 (f : LM) (u : Use) : State := sMem.memIn gMem r0 f u (paid sMem) [0x4000]

theorem act_mem : xMem.act = [0] ∧ xMem.laneAddr wm 0 = 0x4000 := by decide

/-- The access of `n` bytes at 0x4000 is legal, whatever it is. -/
theorem legal_mem (u : Use) (acc n : Nat) (w : Bool) (h : (sMem.addressFault gMem acc 0x4000 n n w).isNone = true) :
    (sMem.laneIn gMem r0 (some 0) u (paid sMem)).addressFault gMem acc 0x4000 n n w = none := Option.isNone_iff_eq_none.mp h

theorem witness_ElementLoads :
    xMem.act = [0] ∧ xMem.laneAddr wm 0 = 0x4000
    ∧ (sMem.MemTurn gMem r0 (.ldg wm) wm (uLd 1) .ld (paid sMem)
      ∧ (sMem.laneIn gMem r0 (some 0) (uLd 1) (paid sMem)).addressFault gMem 0 0x4000 4 4 true = none
      ∧ ∃ t out, LanesOk (fun v l => v.lsLoad gMem agMem (v.far gMem 0) 0 (xMem.laneAddr wm l) 4) (memIn0 wm (uLd 1)) [0] t out)
    ∧ (sMem.MemTurn gMem r0 (.ldc wm) wm (uLd 1) .ld (paid sMem)
      ∧ (sMem.laneIn gMem r0 (some 0) (uLd 1) (paid sMem)).addressFault gMem 0 0x4000 4 4 false = none
      ∧ ∃ t out, LanesOk (fun v l => match v.pathRead (.const 0) 0 0 (xMem.laneAddr wm l) 4 with
          | (v, .error e) => (v, .error e)
          | (v, .ok d) => (v.metData 0 d agMem, .ok d)) (memIn0 wm (uLd 1)) [0] t out)
    ∧ (let f := { wm with a := v 5 }
       let u : Use := { srcs := [(v 5, 1)], dsts := [(dv 2, 1)], gated := true }
       sMem.MemTurn gMem r0 (.lds f) f u .ld (paid sMem) ∧ ((xMem.word 0 (v 5) false).1 : Int) + f.off.toInt = 0
       ∧ (sMem.laneIn gMem r0 (some 0) u (paid sMem)).scratchOk gMem 0 4 = true) := by
  refine ⟨act_mem.1, act_mem.2, ⟨turn_mem (by decide) rfl (by decide), legal_mem _ _ _ _ (by decide), lanes_one _ _ (by decide +kernel)⟩,
    ⟨turn_mem (by decide) rfl (by decide), legal_mem _ _ _ _ (by decide), lanes_one _ _ (by decide +kernel)⟩,
    turn_mem (by decide) rfl (by decide), by decide, by decide⟩

/-- Lane 0's store of its v6, 8, at an address. -/
def storeAt (a : Nat) (v : State) (_ : Nat) : State × Except FaultInfo Unit :=
  match storeLane v 0 gMem (v.far gMem 0) 0 [(toBytes 4 8, false)] a with
  | (v, some e) => (v, .error e)
  | (v, none) => (v, .ok ())

theorem witness_ElementStores :
    xMem.act = [0] ∧ xMem.laneAddr wm 0 = 0x4000
    ∧ (∀ i ∈ [Instr.stg ws, .cstore ws], sMem.MemTurn gMem r0 i ws (uSt 2 1) .st (paid sMem))
    ∧ (sMem.laneIn gMem r0 (some 0) (uSt 2 1) (paid sMem)).addressFault gMem 1 0x4000 4 4 true = none
    ∧ (∃ t, LanesOk (storeAt 0x4000) (memIn0 ws (uSt 2 1)) [0] t (fun _ => ()))
    ∧ ((∀ l ∈ [0], ∀ j < 4, inWindow (windowBase + j) = true) ∧ ∃ t, LanesOk (storeAt windowBase) (memIn0 ws (uSt 2 1)) [0] t (fun _ => ()))
    ∧ (let f := { ws with a := v 5 }
       let u : Use := { srcs := [(v 5, 1), (v 6, 1)], dsts := [], gated := true }
       sMem.MemTurn gMem r0 (.sts f) f u .st (paid sMem) ∧ (sMem.laneIn gMem r0 (some 0) u (paid sMem)).scratchOk gMem 0 4 = true) := by
  refine ⟨act_mem.1, act_mem.2, ?_, legal_mem _ _ _ _ (by decide), ?_, ⟨by decide, ?_⟩, turn_mem (by decide) rfl (by decide), by decide⟩
  · intro i hi
    simp only [List.mem_cons, List.not_mem_nil, or_false] at hi
    obtain rfl | rfl := hi <;> exact turn_mem (by decide) rfl (by decide)
  · obtain ⟨t, _, w, e, ht⟩ := lanes_one (storeAt 0x4000) (memIn0 ws (uSt 2 1)) (by decide +kernel)
    exact ⟨t, w, e, ht⟩
  · obtain ⟨t, _, w, e, ht⟩ := lanes_one (storeAt windowBase) (memIn0 ws (uSt 2 1)) (by decide +kernel)
    exact ⟨t, w, e, ht⟩

/-- Entry 3 is an 8-bit block entry, entry 5 a 6-bit one, entry 0 none. -/
theorem witness_LineWords :
    xMem.act = [0] ∧ xMem.laneAddr wm 0 = 0x4000
    ∧ sMem.MemTurn gMem r0 (.ldl wm) wm (uLd 2) .ld (paid sMem)
    ∧ (∀ f ∈ [{ wm with width := 3 }, { wm with width := 5 }], sMem.MemTurn gMem r0 (.ldb f) f (uLd 2) .ld (paid sMem))
    ∧ (∀ f ∈ [{ ws with width := 3 }, { ws with width := 5 }], sMem.MemTurn gMem r0 (.stb f) f (uSt 2 2) .st (paid sMem))
    ∧ sMem.LaneTurn gMem r0 (.ldb { wm with width := 3, fn := 1 }) (some 0) (uLd 1) (paid sMem)
    ∧ sMem.LaneTurn gMem r0 (.stb { ws with width := 0 }) (some 0) (uSt 2 2) (paid sMem)
    ∧ (gMem.fmt 3).b = true ∧ (gMem.fmt 5).b = true ∧ (gMem.fmt 5).width = 6 ∧ (gMem.fmt 0).b = false ∧ (gMem.fmt 3).width ≠ 6
    ∧ inWindow 0x4000 = false ∧ (sMem.addressFault gMem 0 0x4000 256 256 true).isNone = true ∧ (sMem.addressFault gMem 1 0x4000 256 256 true).isNone = true
    ∧ ((memIn0 wm (uLd 2)).loadLines gMem agMem ((memIn0 wm (uLd 2)).far gMem 0) 0 1 0x4000).2.1 = []
    ∧ (∃ t d, (memIn0 wm (uLd 2)).loadLine gMem agMem ((memIn0 wm (uLd 2)).far gMem 0) 0 0x4000 = (t, .ok d))
    ∧ (∃ t, storeLines (memIn0 ws (uSt 2 2)) 0 gMem ((memIn0 ws (uSt 2 2)).far gMem 0) 0
        ((List.range 2).flatMap fun h => [(0x4000 + 4 * (32 * h), toBytes 4 8, false)]) = (t, none)) := by
  refine ⟨act_mem.1, act_mem.2, turn_mem (by decide) rfl (by decide), ?_, ?_, turn_lane stands_gMem rfl rfl (by decide),
    turn_lane stands_gMem rfl rfl (by decide), by decide, by decide, by decide, by decide, by decide, by decide, by decide, by decide, by decide +kernel,
    ok_of _ (by decide +kernel), none_of _ (by decide +kernel)⟩
  · intro f hf
    simp only [List.mem_cons, List.not_mem_nil, or_false] at hf
    obtain rfl | rfl := hf <;> exact turn_mem (by decide) rfl (by decide)
  · intro f hf
    simp only [List.mem_cons, List.not_mem_nil, or_false] at hf
    obtain rfl | rfl := hf <;> exact turn_mem (by decide) rfl (by decide)

/-- A word that adds, one of the last operation, the four cell words and a prefetch; and an access at home of each kind. -/
theorem witness_AtomicWords :
    xMem.act = [0] ∧ xMem.laneAddr wm 0 = 0x4000 ∧ inWindow 0x4000 = false
    ∧ (let f := { wm with b := v 6 }
       sMem.MemTurn gMem r0 (.atom f) f { srcs := [(v 4, 2), (v 6, 1)], dsts := [(dv 2, 1)], gated := true } .ld (paid sMem))
    ∧ (let f := { ws with fn := 12 }
       sMem.MemTurn gMem r0 (.redg f) f (uSt 2 1) .st (paid sMem))
    ∧ sMem.MemTurn gMem r0 (.atomxAdd ws) ws (uSt 2 1) .st (paid sMem)
    ∧ (let f := { ws with fn := 3, b := n0 }
       sMem.MemTurn gMem r0 (.atomxClr f) f { srcs := [(v 4, 2)], dsts := [], gated := true } .st (paid sMem))
    ∧ (let f := { wm with fn := 1 }
       sMem.MemTurn gMem r0 (.atomxRd f) f (uLd 1) .ld (paid sMem))
    ∧ (let f := { wm with fn := 50 }
       sMem.MemTurn gMem r0 (.atomxRdclr f) f (uLd 1) .ld (paid sMem))
    ∧ sMem.LaneTurn gMem r0 (.pref { wm with dst := nd, width := 0 }) (some 0) { srcs := [(v 4, 2)], gated := true } (paid sMem)
    ∧ (∀ n ∈ [4, 8, 64], (sMem.addressFault gMem 2 0x4000 n n false).isNone = true ∧ (sMem.addressFault gMem 1 0x4000 n n false).isNone = true)
    ∧ (∃ t pa, (memIn0 ws (uSt 2 1)).atHome 0 0 .write false 0x4000 = (t, .ok pa)) ∧ (∃ t pa, (memIn0 wm (uLd 1)).atHome 0 0 .rmw false 0x4000 = (t, .ok pa)) := by
  refine ⟨act_mem.1, act_mem.2, by decide, turn_mem (by decide) rfl (by decide), turn_mem (by decide) rfl (by decide), turn_mem (by decide) rfl (by decide),
    turn_mem (by decide) rfl (by decide), turn_mem (by decide) rfl (by decide), turn_mem (by decide) rfl (by decide),
    turn_lane stands_gMem rfl rfl (by decide), by decide, ok_of _ (by decide +kernel), ok_of _ (by decide +kernel)⟩

/-! ## Matrix and tile words -/

/-- A matrix gang, convened or not, in a grid with 96 tile slots. -/
def dTile : Grid := { placedGrid with tiles := 96 }
def gMat (conv : Bool) : Gang := { gRun with place := { g0.place with role := 2 }, eng := { g0.eng with conv := conv } }
def sMat (conv : Bool) : State := mach (gMat conv) dTile placedWg [] []
theorem stands_gMat (conv : Bool) : Stands (gMat conv) := ⟨⟨rfl, rfl, rfl, rfl, rfl, rfl⟩, rfl, rfl, rfl⟩

def mA : LT := { wt with zB := 16, fmt := 3, aux := 3 }
def mS : LT := { mA with spat := 1, fn := 2 }
def uA : Use := { srcs := [(⟨false, .v, 0⟩, 16)], gated := true, trap := false }

/-- A contribution of gang `g` with word `i`, a member of a set of four gangs, and the workgroup that holds the four. -/
def con (g : Nat) (i : Instr) : Contrib := ⟨g, 0, i, [], [], [], 0, 1, 0, 0, 0, 0⟩
def gSet (k : Nat) : Gang := { gMat true with place := { g0.place with role := 2, gidx := k } }
def wSet (cs : List Contrib) : Wg := { placedWg with gangs := [0, 1, 2, 3], contrib := [(0, cs)] }
def sSet (cs : List Contrib) : State := mach (gSet 0) dTile (wSet cs) [(1, gSet 1), (2, gSet 2), (3, gSet 3)] []
def four (i j : Instr) : List Contrib := [con 0 i, con 1 i, con 2 i, con 3 j]

/-- Both states of the convened flag; operands that touch without overlapping; sets of three, of four that agree and of four that do not. -/
theorem witness_MatrixContributions :
    (∀ b, (sMat b).LaneTurn (gMat b) r0 (.mconv wt) (some 0) { gated := true } (paid (sMat b))
      ∧ (sMat b).LaneTurn (gMat b) r0 (.mconvDis { wt with fn := 1 }) (some 0) { gated := true } (paid (sMat b)) ∧ (gMat b).eng.conv = b
      ∧ (sMat b).LaneTurn (gMat b) r0 (.mma mA) (some 0) uA (paid (sMat b)) ∧ (sMat b).LaneTurn (gMat b) r0 (.mmas mS) (some 0) uA (paid (sMat b))
      ∧ (sMat b).LaneTurn (gMat b) r0 (.gmma { mA with zB := 0 }) (some 0) uA (paid (sMat b)))
    ∧ placedWg.unaccepted 0 = false ∧ denseK (g0.fmt 3) (g0.fmt 3) ≠ 0 ∧ (g0.fmt 3).b = true ∧ (sMat true).tiles (gMat true) = 96
    ∧ (mA.zD.toNat + 16 ≤ mA.zB.toNat ∧ mA.zB.toNat + 2 ≤ 96) ∧ (gMat true).full .tl = false ∧ (gMat true).contributions < 4
    ∧ (∀ i f, (sMat true).tableAfter (gMat true) i f = false)
    ∧ (∀ cs, (sSet cs).wg? 0 = some (wSet cs) ∧ SMap.getD 0 [] (wSet cs).contrib = cs ∧ SMap.find? 0 (wSet cs).latches = none
      ∧ (∀ g ∈ [0, 1, 2, 3], (sSet cs).gang? g = some (gSet g))) ∧ (gSet 0).place.gidx < (gSet 1).place.gidx ∧ (gSet 2).place.gidx < (gSet 3).place.gidx
    ∧ (four (.mma mA) (.mma { mA with vA := 16 })).length = 4 ∧ sharedFields { mA with vA := 16 } = sharedFields mA
    ∧ sharedFields { mA with zD := 1 } ≠ sharedFields mA ∧ laneOp (.mmas mS) ≠ laneOp (.mma mA) := by
  refine ⟨fun b => ?_, by decide, by decide, by decide, by decide, by decide, by decide, by decide, fun i _ => by cases i <;> rfl, fun cs => ⟨rfl, rfl, rfl, ?_⟩,
    by decide, by decide, by decide, by decide, by decide, by decide⟩
  · cases b <;> exact ⟨turn_lane (stands_gMat _) rfl rfl (by decide), turn_lane (stands_gMat _) rfl rfl (by decide), rfl,
      turn_lane (stands_gMat _) rfl rfl (by decide), turn_lane (stands_gMat _) rfl rfl (by decide), turn_lane (stands_gMat _) rfl rfl (by decide)⟩
  · intro g hg
    simp only [List.mem_cons, List.not_mem_nil, or_false] at hg
    obtain rfl | rfl | rfl | rfl := hg <;> rfl

/-- The set of four in a grid with 128 KB of scratch, with GMMA's operands and a latch of MMA's form. -/
def mG : LT := { mA with zD := 16, zB := 0 }
def sScr (cs : List Contrib) (ls : SMap Latch) : State :=
  mach (gSet 0) { dTile with scr := 2 } { wSet cs with latches := ls } [(1, gSet 1), (2, gSet 2), (3, gSet 3)] []

/-- Contributions that came out of order, with lanes and without; a latch that fits and one that does not; metadata and a table that are legal, that
are misaligned, and that lie outside scratch. -/
theorem witness_MatrixAcceptance :
    (∀ i : Instr, [con 0 i, con 1 i, con 2 i, con 3 i].Perm [con 1 i, con 0 i, con 2 i, con 3 i] ∧ (con 0 i).lanes = 1
      ∧ ({ con 0 i with lanes := 0 } : Contrib).lanes = 0)
    ∧ (∀ cs ls, (sScr cs ls).wg? 0 = some { wSet cs with latches := ls } ∧ (sScr cs ls).gang? 0 = some (gSet 0))
    ∧ SMap.find? 0 ([(0, ⟨3, 0, [], []⟩)] : SMap Latch) = some ⟨3, 0, [], []⟩ ∧ (3 = mA.fmt.toNat ∧ 0 = mA.spat.toNat ∧ 1 ≠ mA.spat.toNat)
    ∧ ltOf (.mmas mS) = mS ∧ mS.fn = 2 ∧ ltOf (.gmma mG) = mG ∧ 128 * 16 ≠ 0 ∧ 4 * (mG.aux.toNat / 16 % 16 + 1) ≠ 0
    ∧ (con 0 (.mmas mS)).sS % 256 = 0 ∧ (sScr [] []).scratchOk (gSet 0) 0 2048 = true ∧ (sScr [] []).scratchOk (gSet 0) 0x20000 2048 = false ∧ 1 % 64 ≠ 0
    ∧ (let entry := ofBytes (((sScr [] []).scratchRead (gSet 0) 0 4).bytes.take 4)
       entry / 2 ^ 23 = 0 ∧ entry / 2 ^ 16 % 128 % 2 = 0 ∧ entry / 2 ^ 16 % 128 + 1 < (sScr [] []).tiles (gSet 0)
       ∧ entry / 2 ^ 16 % 128 + 2 ≤ mG.zD.toNat ∧ ¬(entry / 2 ^ 16 % 128 + 2 ≤ mA.zD.toNat)) :=
  ⟨fun i => ⟨.swap _ _ _, rfl, rfl⟩, fun _ _ => ⟨rfl, rfl⟩, rfl, by decide, rfl, rfl, rfl, by decide, by decide, by decide, by decide, by decide,
    by decide, by decide⟩

def op0 (started : Option Nat) : MatOp := ⟨0, 0, 0, four (.mma mA) (.mma mA), [], [], [(0, 128, 16)], [], started⟩

/-- An operation behind one that has started, and one that retires; and a dense word of entry 3. -/
theorem witness_MatrixOperations :
    (let s : State := { s0 with twins := [(0, [op0 (some 5), op0 none])] }
     SMap.getD 0 [] s.twins = [op0 (some 5)] ++ op0 none :: [] ∧ (op0 (some 5)).started ≠ none ∧ (op0 none).started = none
     ∧ (Instr.matrixOperationDispatch 0).wf = true ∧ s.wg? (op0 none).wg = some placedWg ∧ s.stopped (0 / 18) = false
     ∧ s.slotsFree 0 (op0 none) = true ∧ s.arrayStopped 0 = false)
    ∧ (({ sMat true with wgs := [(0, { placedWg with busy := [⟨16, true, 7, 0, 0⟩] })], twins := [(0, [op0 none])] } : State).slotsFree 0 (op0 none)) = false
    ∧ (op0 none).contribs = con 0 (.mma mA) :: (op0 none).contribs.tail ∧ mA.spat = 0 ∧ (0 < 128 ∧ 127 < 128)
    ∧ (∀ q < 32, q < 32 * 2 / 2 ∧ 4 * (q / 2) + 3 < 32 * 4 / 2 ∧ 4 * q + 3 < 32 * 8 / 2) ∧ (s0.gang? (con 0 (.mmas mS)).gang).isSome = true
    ∧ ((op0 none).groups.Pairwise fun g h => g.2.1 ≤ h.1) ∧ (∀ g ∈ (op0 none).groups, g.2.1 ≤ 128) ∧ mA.zD.toNat + 16 ≤ 96 := by
  refine ⟨⟨rfl, by decide, rfl, rfl, rfl, rfl, by decide, rfl⟩, by decide, rfl, rfl, by decide, by decide, rfl, by decide, by decide, by decide⟩

def gTile : Gang := { gRun with s := [(4, 0x4000)] }
def sTile (busy : List TileUse) : State := mach gTile dTile { placedWg with busy := busy } [] []
theorem stands_gTile : Stands gTile := ⟨⟨rfl, rfl, rfl, rfl, rfl, rfl⟩, rfl, rfl, rfl⟩

/-- What is left of a run over lanes or lines, if none of them fails. -/
def lanesRun (one : State → Nat → State × Except FaultInfo Unit) : State → List Nat → Option State
  | v, [] => some v
  | v, l :: ls => match one v l with
    | (w, .ok _) => lanesRun one w ls
    | (_, .error _) => none

theorem lanes_run {one : State → Nat → State × Except FaultInfo Unit} (ls : List Nat) (v : State) (h : (lanesRun one v ls).isSome = true) :
    ∃ t, LanesOk one v ls t fun _ => () := by
  induction ls generalizing v with
  | nil => exact ⟨v, rfl⟩
  | cons l ls ih =>
    unfold lanesRun at h
    split at h
    · obtain ⟨t, ht⟩ := ih _ h
      exact ⟨t, _, by assumption, ht⟩
    · cases h

def uTile : Use := { gated := true }

/-- The state in which a tile word's lines are moved. -/
def begunTile : State :=
  let q := (sTile []).laneIn gTile r0 (some 0) uTile (paid (sTile []))
  { q with nextId := q.nextId + 1 }

def loadOne (v : State) (i : Nat) : State × Except FaultInfo Unit :=
  match v.tileRead 0 0 (0x4000 + 256 * i) with
  | (v, .error e) => (v, .error e)
  | (v, .ok l) =>
    let v := if l.bad = 0 then v else v.uncorrectable 0 (v.lineStruct l) l.pa (v.laneAgent gTile 0x2000 0)
    let v := if l.scBad then v.uncorrectable 0 11 l.pa (v.laneAgent gTile 0x2000 0) else v
    (v.modWg 0 fun W => W.putLine 0 (0 + i / 16) (i % 16) l, .ok ())

def saveOne (v : State) (i : Nat) : State × Except FaultInfo Unit :=
  let l := placedWg.getLine 0 (0 + i / 16) (i % 16)
  match v.tileWrite 0 0 (0x4000 + 256 * i) l with
  | (v, some e) => (v, .error e)
  | (v, none) =>
    let v := v.spoilSpills 0 gTile (0x4000 + 256 * i) 256
    (if l.bad = 0 then v else v.metTiles 0 (v.laneAgent gTile 0x2000 0) [0 + i / 16], .ok ())


/-- A TZERO of slot 0 that is outstanding with lanes `n` left, and its use of the slot. -/
def tilePend (n : Nat) : Pend := { pend0 with kind := .tile, cls := some .tl, dests := [], word := .tzero wt, todo := n }
def gTill (n : Nat) : Gang := { gTile with pend := [tilePend n] }
def sTill (n : Nat) : State := { mach (gTill n) dTile { placedWg with busy := [⟨0, true, 0, 0, 0⟩] } [] [] with now := 1 }

theorem ripe_tile (n : Nat) : (sTill n).ripe 0 0 = some (gTill n, tilePend n) := by
  have hg : (sTill n).gang? 0 = some (gTill n) := rfl
  have hp : (sTill n).pend? 0 0 = some (tilePend n) := rfl
  have hv : (gTill n).vnum = 0 := rfl
  have hh : ((sTill n).part 0).halted = false := rfl
  have h0 : partOfVnum 0 = 0 := rfl
  simp [State.ripe, hg, hp, hv, h0, hh, tilePend, pend0]

/-- Slot 0 free and in use; the last slot that exists and the first that does not; one slot loaded and one saved. -/
theorem witness_TileWords :
    gTile.mreg 0 ≠ 0 ∧ (∀ b, (sTile b).LaneTurn gTile r0 (.tzero wt) (some 0) uTile (paid (sTile b))
      ∧ (sTile b).LaneTurn gTile r0 (.tzero { wt with zD := 95, aux := 0x10 }) (some 0) uTile (paid (sTile b))
      ∧ (sTile b).LaneTurn gTile r0 (.tld { wt with sS := 4 }) (some 0) uTile (paid (sTile b))
      ∧ (sTile b).LaneTurn gTile r0 (.tst { wt with sS := 4 }) (some 0) uTile (paid (sTile b))
      ∧ (sTile b).LaneTurn gTile r0 (.trd { wt with fn := 9, fmt := 3 }) (some 0) { uTile with dsts := [(dv 0, 2)] } (paid (sTile b))
      ∧ (sTile b).LaneTurn gTile r0 (.twr { wt with fn := 9, fmt := 3 }) (some 0) { uTile with srcs := [(v 0, 2)] } (paid (sTile b))
      ∧ ((sTile b).laneIn gTile r0 (some 0) uTile (paid (sTile b))).wg? 0 = some { placedWg with busy := b }
      ∧ ((sTile b).laneIn gTile r0 (some 0) uTile (paid (sTile b))).tiles gTile = 96)
    ∧ (0 + 1 ≤ 96 ∧ 96 < 95 + 2) ∧ ({ placedWg with busy := [⟨0, true, 7, 0, 0⟩] } : Wg).slotWaits 7 1 true (slotKeys 0 0 1) = false
    ∧ ({ placedWg with busy := [⟨0, true, 7, 0, 0⟩] } : Wg).slotWaits 7 0 true (slotKeys 0 0 1) = true
    ∧ ({ placedWg with busy := [⟨0, true, 3, 0, 0⟩, ⟨0, true, 7, 0, 1⟩] } : Wg).slotWaits 7 1 true (slotKeys 0 0 1) = true
    ∧ ({ placedWg with busy := [⟨0, false, 3, 0, 0⟩, ⟨0, false, 7, 0, 1⟩] } : Wg).slotWaits 7 1 false (slotKeys 0 0 1) = false
    ∧ (∀ n, (sTill n).ripe 0 0 = some (gTill n, tilePend n) ∧ (tilePend n).kind = .tile ∧ (tilePend n).todo = n ∧ (tilePend n).park = none
      ∧ (sTill n).wg? (gTill n).place.wg = some { placedWg with busy := [⟨0, true, 0, 0, 0⟩] }
      ∧ (sTill n).now = 1 ∧ tileUse (gTill n) (tilePend n) = (true, [0])
      ∧ ({ placedWg with busy := [⟨0, true, 0, 0, 0⟩] } : Wg).slotWaits 0 1 true [0] = false
      ∧ ({ placedWg with busy := [⟨0, true, 3, 0, 0⟩, ⟨0, true, 0, 0, 0⟩] } : Wg).slotWaits 0 1 true [0] = true)
    ∧ (gTile.spair 4).toNat % 256 = 0 ∧ gTile.full .tl = false ∧ (gTile.fmt 3).b = true
    ∧ (∃ t, LanesOk loadOne begunTile (List.range 16) t fun _ => ()) ∧ (∃ t, LanesOk saveOne begunTile (List.range 16) t fun _ => ()) := by
  refine ⟨by decide, fun b => ⟨turn_lane stands_gTile rfl rfl (by decide), turn_lane stands_gTile rfl rfl (by decide),
    turn_lane stands_gTile rfl rfl (by decide), turn_lane stands_gTile rfl rfl (by decide), turn_lane stands_gTile rfl rfl (by decide),
    turn_lane stands_gTile rfl rfl (by decide), rfl, rfl⟩, by decide, by decide, by decide, by decide, by decide,
    fun _ => ⟨ripe_tile _, rfl, rfl, rfl, rfl, rfl, rfl, by decide, by decide⟩, by decide, by decide, by decide,
    lanes_run _ _ (by decide +kernel), lanes_run _ _ (by decide +kernel)⟩

/-- Entry 0 is binary32, entry 1 is not; one value is a NaN. -/
theorem witness_ReductionsAndProducts :
    (∀ e ∈ ([(.lmma { wc with fn := 3 }, { srcs := [(v 4, 32), (v 6, 1), (v 8, 1), (v 2, 1)], dsts := [(dv 2, 1)] }),
        (.lmma { wc with fmt := 1 }, { srcs := [(v 4, 4), (v 6, 1), (v 8, 1), (v 2, 1)], dsts := [(dv 2, 1)] }),
        (.xred w1, srcUse [a1] (dv 2) false), (.xred { w1 with fn := 7, rnd := 4 }, srcUse [a1] (dv 2) false)] : List (Instr × Use)),
      l0.LaneTurn gRun r0 e.1 (some 0) e.2 p0)
    ∧ (gRun.fmt 0).s32 = true ∧ (gRun.fmt 1).s32 = false ∧ [Machine.Num.nan].Perm [Machine.Num.nan] ∧ (∃ v ∈ [Machine.Num.nan], v.isNan = true) :=
  ⟨turns_lane (by decide), by decide, by decide, .refl _, _, .head _, rfl⟩

/-! ## Sprue and query words, runs, completions -/


/-- `gMem` on a machine whose virtual device 0 owns sprue 143, with a producer and a consumer bound to it. -/
def sSpr (b : Option Binder) : State :=
  ((on gMem).modPart 0 fun P => { P with sprues := [(143, 0)] }).modSprue 0 143 fun S => { S with producer := b, consumer := b }
def wPost : L3 := ⟨1, nd, v 4, v 6, n0, 0, 0, 0, false, false, 0, 0, 0, 143⟩
def wTake : L3 := ⟨0b111001, dv 2, n0, n0, n0, 0, 0, 0, false, false, 0, 0, 0, 143⟩
def uPost : Use := { srcs := [(v 4, 1), (v 6, 1)], gated := true }
def uTake : Use := { dsts := [(dv 2, 2)], mwr := takeMasksOf wTake, gated := true }
def qSpr (b : Option Binder) (u : Use) : State := (sSpr b).laneIn gMem r0 (some 0) u (paid (sSpr b))

/-- A gang with a post or a take of lane 0 outstanding, and its sprue with entries. -/
def gSpr (i : Instr) : Gang := { gMem with pend := [{ pend0 with kind := .sprue, cls := some .pl, dests := [], word := i, lanes := 1 }] }
def sHeld (i : Instr) (es : List (Word × Word × Bool × Bool)) : State := (on (gSpr i)).modSprue 0 143 fun S => { S with entries := es }

/-- No lane; a sprue that another virtual device has; one bound to nobody, to the gang and to a chain; the last entry that fits and the first that
does not; a take that ends at a mark and one that gets all it asks for. -/
theorem witness_SprueWords :
    (mkIssue (on gMem) 0 gMem r0 (some 0)).act = [0] ∧ (mkIssue (on gMem) 0 gMem r0 (some 1)).act = []
    ∧ (on gMem).LaneTurn gMem r0 (.qpost { wPost with msel := 1 }) (some 1) uPost (paid (on gMem))
    ∧ (on gMem).LaneTurn gMem r0 (.qpost wPost) (some 0) uPost (paid (on gMem)) ∧ (on gMem).LaneTurn gMem r0 (.qtake wTake) (some 0) uTake (paid (on gMem))
    ∧ SMap.find? 143 ((on gMem).part 0).sprues ≠ some 0 ∧ SMap.find? 143 ((sSpr none).part 0).sprues = some 0 ∧ gMem.full .pl = false
    ∧ (∀ b ∈ [none, some (Binder.gang 0 0), some (.chain 216 1)],
      (sSpr b).LaneTurn gMem r0 (.qpost wPost) (some 0) uPost (paid (sSpr b)) ∧ (sSpr b).LaneTurn gMem r0 (.qtake wTake) (some 0) uTake (paid (sSpr b)))
    ∧ (((qSpr none uPost).freeProducer 0 143).sprue 0 143).producer = none
    ∧ (((qSpr (some (.gang 0 0)) uPost).freeProducer 0 143).sprue 0 143).producer = some (.gang 0 0)
    ∧ (((qSpr (some (.chain 216 1)) uTake).freeProducer 0 143).sprue 0 143).consumer = some (.chain 216 1)
    ∧ (∀ i ∈ [Instr.qpost wPost, .qtake wTake], ∀ es, (sHeld i es).gang? 0 = some (gSpr i) ∧ ((sHeld i es).pend? 0 0).map Pend.word = some i
      ∧ (sHeld i es).stopped 0 = false ∧ (gSpr i).firstOnSprue { pend0 with kind := .sprue } 143 = true ∧ ((sHeld i es).sprue 0 143).entries = es
      ∧ ((sHeld i es).sprue 0 143).consumer = none)
    ∧ (sHeld (.qtake wTake) []).wgStage (gSpr (.qtake wTake)) = some .running
    ∧ setBits 1 = [0] ∧ (∀ (n : Nat) (e : Word), (n = 1023 → (List.replicate n e).length + 1 ≤ 1024) ∧ (n = 1024 → 1024 < (List.replicate n e).length + 1))
    ∧ (let e : Word × Word × Bool × Bool := (1, 2, true, false); [e][1 - 1]? = some e ∧ e.2.2.1 = true ∧ 1 ≤ (setBits 1).length)
    ∧ (let e : Word × Word × Bool × Bool := (1, 2, false, false); 1 ≤ [e].length ∧ ∀ x ∈ [e].take 1, x.2.2.1 = false) := by
  have turn : ∀ (b : Option Binder) (i : Instr) (u : Use), mayIssue gMem (some 0) (i, u) = true →
      (sSpr b).LaneTurn gMem r0 i (some 0) u (paid (sSpr b)) := by
    intro b i u h
    have t := turn_lane (D := placedGrid) (W := placedWg) (gs := []) (ws := []) stands_gMem rfl rfl h
    have hp : (sSpr b).pay 0 0 1 = some (paid (sSpr b)) := by
      have hk : (sSpr b).pkg = s0.pkg := rfl
      have hd : (sSpr b).periodsDue 0 = 0 := (by decide : s0.periodsDue 0 = 0)
      have hu : (sSpr b).catchUp 0 = sSpr b := by rw [State.catchUp, hd]; rfl
      have hb : (sSpr b).bucket 0 0 = s0.bucket 0 0 := rfl
      unfold State.pay State.payAs
      simp only [hk, hu, hb]
      rw [if_neg (by decide), if_neg (by decide), if_neg (by decide), if_neg (by decide)]
      rfl
    exact ⟨rfl, rfl, by have := t.ready; exact this, t.wf, t.more, t.role, t.alloc, t.free, t.sound, t.live, hp⟩
  refine ⟨by decide, by decide, turn_lane stands_gMem rfl rfl (by decide), turn_lane stands_gMem rfl rfl (by decide), turn_lane stands_gMem rfl rfl (by decide),
    by decide, by decide, by decide, fun b _ => ⟨turn b _ _ (by decide), turn b _ _ (by decide)⟩, by decide, by decide, by decide, ?_, rfl, by decide,
    fun n e => ⟨fun h => by rw [List.length_replicate]; omega, fun h => by rw [List.length_replicate]; omega⟩, by decide,
    Nat.le_refl 1, fun x h => by cases h with | head => rfl | tail _ h => cases h⟩
  intro i hi es
  simp only [List.mem_cons, List.not_mem_nil, or_false] at hi
  obtain rfl | rfl := hi <;> exact ⟨rfl, rfl, rfl, rfl, rfl, rfl⟩

/-- A take of lanes 0 and 4 that gets one entry. -/
theorem witness_Taken :
    (let keys := fun l => ([(l * 1024 + 2, ⟨0, false, true⟩), (l * 1024 + 3, ⟨0, false, true⟩)] : List (Nat × Cell))
     let k : Pend := { pend0 with lanes := 17, results := [0, 4].flatMap keys }
     setBits k.lanes = [0, 4] ∧ k.results = (setBits k.lanes).flatMap keys ∧ ([(1, 2, true, false)] : List (Word × Word × Bool × Bool)).length ≤ 2
     ∧ (∀ l, (keys l).length = 2) ∧ ∀ l ∈ [0, 4], ∀ c ∈ keys l, c.1 / 1024 = l) := by
  refine ⟨by decide, by decide, by decide, fun _ => rfl, by decide⟩

/-- A gang with an open query handle 0, with entries out, ended or not. -/
def hdl (out : List (Word × Word × Bool × Bool)) (st : Option Word) : Handle := ⟨216, 1, false, [], out, false, st⟩
def gHdl (h : Handle) : Gang := { gMem with eng := { g0.eng with handles := [(0, h)] } }
theorem stands_gHdl (h : Handle) : Stands (gHdl h) := ⟨⟨rfl, rfl, rfl, rfl, rfl, rfl⟩, rfl, rfl, rfl⟩
def wQ : L3 := ⟨0, nd, v 4, n0, n0, 0, 0, 0, false, false, 0, 0, 0, 0⟩
def wN : L3 := ⟨1, dv 2, n0, n0, n0, 0, 0, 0, false, false, 0, 0, 0, 0⟩
def wC : L3 := ⟨0, dv 2, n0, n0, n0, 0, 0, 0, false, false, 0, 0, 0, 0⟩
def uN : Use := { dsts := [(dv 2, 2)], mwr := takeMasksOf wN, gated := true }
def ent (mark : Bool) : Word × Word × Bool × Bool := (1, 2, mark, false)

/-- Handle 0 open and not open; a descriptor at 0x4000 and at 1; a fusion queue with room; entries that fill the take, that end at a mark, and
that a chain which ended left; a chain that ended. -/
theorem witness_QueryHandleWords :
    (mkIssue (on gMem) 0 gMem r0 (some 0)).act = 0 :: [] ∧ gMem.handle? 0 = none ∧ (∀ h, (gHdl h).handle? 0 = some h)
    ∧ (on gMem).LaneTurn gMem r0 (.plq wQ) (some 0) { srcs := [(v 4, 2)], gated := true } (paid (on gMem))
    ∧ (on gMem).LaneTurn gMem r0 (.plq { wQ with a := v 10 }) (some 0) { srcs := [(v 10, 2)], gated := true } (paid (on gMem))
    ∧ (on gMem).LaneTurn gMem r0 (.plfuse { wPost with aux := 0 }) (some 0) uPost (paid (on gMem)) ∧ (on gMem).LaneTurn gMem r0 (.plnext wN) (some 0) uN (paid (on gMem))
    ∧ (on gMem).LaneTurn gMem r0 (.plclose wC) (some 0) { dsts := [(dv 2, 1)], gated := true } (paid (on gMem))
    ∧ ((xMem.word 0 (v 4) true).1 % 64 = 0 ∧ inWindow (xMem.word 0 (v 4) true).1 = false ∧ (xMem.word 0 (v 10) true).1 % 64 ≠ 0)
    ∧ (on gMem).engineFull 216 = false ∧ gMem.releaseWaits = false
    ∧ (∀ h ∈ [hdl [ent false] none, hdl [ent true] none, hdl [] (some 5)],
      (on (gHdl h)).LaneTurn (gHdl h) r0 (.plq wQ) (some 0) { srcs := [(v 4, 2)], gated := true } (paid (on (gHdl h)))
      ∧ (on (gHdl h)).LaneTurn (gHdl h) r0 (.plfuse { wPost with aux := 0 }) (some 0) uPost (paid (on (gHdl h)))
      ∧ (on (gHdl h)).LaneTurn (gHdl h) r0 (.plnext wN) (some 0) uN (paid (on (gHdl h)))
      ∧ (on (gHdl h)).LaneTurn (gHdl h) r0 (.plclose wC) (some 0) { dsts := [(dv 2, 1)], gated := true } (paid (on (gHdl h)))
      ∧ h.fusion.length + 1 ≤ 256 ∧ (∀ k ∈ (gHdl h).pend, ∀ n, k.word = .plnext n → n.aux.toNat % 4 ≠ 0))
    ∧ (1 = [0].length ∧ anyMark ([ent false].take 1) = false) ∧ (anyMark ([ent true].take 1) = true ∧ anyMark ([ent true].take 0) = false)
    ∧ (0 = ([] : List (Word × Word × Bool × Bool)).length ∧ 0 < [0].length ∧ (hdl [] (some 5)).status ≠ none) := by
  have turn : ∀ h : Handle, (gHdl h).pend = [] := fun _ => rfl
  refine ⟨by decide, rfl, fun _ => rfl, turn_lane stands_gMem rfl rfl (by decide), turn_lane stands_gMem rfl rfl (by decide),
    turn_lane stands_gMem rfl rfl (by decide), turn_lane stands_gMem rfl rfl (by decide), turn_lane stands_gMem rfl rfl (by decide),
    by decide, by decide, by decide, ?_, by decide, by decide, by decide⟩
  intro h hh
  simp only [List.mem_cons, List.not_mem_nil, or_false] at hh
  obtain rfl | rfl | rfl := hh <;> exact ⟨turn_lane (stands_gHdl _) rfl rfl (by decide), turn_lane (stands_gHdl _) rfl rfl (by decide),
    turn_lane (stands_gHdl _) rfl rfl (by decide), turn_lane (stands_gHdl _) rfl rfl (by decide), by decide, by simp [turn]⟩

/-- A run whose words have all issued, before and after its trailer; the last register that exists and the first that does not. -/
def rEnd (names : Option (List Nat)) : Run := { placedRun 0 with next := 1, ended := names }
def gEnd (names : Option (List Nat)) (ps : List Pend) : Gang := { g0 with runs := [rEnd names], pend := ps }

theorem witness_RunWords :
    l0.LaneTurn gRun r0 .lnop none {} (paid l0)
    ∧ (let H := gEnd none []
       let s := mach H { placedGrid with regs := 128 } placedWg [] []
       s.gang? 0 = some H ∧ H.runs.head? = some (rEnd none) ∧ s.laneReady H (rEnd none) = true ∧ (rEnd none).len ≤ (rEnd none).next
       ∧ (Instr.endrun ⟨1, dv 127, dv 0, dv 0, dv 0⟩).wf = true ∧ 127 < H.limit (s.regsOf H) ∧ H.limit (s.regsOf H) ≤ 128)
    ∧ (∀ ps ∈ [[], [{ pend0 with run := some 0 }], [{ pend0 with run := some 0, dests := [3] }],
        [{ pend0 with run := some 0, dests := [], kind := .tile, cls := none }]],
      let H := gEnd (some [2]) ps
      (on H).gang? 0 = some H ∧ H.runs.head? = some (rEnd (some [2])) ∧ (on H).stopped 0 = false ∧ (on H).wgStage H = some .running
      ∧ (rEnd (some [2])).len ≤ (rEnd (some [2])).next)
    ∧ ({ pend0 with run := some 0 } : Pend).run = some (rEnd none).serial ∧ pend0.masks = [] ∧ (∀ d ∈ pend0.dests, d ∈ [2]) ∧ 3 ∉ [2] := by
  refine ⟨turn_lane stands_gRun rfl rfl (by decide), ⟨rfl, rfl, by decide, by decide, by decide, by decide, by decide⟩, ?_, rfl, rfl, by decide, by decide⟩
  intro ps hps
  simp only [List.mem_cons, List.not_mem_nil, or_false] at hps
  obtain rfl | rfl | rfl | rfl := hps <;> exact ⟨rfl, rfl, rfl, rfl, by decide⟩

/-- An operation of each kind; a memory word, of no ordering and one that acquires. -/
def gDone (k : Pend) : Gang := { g0 with pend := [k] }

theorem witness_Completions :
    (∀ k ∈ [PendKind.load, .store, .sfu, .marver, .xldp, .tile], ∀ i ∈ [Instr.lnop, .ldg wm, .ldg { wm with order := 1 }],
      let p : Pend := { pend0 with kind := k, word := i, results := [(2, ⟨7, false, true⟩)], lanes := 1 }
      (on (gDone p)).gang? 0 = some (gDone p) ∧ (on (gDone p)).pend? 0 0 = some p ∧ p.done = false ∧ p.park = none
      ∧ ((on (gDone p)).part 0).halted = false ∧ p.kind = k ∧ p.conds = [] ∧ p.lanes.testBit 0 = true)
    ∧ memoryFields .lnop = none ∧ memoryFields (.ldg wm) = some wm
    ∧ [pend0].filter (fun y => decide (y.cls = some .ld)) = pend0 :: [] ∧ pend0.done = false
    ∧ (let G : Gang := { gStoring with pend := gStoring.pend ++ [{ pend0 with id := 1, word := .ldg wm, todo := 1, lanes := 1, ops := [(0, ⟨0x4000, false, true⟩)] },
          { pend0 with id := 2, word := .ldg wm, todo := 1, lanes := 1, ops := [(0, ⟨0x5000, false, true⟩)] }] }
       ∀ op ∈ [1, 2], ∃ k, (on G).pend? 0 op = some k ∧ k.kind = .load ∧ k.todo ≠ 0 ∧ k.done = false ∧ k.park = none
         ∧ (op = 1 → (on G).comesAfter G (G.pend.takeWhile fun y => decide (y.id ≠ op)) (k.reach (setBits k.todo)) = true)
         ∧ (op = 2 → (on G).comesAfter G (G.pend.takeWhile fun y => decide (y.id ≠ op)) (k.reach (setBits k.todo)) = false))
    ∧ (∀ y ∈ [{ pend0 with done := true }], y.cls = some Cnt.ld → y.done = true)
    ∧ (let p : Pend := { pend0 with masks := [(1, 3, 1)], lanes := 3 }
       (on (gDone p)).pend? 0 0 = some p ∧ p.conds = [] ∧ p.masks = [(1, 3, 1)])
    ∧ (on gStoring).anyOrder gStoring { pend0 with kind := .load, word := .ldl wm } = false := by
  refine ⟨fun k _ i _ => ⟨rfl, rfl, rfl, rfl, rfl, rfl, rfl, show Nat.testBit 1 0 = true by decide⟩, rfl, rfl, rfl, rfl, ?_, ?_, ⟨rfl, rfl, rfl⟩, by decide⟩
  · intro G op ho
    simp only [List.mem_cons, List.not_mem_nil, or_false] at ho
    obtain rfl | rfl := ho <;> exact ⟨_, rfl, rfl, by decide, rfl, rfl, by decide +kernel, by decide +kernel⟩
  intro y hy _
  simp only [List.mem_cons, List.not_mem_nil, or_false] at hy
  rw [hy]

/-! ## Engines -/

/-- A chain at block 0x4000 of virtual device 0, and a machine on which it holds engine `e`. -/
def ch (stage : ChainStage) (ws : List Nat) : Chain :=
  ⟨1, 0x4000, ws, 0, ⟨some 0, none, none, none, 0, none, none, 0, 0⟩, stage, 0, 0, 0, 0, none, none, [], 0, none, false, false, false, 0, [], false⟩
def sEng (e : Nat) (c : Chain) : State := { s0 with engines := [(e, ⟨[c], some c.id, none, [], [], [], []⟩)] }
/-- The same with a 64-bit word in memory. -/
def sWord (e : Nat) (c : Chain) (a w : Nat) : State := { sEng e c with mem := Memory.write (sEng e c).mem a (toBytes 8 w) }

/-- Whether a chain holds its engine, as one Bool. -/
theorem holds {s : State} {e : Nat} {c : Chain} (h : (decide ((s.engine e).cur = some c.id) && decide (s.chain? e c.id = some c) && s.canProceed e c) = true) :
    s.Holds e c := by
  simp only [Bool.and_eq_true, decide_eq_true_eq] at h
  exact ⟨h.1.1, h.1.2, h.2⟩

/-- The first word of a block of kind 1 with a test and what it does when the test fails. -/
def hdr (test act : Nat) : Nat := 2 ^ 60 + test * 2 ^ 53 + act * 2 ^ 51

/-- A malformed header; a block without a test; each test that holds, and one that fails with each action; a signal of each kind; an end. -/
theorem witness_EngineChainsAndWaiters :
    ((sEng 0 (ch .fetch [])).Holds 0 (ch .fetch [])
      ∧ (∀ w ∈ [0, hdr 0 0, hdr 1 0, hdr 2 0, hdr 3 0, hdr 3 1, hdr 3 2],
        (sWord 0 (ch .fetch []) 0x4000 w).Holds 0 (ch .fetch [])
        ∧ ((sWord 0 (ch .fetch []) 0x4000 w).chainRead 0 (ch .fetch []) 0x4000 64).2.toOption.map (fun d => (words64 d.1).getD 0 0) = some w)
      ∧ headerBad 1 [0, 0, 0, 0, 0, 0, 0, 0] = some 60 ∧ headerBad 1 [hdr 0 0, 0, 0, 0, 0, 0, 0, 0] = none ∧ headerBad 1 [hdr 3 2, 0, 0x5000, 0, 0, 0, 0, 0] = none
      ∧ (∃ t d, (sWord 0 (ch .fetch []) 0x4000 (hdr 3 0)).chainRead 0 (ch .fetch []) 0 8 = (t, .ok d))
      ∧ (hdr 3 2 / 2 ^ 53 % 8 ≠ 0 ∧ hdr 3 0 / 2 ^ 51 % 4 = 0 ∧ hdr 3 1 / 2 ^ 51 % 4 = 1 ∧ hdr 3 2 / 2 ^ 51 % 4 = 2))
    ∧ (∀ add ∈ [1, 2], let c := ch .signal [2 ^ 60 + add * 2 ^ 49 + 5 * 2 ^ 32, 0, 0, 0x5000]
      (sEng 0 c).Holds 0 c ∧ ∃ t y, (sEng 0 c).chainXlat 0 c (if add = 1 then .rmw else .write) true 0x5000 = (t, .ok y))
    ∧ (let c : Chain := { ch .ending [] with owner := { (ch .ending []).owner with gang := some 0 } }
       (sEng 0 c).Holds 0 c ∧ c.owner.record = none ∧ (sEng 0 c).gang? 0 = some g0 ∧ c.owner.query = none ∧ g0.eng.chains ≤ c.owner.handle + 64)
    ∧ (let H : Gang := { g0 with wait := .semaphore 0x4000 1 0 4 }
       let t : State := on H
       t.gang? 0 = some H ∧ t.stopped 0 = false ∧ t.wgStage H = some .running ∧ (∃ u pa, t.atHome 0 0 .read true 0x4000 = (u, .ok pa))
       ∧ ¬(1 ≤ 0) ∧ (0 : Nat) ≤ 0) := by
  refine ⟨⟨holds (by decide), ?_, by decide, by decide, by decide, ok_of _ (by decide +kernel), by decide⟩, ?_, ⟨holds (by decide), rfl, rfl, rfl, by decide⟩,
    rfl, by decide, by decide, ok_of _ (by decide +kernel), by decide, by decide⟩
  · intro w hw
    simp only [List.mem_cons, List.not_mem_nil, or_false] at hw
    obtain rfl | rfl | rfl | rfl | rfl | rfl | rfl := hw <;> exact ⟨holds (by decide), by decide +kernel⟩
  · intro a ha
    simp only [List.mem_cons, List.not_mem_nil, or_false] at ha
    obtain rfl | rfl := ha <;> exact ⟨holds (by decide), ok_of _ (by decide +kernel)⟩

/-- A Ladle block of operation `op` from 0x4000 to 0x8000 in memory with its formats, rows less one and columns. -/
def ladle (op sf df rows cols : Nat) : List Nat :=
  [2 ^ 60 + op * 2 ^ 56, 0, 0, 0, if op = 0 then 0 else 0x4000, if op = 0 then 0 else 0x8000, sf * 2 ^ 40 + df * 2 ^ 16 + rows, cols * 2 ^ 44]
/-- The raw format entry k of the presets. -/
def raw (k : Nat) : Nat := (SMap.getD k 0 presets).toNat % 2 ^ 24
/-- A legal block of each operation. -/
def ladles : List (List Nat) := [ladle 0 0 0 0 0, ladle 1 0 0 0 1, ladle 2 (raw 0) (raw 3) 0 256, ladle 3 (raw 3) (raw 0) 0 256,
  ladle 4 (raw 3) (raw 4) 0 256, ladle 5 (raw 0) (raw 0) 63 64, ladle 6 0 0 0 1]
def copyCh : Chain := ch .working (ladle 1 0 0 0 1)

/-- Whether the first line of a paid piece is read, and written with no fault. -/
def lineMoves (e : Nat) (c : Chain) : Bool :=
  let s := sEng e c
  let b := ladleBody c.words
  let addrs := (b.sources 0 0 0).2
  match s.ladleReads e c b.ssp addrs with
  | (_, .error _) => false
  | (t, .ok ls) =>
    let l := ls.headD ⟨0, [], [], 0, false⟩
    let met := ((addrs.zip ls).zip [(decide (l.bad ≠ 0), l.scBad)]).foldl (fun v x => v.ladlePoison e c b.ssp x.1.1 x.1.2 x.2.1 x.2.2) t
    (met.ladleWrite e c b.dsp b.dst ⟨l.bytes, (List.range 17).map fun j => (j, l.scales.getD j 0), l.bad, some l.scBad⟩).2.isNone

/-- The same chain, not paid for yet, on an engine at which its holder has time. -/
def sRich : State :=
  { sEng 0 copyCh with buckets := [(2000 * 128, ⟨2 ^ 30, 0, 0, 0, 0, false⟩)] }
/-- One whose holder has no time and may not borrow, and one on which a grant is not over. -/
def sPoor : State := { sEng 0 copyCh with buckets := [(2000 * 128, ⟨0, 0, 0, 0, 0, true⟩)] }
def sBusy : State := { sRich with engines := [(0, ⟨[copyCh], some 1, some ⟨0, 5, false, 0, 0⟩, [], [], [], []⟩)] }

/-- A tile-writing block of workgroup 0, whose slot an earlier use holds or not. -/
def tileCh : Chain := { ch .working (ladle 1 0 0 0 1) with words := (ladle 1 0 0 0 1).set 0 (2 ^ 60 + 2 ^ 56 + 2 ^ 44), owner := { (ch .working []).owner with wg := some 0 } }
def sTileCh (busy : List TileUse) : State := { sEng 0 tileCh with wgs := [(0, { placedWg with busy := busy })] }

/-- Each operation with a legal body and with one whose reserved bit is set, at its acceptance, before its last line and after it; a copied line; a
list entry that names a row and one that skips it. -/
theorem witness_LadleBlocks :
    (∀ ws ∈ ladles, (sEng 0 (ch .perform ws)).Holds 0 (ch .perform ws) ∧ (sEng 0 (ch .working ws)).Holds 0 (ch .working ws)
      ∧ (sEng 0 (ch .perform ws)).ladleBad (ch .perform ws) = none ∧ (sEng 0 (ch .perform ws)).ladleBad (ch .perform (ws.set 7 1)) ≠ none
      ∧ ((ladleBody ws).op ≠ 0 → 0 < (ladleBody ws).units))
    ∧ ladles.map (fun ws => (ladleBody ws).op) = [0, 1, 2, 3, 4, 5, 6] ∧ (ladleBody (ladle 0 0 0 0 0)).units ≤ 0
    ∧ lineMoves 0 { copyCh with paid := true } = true ∧ (sEng 0 { copyCh with paid := true }).Holds 0 { copyCh with paid := true }
    ∧ ((sEng 0 copyCh).ladleWaits copyCh = false ∧ copyCh.paid = false ∧ (sEng 0 copyCh).hasTime 0 copyCh = false ∧ sRich.hasTime 0 copyCh = true
      ∧ (sEng 0 copyCh).turnsTo 0 copyCh = none ∧ (sEng 0 copyCh).mayBegin 0 copyCh = true ∧ sPoor.hasTime 0 copyCh = false ∧ sPoor.mayBegin 0 copyCh = false
      ∧ sPoor.turnsTo 0 copyCh = none ∧ ((sEng 0 copyCh).engine 0).grant = none ∧ ((sBusy.engine 0).grant = some ⟨0, 5, false, 0, 0⟩ ∧ ¬5 ≤ sBusy.now)
      ∧ (sEng 0 copyCh).Holds 0 copyCh ∧ sRich.Holds 0 copyCh ∧ sPoor.Holds 0 copyCh ∧ sBusy.Holds 0 copyCh)
    ∧ ((sTileCh [⟨0, true, 1, 0, 0⟩]).Holds 0 tileCh ∧ (sTileCh [⟨0, true, 1, 0, 0⟩]).ladleWaits tileCh = true) ∧ (0 + 1) % 16 ≠ 0 ∧ copyCh.undef = false ∧ copyCh.causes = 0 ∧ copyCh.owner.wg = none
    ∧ (let c := ch .perform (ladle 6 0 0 0 1)
       (∃ t xs, (sEng 0 c).gatherList 0 c 1 0 = (t, .ok xs)) ∧ (∃ t x, (sEng 0 c).gatherEntry 0 c 0 = (t, .ok x))
       ∧ ((sWord 0 c 0x4000 2).gatherList 0 c 1 0).2.toOption = some [2] ∧ ((sWord 0 c 0x4000 1).gatherEntry 0 c 0).2.toOption = some 1)
    ∧ (∀ F ∈ [g0.fmt 0, g0.fmt 3], ([Machine.Num.nan] : List Machine.Num)[0]? = some Machine.Num.nan ∧ (F.b = true → 0 < F.blockLen ∧ F.blockLen ∣ 256))
    ∧ (g0.fmt 0).b = false ∧ (g0.fmt 3).b = true := by
  refine ⟨?_, by decide, by decide, by decide +kernel, holds (by decide), ⟨by decide, rfl, by decide, by decide, by decide, by decide, by decide, by decide, by decide, rfl, ⟨rfl, by decide⟩,
      holds (by decide), holds (by decide), holds (by decide), holds (by decide)⟩, ⟨holds (by decide), by decide⟩, by decide, rfl, rfl, rfl,
    ⟨ok_of _ (by decide +kernel), ok_of _ (by decide +kernel), by decide +kernel, by decide +kernel⟩, by decide, by decide, by decide⟩
  intro ws hws
  simp only [ladles, List.mem_cons, List.not_mem_nil, or_false] at hws
  obtain rfl | rfl | rfl | rfl | rfl | rfl | rfl := hws <;> exact ⟨holds (by decide), holds (by decide), by decide, by decide, by decide⟩

/-- A posting-list block: a NOP and a query of 1024 entries in output mode `m`. -/
def pleNopWs : List Nat := [2 * 2 ^ 60, 0, 0, 0, 0, 0, 0, 0]
def queryWs (m : Nat) : List Nat := [2 * 2 ^ 60 + 2 ^ 56, 0, 0, 0, 0x4000, m * 2 ^ 62 + 1023 * 2 ^ 51, if m = 2 then 0x8000 else 0, 0]
/-- A descriptor of one list of one block and one node, the or of that list. -/
def desc : List Nat := [2 ^ 8 + 1, 0, 0, 0, 0, 0, 0, 0, 0x5000, 0x6000, 1, 0] ++ List.replicate 60 0 ++ [1] ++ List.replicate 29 0
def qCh (stage : ChainStage) (m : Nat) (out : List (Word × Word × Bool × Bool)) : Chain := { ch stage (queryWs m) with out := out }
/-- A query that PLQ started, with its handle. -/
def hCh (out : List (Word × Word × Bool × Bool)) : Chain :=
  { qCh .emitting 1 out with owner := ⟨some 0, some 0, some 0, some 0, 0, some 0, none, 0, 0⟩ }
def sHand : State :=
  { sEng 216 (hCh [ent true]) with gangs := [(0, { g0 with eng := { g0.eng with handles := [(0, hdl [] none)] } })] }
def sOut (b : Option Binder) : State :=
  ((sEng 216 (qCh .emitting 0 [ent true])).modPart 0 fun P => { P with sprues := [(0, 0)] }).modSprue 0 0 fun S => { S with producer := b }

theorem witness_QueryBlocks :
    ((sEng 216 (ch .perform pleNopWs)).Holds 216 (ch .perform pleNopWs) ∧ (sEng 216 (ch .perform pleNopWs)).queryBad (ch .perform pleNopWs) = none)
    ∧ ((sEng 323 (qCh .perform 2 [])).Holds 323 (qCh .perform 2 []) ∧ (sEng 323 (qCh .perform 2 [])).queryBad (qCh .perform 2 []) = none
      ∧ (sEng 323 (qCh .perform 2 [])).queryBad (ch .perform ((queryWs 2).set 7 1)) ≠ none ∧ descriptorBad desc false = none
      ∧ (∃ t d, (sEng 323 (qCh .perform 2 [])).streamRead 323 (qCh .perform 2 []) 0x4000 816 = (t, .ok d)))
    ∧ (let c : Chain := { qCh .working 2 [] with trav := some ⟨desc, 0, [], [], none, false, none, false, false⟩ }
       let u : State := { sEng 216 c with buckets := [(3000 * 128, ⟨2 ^ 30, 0, 0, 0, 0, false⟩)] }
       u.Holds 216 c ∧ u.hasTime 216 c = true ∧ (u.engine 216).grant = none ∧ c.expired = false
       ∧ (sEng 216 { c with paid := true }).Holds 216 { c with paid := true })
    ∧ ((sEng 216 (qCh .emitting 2 [])).Holds 216 (qCh .emitting 2 []))
    ∧ (∀ b ∈ [none, some (Binder.chain 216 1), some (.gang 0 0)], ((sOut b).freeProducer 0 0).sprue 0 0 = { Sprue.init with producer := b })
    ∧ ((sOut none).Holds 216 (qCh .emitting 0 [ent true]) ∧ omode (qCh .emitting 0 [ent true]) = 0)
    ∧ (sHand.Holds 216 (hCh [ent true]) ∧ omode (hCh [ent true]) = 1 ∧ sHand.handleOf (hCh [ent true]) = some (hdl [] none))
    ∧ (let c := qCh .emitting 2 [ent false]
       (sEng 216 c).Holds 216 c ∧ 1 < omode c ∧ ∃ t y, (sEng 216 c).chainXlat 216 c .write false 0x8000 = (t, .ok y)) := by
  refine ⟨⟨holds (by decide), by decide⟩, ⟨holds (by decide), by decide, by decide, by decide +kernel, ok_of _ (by decide +kernel)⟩,
    ⟨holds (by decide), by decide, rfl, by decide, holds (by decide)⟩, holds (by decide), by decide, ⟨holds (by decide), by decide⟩, ⟨holds (by decide), by decide, by decide⟩,
    holds (by decide), by decide, ok_of _ (by decide +kernel)⟩

/-- A query of one list, with more flags in its first word, from document `n` on, with a cursor. -/
def tr (fl n : Nat) (heap : List (Nat × Nat)) (k : Cursor) : Traversal := ⟨desc.set 0 (2 ^ 8 + 1 + fl), n, heap, [(0, k)], none, false, none, false, false⟩
def trCh (t : Traversal) : Chain := { qCh .working 2 [] with trav := some t }
def kNew : Cursor := ⟨0, 0, none, none⟩
def kSkip : Cursor := ⟨0, 0, some (10, 0x3F800000), none⟩
def kRead : Cursor := ⟨0, 0, some (10, 0x3F800000), some [(3, 1), (7, 2)]⟩
/-- A block of one posting, of document 10. -/
def post1 : List Byte := [10, 0, 0, 0, 10, 0, 0, 0, 1] ++ List.replicate 247 0
def fent (i : Word) (m : Bool) : Word × Word × Bool × Bool := (i, 0, m, false)

/-- A list whose skip entry is not read, whose block is not read, and whose block is read; a block passed by; no document left in it; a region that
is pruned and one that is not; no list left. -/
theorem witness_Traversals :
    (∀ t ∈ [tr 0 0 [] kNew, tr 0 0 [] kSkip, tr 0 11 [] kSkip, tr 0 3 [] kRead, tr (2 ^ 19) 3 [] kRead, tr (2 ^ 19) 0 [(1, 0x7F800000)] kSkip],
      t.done = false ∧ (trCh t).expired = false ∧ t.desc.getD 0 0 / 2 ^ 16 % 4 ≠ 2 ∧ ((List.range (t.desc.getD 0 0 % 32)).filter fun i =>
        decide ((SMap.getD i kNew t.cursors).blk < t.desc.getD (10 + 4 * i) 0 % 2 ^ 32)) = [0])
    ∧ (List.range 1).filter (fun i => decide ((SMap.getD i kNew (tr 0 0 [] ⟨1, 11, none, none⟩).cursors).blk < desc.getD (10 + 4 * i) 0 % 2 ^ 32)) = []
    ∧ (kNew.skip.isNone = true ∧ kSkip.skip ≠ none ∧ kRead.skip ≠ none ∧ kSkip.docs.isNone = true ∧ kRead.docs.isNone = false)
    ∧ (10 < (tr 0 11 [] kSkip).next ∧ ¬10 < (tr 0 3 [] kRead).next ∧ kRead.lo ≤ 3)
    ∧ ((3 ∈ [3, 7] ∧ ∀ x ∈ [3, 7], 3 ≤ x) ∧ ([(3, 1), (7, 2)] : List (Nat × Nat)).Pairwise fun a b => a.1 < b.1)
    ∧ ((tr (2 ^ 19) 0 [(1, 0x7F800000)] kSkip).bound.v.isNan = false ∧ ((tr (2 ^ 19) 0 [(1, 0x7F800000)] kSkip).theta 1).lt (tr (2 ^ 19) 0 [(1, 0x7F800000)] kSkip).bound.v = false)
    ∧ (∃ u d, (sEng 323 (trCh (tr 0 0 [] kNew))).streamRead 323 (trCh (tr 0 0 [] kNew)) 0x6000 8 = (u, .ok d))
    ∧ (∃ u d, (sEng 323 (trCh (tr 0 0 [] kSkip))).streamRead 323 (trCh (tr 0 0 [] kSkip)) 0x5000 256 = (u, .ok d))
    ∧ postingBad (List.replicate 256 0) 10 0 ≠ none ∧ postingBad post1 10 0 = none ∧ 0 < (post1.getD 8 0).toNat
    ∧ (∃ u d, (sEng 323 (trCh (tr 0 0 [] kRead))).slotScores 323 (trCh (tr 0 0 [] kRead)) desc 0 [(0, 1)] = (u, .ok d))
    ∧ (∃ u d, (sEng 323 (trCh (tr 0 0 [] kRead))).slotScores 323 (trCh (tr 0 0 [] kRead)) desc 0 [] = (u, .ok d))
    ∧ ((sEng 323 (trCh (tr 0 0 [] kRead))).chain? 323 1).isSome = true
    ∧ ([(1, 5), (2, 3)] : List (Nat × Nat)).Pairwise (fun a b => rankKey 2 b.2 ≤ rankKey 2 a.2) ∧ (tr 0 0 [(1, 5)] kRead).heap.getLast? = some (1, 5) := by
  refine ⟨by decide, by decide, by decide, by decide, by decide, by decide +kernel, ok_of _ (by decide +kernel), ok_of _ (by decide +kernel), by decide +kernel,
    by decide +kernel, by decide, ok_of _ (by decide +kernel), ok_of _ (by decide +kernel), by decide, by decide +kernel, rfl⟩

/-- A fusion entry that comes late, one already passed, one beyond the region, one whose score is not final, followed by another or by none,
and one to be ranked. -/
theorem witness_FusionEntries :
    ((hCh []).owner.gang = some 0 ∧ (hCh []).owner.query = some 0)
    ∧ ((fent 0xFFFFFFFF false).1.toNat = 0xFFFFFFFF ∧ (fent 4 false).1.toNat < (tr (2 * 2 ^ 16) 5 [] kRead).next ∧ 5 ≤ (fent 6 false).1.toNat)
    ∧ ((∃ d, (some 5 : Option Nat) = some d ∧ d < (fent 6 false).1.toNat) ∧ (∃ l, (some 5 : Option Nat) = some l ∧ l < (fent 6 false).1.toNat))
    ∧ (¬((fent 6 false).2.2.1 = true ∨ ∃ y ∈ [fent 6 false], y.2.2.1 = true ∨ 6 < y.1.toNat)) ∧ (∃ y ∈ [fent 7 false], y.2.2.1 = true ∨ 6 < y.1.toNat)
    ∧ ((tr (2 * 2 ^ 16) 5 [] kRead).desc.getD 0 0).testBit 18 = false ∧ ((tr (6 * 2 ^ 16) 5 [] kRead).desc.getD 0 0).testBit 18 = true := by
  refine ⟨⟨rfl, rfl⟩, ⟨by decide, by decide, by decide⟩, ⟨⟨5, rfl, by decide⟩, ⟨5, rfl, by decide⟩⟩, by decide, by decide, by decide, by decide⟩

/-! ## Runners, requests from outside, stops, launches -/

/-- A Runner block of operation `op` over `lines` lines, to peer 0 of group 0. -/
def runnerWs (op lines : Nat) : List Nat :=
  let sp := runnerSpaces op
  [3 * 2 ^ 60 + op * 2 ^ 56 + sp.1 * 2 ^ 46 + sp.2 * 2 ^ 44 + (if op = 4 then 5 * 2 ^ 32 else 0), 0, 0, 0, if op = 0 ∨ op = 4 then 0 else 0x4000,
    if op = 0 then 0 else 0x8000, if op = 3 then raw 0 * 2 ^ 40 + raw 0 * 2 ^ 16 else 0, (lines - 1) * 2 ^ 44]
def rCh (stage : ChainStage) (op lines : Nat) : Chain := { ch stage (runnerWs op lines) with ranks := [1] }

/-- Virtual device 0 with 64 KB of window 0 open for reads and writes, at 0x10000; and an HDM range of partition 0 from 0 to 0x1000. -/
def sOpen : State :=
  let s := (s0.modPart 0 fun P => { P with table := [(0, ⟨true, false, []⟩)] }).modVdev 0 fun V =>
    { V with wbase := [(0, 0x10000)], wctl := [(0, 0xC000000000010000)] };
  { s with pkg := { s.pkg with hdm := [(0, 0, 0x1000)] } }

/-- A machine with one peer window, of accelerator 1. -/
def sPeer (c : Chain) : State := { sEng 324 c with peers := [(peerKey 1, ⟨[], [], [], [], 0x10000, true, true⟩)] }

/-- A machine whose rank 0 is its own window 0, open or not. -/
def oCh (stage : ChainStage) (op : Nat) : Chain := { rCh stage op 1 with ranks := [0] }
def sOwn (c : Chain) : State := { sOpen with engines := (sEng 324 c).engines }

/-- A chunk that is done, one that a peer without a window fails, and one of a chain whose virtual device maps nothing. -/
def chunkOf (s : State) (c : Chain) : Nat := match (s.runChunk 324 c (runnerBody c.words) 0).2 with
  | .done _ => 0
  | .failed _ => 1
  | .fault _ => 2
def cFar : Chain := { oCh .working 1 with owner := { (oCh .working 1).owner with vnum := some 1 } }

theorem witness_RunnerBlocks :
    (∀ op ∈ [0, 1, 2, 3, 4], let c := rCh .perform op 1;
      (sEng 324 c).Holds 324 c ∧ (runnerBody c.words).op = op ∧ runnerBad c.words = none ∧ runnerBad (c.words.set 4 (2 ^ 57)) ≠ none)
    ∧ (let c := rCh .perform 1 1;
      (∃ t d, (sEng 324 c).chainRead 324 c 0 64 = (t, .ok d)) ∧ (∃ t x, (sEng 324 c).groupEntries 324 c 0 1 0 = (t, .ok x))
      ∧ groupBad [0, 0, 0, 0, 0, 0, 0, 0] [0] = none ∧ groupBad [2 ^ 63, 0, 0, 0, 0, 0, 0, 0] [0] = some 63 ∧ (runnerBody c.words).peer < [0].length)
    ∧ ((sOwn (oCh .working 1)).Holds 324 (oCh .working 1) ∧ chunkOf (sOwn (oCh .working 1)) (oCh .working 1) = 0
      ∧ chunkOf (sEng 324 (oCh .working 1)) (oCh .working 1) = 1 ∧ (sOwn cFar).Holds 324 cFar ∧ chunkOf (sOwn cFar) cFar = 2)
    ∧ (let c := rCh .working 4 1;
      (sPeer c).Holds 324 c ∧ rankAcc (c.ranks.getD 0 0) ≠ (sPeer c).pkg.accId ∧ (((sPeer c).peerPacket (chainReq 324 c) (rankAcc (c.ranks.getD 0 0)) 0 1).peerWindow (c.ranks.getD 0 0) 0x8000 .rmw).isSome = true)
    ∧ (∀ f ∈ [none, some 0], ∀ n ∈ [64, 65], let c : Chain := { rCh .working 1 n with sent := 1, failed := f };
      (sEng 324 c).Holds 324 c ∧ c.prog < c.sent ∧ c.causes = 0)
    ∧ ((runnerBody (runnerWs 1 64)).chunks ≤ 0 + 1 ∧ 0 + 1 < (runnerBody (runnerWs 1 65)).chunks)
    ∧ ((rCh .working 1 1).sent = (rCh .working 1 1).prog ∧ ({ sEng 324 (rCh .working 1 1) with now := 2 ^ 20 } : State).Holds 324 (rCh .working 1 1))
    ∧ (let c := oCh .working 2;
      (∃ t y, (sOwn c).chainXlat 324 c .read false 0x4000 = (t, .ok y)) ∧ (∃ t y, (sOwn c).chainXlat 324 c .write false 0x8000 = (t, .ok y))
      ∧ ((sOwn c).homeLine (chainReq 324 c) 0x4000 true).2.bad = 0 ∧ ((sOwn c).homeLine (chainReq 324 c) 0x4000 true).2.scBad = false
      ∧ (match (sOwn c).rankRead (chainReq 324 c) 0 0x4000 with | (_, .ok l) => decide (l.bad = 0) && !l.scBad | _ => false) = true
      ∧ (match (sOwn c).rankWrite (chainReq 324 c) 0 0x8000 (wholeLine noLine) with | (_, .ok _) => true | _ => false) = true ∧ (runnerBody (runnerWs 2 1)).op ≠ 3) := by
  refine ⟨?_, ⟨ok_of _ (by decide +kernel), ok_of _ (by decide +kernel), by decide, by decide, by decide⟩,
    ⟨holds (by decide), by decide +kernel, by decide +kernel, holds (by decide), by decide +kernel⟩, ⟨holds (by decide), by decide, (by
      rw [(State.peerPacket_tokens _ _ _ _ _).peerWindow]; decide)⟩, ?_, by decide,
    ⟨rfl, holds (by decide)⟩, ok_of _ (by decide +kernel), ok_of _ (by decide +kernel), by decide +kernel, by decide +kernel, by decide +kernel, by decide +kernel, by decide⟩
  · intro op h
    simp only [List.mem_cons, List.not_mem_nil, or_false] at h
    obtain rfl | rfl | rfl | rfl | rfl := h <;> exact ⟨holds (by decide), by decide, by decide, by decide⟩
  · intro f hf n hn
    simp only [List.mem_cons, List.not_mem_nil, or_false] at hf hn
    obtain rfl | rfl := hf <;> obtain rfl | rfl := hn <;> exact ⟨holds (by decide), by decide, rfl⟩

/-- The last bytes of the window and the first beyond it; a read, an add and a write; the last byte of the range and the first beyond it, sound
and poisoned; each power. -/
theorem witness_OutsideRequests :
    s0.pkg.power = .running
    ∧ (∀ r ∈ [(⟨5, 0xFFF8, .read 8⟩ : PeerRequest), ⟨5, 0xFFF8, .add 1⟩, ⟨5, 0xFFF8, .write [(7, 1)]⟩],
      peerSize r.op = 8 ∧ (peerAcc r.op = .rmw → r.addr % 2 ^ 44 % 8 = 0)
      ∧ sOpen.windowVa 0 0 0xFFF8 (decide (peerAcc r.op ≠ .write)) (decide (peerAcc r.op ≠ .read)) = some 0x1FFF8
      ∧ (∃ t pas, sOpen.inboundXlat 0 0x1FFF8 8 (peerAcc r.op) = (t, .ok pas)) ∧ 0x1FFF8 % 256 + 8 ≤ 256)
    ∧ sOpen.windowVa 0 0 0x10000 true false = none ∧ s0.windowVa 0 0 0 true false = none
    ∧ sOpen.hdmOf 0xFFF 1 = some 0 ∧ sOpen.hdmOf 0x1000 1 = none ∧ sOpen.hdmOf 0xFFF [(0 : Byte)].length = some 0
    ∧ (sOpen.hostRead 0 0xFFF 1).2.2 = false
    ∧ (({ sOpen with bad := [0xFFF / 64] } : State).hostRead 0 0xFFF 1).2.2 = true
    ∧ State.reset.pkg.power = .starting ∧ ({ s0.pkg with power := .minimal } : Package).power = .minimal ∧ s0.pkg.debugFuse = false
    ∧ ({ s0.pkg with debugFuse := true } : Package).debugFuse = true := by
  refine ⟨rfl, ?_, by decide, by decide, by decide, by decide, by decide, by decide +kernel, by decide +kernel, rfl, rfl, rfl, rfl⟩
  intro r hr
  simp only [List.mem_cons, List.not_mem_nil, or_false] at hr
  obtain rfl | rfl | rfl := hr <;> exact ⟨by decide, by decide, by decide, ok_of _ (by decide +kernel), by decide⟩

/-- A partition with a group waiting, with room for it and without; one that is halting. -/
def sWait (prod : Nat) : State :=
  (on { g0 with park := some ⟨1, [(⟨0x03, 0, 0, 0, 0, 0, 1⟩, 1)], false, [], false⟩ }).modPart 0 fun P => { P with groups := [.scalar 0], fqProd := prod }
def sHalting : State := s0.modPart 0 fun P => { P with halting := true, toStop := [0, 53, 89] }
/-- The same, whose core 0 has a load outstanding. -/
def sHaltingLoad : State := (on { g0 with pend := [pend0] }).modPart 0 fun P => { P with halting := true, toStop := [0] }
/-- The same, whose posting-list engine 0 is in a block. -/
def sStopping : State :=
  let c : Chain := { qCh .working 2 [] with trav := some ⟨desc, 0, [], [], none, false, none, false, false⟩, paid := true };
  (sEng 216 c).modPart 0 fun P => { P with halting := true, toStop := [72] }
/-- A machine on which a grid waits for the core, and the workgroup there has waited as long. -/
def sSwap (now : Nat) : State := { s0 with now := now }

theorem witness_StopsAndWatchdogs :
    (let s : State := { l0 with now := 4096 };
      s.gang? 0 = some gRun ∧ gRun.runs.head? = some r0 ∧ s.laneReady gRun r0 = true ∧ r0.issued = false ∧ gRun.since + 4096 ≤ s.now ∧ gRun.sinceS + 4096 ≤ s.now
      ∧ s.scalarReady gRun = true)
    ∧ ((sSwap 65535).stopped 0 = false ∧ (sSwap 65535).now < ((sSwap 65535).core 0).issued + 65536
      ∧ ((sSwap 65536).core 0).issued + 65536 ≤ (sSwap 65536).now ∧ (sSwap 65536).swapChoice 0 0 = none)
    ∧ (s0.stopped 0 = false ∧ (s0.part 0).groups = [] ∧ (s0.part 0).backlog = [] ∧ (∀ n ∈ [0, 5000], (sWait n).stopped 0 = false ∧ ((sWait n).part 0).backlog = [] ∧ ((sWait n).part 0).groups = .scalar 0 :: []
      ∧ ((sWait n).parkOf (.scalar 0)).map Park.faults = some [(⟨0x03, 0, 0, 0, 0, 0, 1⟩, 1)]))
    ∧ ((sHalting.part 0).halting = true ∧ 53 ∈ (sHalting.part 0).toStop ∧ 89 ∈ (sHalting.part 0).toStop ∧ (53 < 54 ∧ 89 ≤ 89)
      ∧ sStopping.stopsLater 0 72 = true ∧ 0 ∈ (sHaltingLoad.part 0).toStop ∧ (∃ G ∈ sHaltingLoad.residents (36 * 0 + 0), G.mayStore = false ∧ ∃ x ∈ G.pend, x.storing = false)
      ∧ ({ s0 with pkg := { s0.pkg with parts := 1 } } : State).inService 0 = true)
    ∧ (let s : State := { s0 with twins := [(0, [op0 (some 0)])], now := 2 ^ 20 };
      s.stopped 0 = false ∧ (∃ o ∈ SMap.getD 0 [] s.twins, ∃ t, o.started = some t ∧ t + 2 ^ 20 ≤ s.now)
      ∧ ¬(∃ o ∈ SMap.getD 1 [] s.twins, ∃ t, o.started = some t ∧ t + 2 ^ 20 ≤ s.now) ∧ ∀ kv ∈ s.wgs, s.holdsTiles kv.2 1 = false) := by
  refine ⟨⟨rfl, rfl, by decide, by decide, by decide, by decide, by decide⟩, ⟨by decide, by decide, by decide, by decide +kernel⟩, ⟨by decide, by decide, rfl, ?_⟩, by decide,
    by decide, ⟨op0 (some 0), .head _, 0, rfl, by decide⟩, (fun ⟨o, h, _⟩ => by cases h), by decide⟩
  intro n hn
  simp only [List.mem_cons, List.not_mem_nil, or_false] at hn
  obtain rfl | rfl := hn <;> exact ⟨by decide, rfl, by decide, by decide⟩

/-- A grid of which one workgroup waits. -/
def sGrid : State := { s0 with gangs := [], wgs := [], grids := [(0, { placedGrid with w := 1, next := 0 })] }
/-- Virtual device 0 whose chain 0 stands at the record at 0x4000: its words 1 and 9 and its state. -/
def sRec (l : LaunchChain) (k test st : Nat) : State :=
  let s := (s0.modPart 0 fun P => { P with table := [(0, ⟨true, false, []⟩)] }).modVdev 0 fun V => { V with chains := [(0, l)] };
  let m := Memory.write (Memory.write s.mem 0x4008 (toBytes 8 (k * 2 ^ 62))) 0x4048 (toBytes 8 (test * 2 ^ 61));
  { s with mem := Memory.write m 0x4078 (toBytes 8 (st * 2 ^ 56)) }
def fresh0 : LaunchChain := ⟨0x4000, false, false, none, .fresh⟩
/-- What the record is read as, and how its checks end: the codes, if it has any. -/
def recordOf (s : State) : Option (Nat × Nat × List Nat) :=
  match s.readRecord 0 0 with
  | (t, .ok r) => match t.checkRecord 0 0 r with
    | (_, .codes ks _) => some (r.state, r.test, ks)
    | _ => none
  | _ => none

/-- Nothing waits; a unit that finds a place; each outcome of a record: handled before, refused, entered at once, after a test; a next record. -/
theorem witness_PlacementAndLaunch :
    (s0.stopped 0 = false ∧ s0.waiting 0 = [] ∧ (s0.part 0).reserved = none ∧ s0.up = true ∧ s0.engineFull 17 = false)
    ∧ (sGrid.waiting 0 = [] ++ .grid 0 :: [] ∧ sGrid.heldBack 0 (.grid 0) = false ∧ (sGrid.shape (.grid 0)).isSome = true
      ∧ ((sGrid.shape (.grid 0)).bind fun h => sGrid.findPlace 0 [] (fun _ => true) (.grid 0) h) = some [0])
    ∧ ((s0.modPart 0 fun P => { P with reserved := some (.grid 0) }).part 0).reserved ≠ none
    ∧ SMap.getD 3 .l1 ((s0.modCore 0 fun c => { c with ways := [(3, .closing 0)] }).core 0).ways = .closing 0
    ∧ (let s : State := { s0 with wgs := [(0, { placedWg with stage := .setup })] };
      s.wg? 0 = some { placedWg with stage := .setup } ∧ s.waysReady 0 { placedWg with stage := .setup } = true)
    ∧ (s0.wg? 0 = some placedWg ∧ ∃ G, (on { g0 with life := .exited }).gang? 0 = some G ∧ G.life ≠ .awake)
    ∧ ((sRec fresh0 2 0 0).stopped 0 = false ∧ (∀ st ∈ [RecStage.fresh, .testing [] 0, .ready [] 0], (sRec { fresh0 with stage := st } 2 0 0).recordReady 0 0 = true)
      ∧ recordOf (sRec fresh0 2 0 1) = some (1, 0, []) ∧ recordOf (sRec fresh0 3 0 0) = some (0, 0, [1]) ∧ recordOf (sRec fresh0 2 0 0) = some (0, 0, [])
      ∧ recordOf (sRec fresh0 2 3 0) = some (0, 3, []) ∧ ((sRec fresh0 2 3 0).dispRead 0 0x4000 0 8).2.toOption.isSome = true)
    ∧ (let l : LaunchChain := ⟨0x4000, false, true, none, .fresh⟩;
      SMap.find? 0 ((sRec l 2 0 0).vdev 0).chains = some l ∧ ((sRec l 2 0 0).readRecord 0 0).2.toOption.map LaunchRec.next = some 0
      ∧ ((({ sRec l 2 0 0 with mem := Memory.write (sRec l 2 0 0).mem 0x4000 (toBytes 8 0x5000) } : State).readRecord 0 0).2.toOption.map LaunchRec.next)
        = some 0x5000)
    ∧ (∀ k ∈ [0, 1, 2], let s := sRec fresh0 k 0 0;
      s.openRecords 0 < 128 ∧ s.entryRoom 0 [0, k * 2 ^ 62] = true ∧ s.pairTurn 0 0 = true ∧ ∃ t, s.writeState 0 0x4000 1 0 0 = (t, none))
    ∧ ((LaunchRec.mk 0x4000 [0, 2 * 2 ^ 62]).kind = 2 ∧ (LaunchRec.mk 0x4000 [0, 2 ^ 62]).kind = 1 ∧ (LaunchRec.mk 0x4000 [0, 0]).kind = 0)
    ∧ (let s := sRec fresh0 2 0 1;
      (∃ t, s.completeRecord 0 0x4000 2 false = (t, none)) ∧ (∃ t x, s.translate 0 0 .read false 0x4000 = (t, .ok x))
      ∧ (s.homeRead (Req.firmware 0) (0x4000 + 88) 16 true).2.2 = false
      ∧ (∃ t x, (s.homeRead (Req.firmware 0) (0x4000 + 88) 16 true).1.translate 0 0 .write false (0x4000 + 120) = (t, .ok x))
      ∧ (∃ t x, s.translate 0 0 .rmw true 0x5000 = (t, .ok x)) ∧ (∃ t x, s.translate 0 0 .write true 0x5000 = (t, .ok x))
      ∧ (s.homeAtomic (Req.firmware 0) 0x5000 8).2 = false ∧ (s.homeAtomic (Req.firmware 0) 0x5000 8).1.extentBad 0x5000 8 = false)
    ∧ ((on { g0 with wait := .trap }).gang? 0).map Gang.wait = some .trap := by
  refine ⟨⟨by decide, by decide, rfl, rfl, by decide⟩, ⟨by decide, by decide, by decide, by decide +kernel⟩, by decide, by decide, ⟨rfl, by decide⟩,
    ⟨rfl, _, rfl, by decide⟩, ⟨by decide, by decide, by decide +kernel, by decide +kernel, by decide +kernel, by decide +kernel, by decide +kernel⟩,
    ⟨rfl, by decide +kernel, by decide +kernel⟩, ?_, by decide, ⟨none_of _ (by decide +kernel), ok_of _ (by decide +kernel), by decide +kernel,
      ok_of _ (by decide +kernel), ok_of _ (by decide +kernel), ok_of _ (by decide +kernel), by decide +kernel, by decide +kernel⟩, rfl⟩
  intro k hk
  simp only [List.mem_cons, List.not_mem_nil, or_false] at hk
  obtain rfl | rfl | rfl := hk <;> exact ⟨by decide +kernel, by decide +kernel, by decide +kernel, none_of _ (by decide +kernel)⟩


/-! ## Registers, the command port, the start, the mailbox -/

/-- Each bound of a register from both sides; an offset of each kind; a virtual device that does not exist. -/
theorem witness_RegisterWrites :
    sOpen.vdevLive 0 = true ∧ sOpen.up = true ∧ s0.vdevLive 0 = false ∧ s0.up = true
    ∧ (let fits := fun (x align : Nat) => x % align = 0 ∧ x < 2 ^ 57;
      fits (2 ^ 57 - 128) 128 ∧ ¬fits (2 ^ 57) 128 ∧ ¬fits 64 128 ∧ fits 0 128 ∧ fits 4096 4096 ∧ ¬fits 2048 4096 ∧ fits 65536 65536 ∧ ¬fits 32768 65536)
    ∧ (7 ≤ 7 ∧ 7 ≤ 16) ∧ (7 ≤ 16 ∧ 16 ≤ 16) ∧ ¬(7 ≤ 6 ∧ 6 ≤ 16) ∧ ¬(7 ≤ 17 ∧ 17 ≤ 16)
    ∧ (∀ c ∈ [0, 7], c < 8) ∧ (∀ w ∈ [0, 15], w < 16)
    ∧ (∀ off ∈ [0x008, 0x050, 0x110, 0x3FF, 0x500], (∀ c, c < 8 → off ≠ 0x010 + 8 * c) ∧ off ∉ [0x100, 0x108, 0x118, 0x200]
      ∧ ∀ w, w < 16 → off ≠ 0x400 + 16 * w ∧ off ≠ 0x408 + 16 * w) := by
  refine ⟨by decide, by decide, by decide, by decide, by decide, by decide, by decide, by decide, by decide, by decide, by decide, ?_⟩
  intro off h
  simp only [List.mem_cons, List.not_mem_nil, or_false] at h
  obtain rfl | rfl | rfl | rfl | rfl := h <;> exact ⟨fun c h => by omega, by decide, fun w h => by omega⟩

/-- The machine with every partition in service. -/
def live (s : State) : State := { s with pkg := { s.pkg with parts := 0xFFF } }
/-- A gang parked on its word, or trapped, with a record written as SEQ 5. -/
def kPort : Park := ⟨1, [(⟨0x03, 0x7000, 0, 0, 0, 0, 1⟩, 1)], true, [⟨7, 5, 1⟩], false⟩
def sPark (w : Wait) : State := live <| on { g0 with wait := w, park := some kPort }
/-- The same, its workgroup saved. -/
def sParkSaved : State := live <| mach { g0 with wait := .scalarPark, park := some kPort } placedGrid { placedWg with stage := .saved } [] []
/-- A load outstanding for address space 0, and a flush or a cluster's reset under way since 0. -/
def sFlush (now : Nat) : State :=
  { (on { g0 with pend := [pend0] }).modPart 0 fun P => { P with port := ⟨false, false, some ⟨0, 0, [(0, 0)]⟩, none⟩ } with now := now }
def sClreset (k now : Nat) : State := { s0.modPart 0 fun P => { P with port := ⟨false, false, none, some (k, 0)⟩ } with now := now }

theorem portFree (s : State) (h : s.stopped 0 = false ∧ s.inService 0 = true ∧ (s.part 0).port.drain = none ∧ (s.part 0).port.reset = none) : s.PortFree 0 :=
  ⟨h.1, h.2.1, h.2.2.1, h.2.2.2⟩

/-- Address spaces 7 and 8; a flush that waits and one that does not; the last and the first page that PGCLEAN takes and refuses; no record,
and one of an agent of each kind; a halted port; both sides of the two time limits; clusters 8 and 9. -/
theorem witness_PortCommands :
    (live s0).PortFree 0 ∧ s0.inService 0 = false ∧ (7 / 8 = 0 ∧ 8 / 8 ≠ 0)
    ∧ ((live (on { g0 with pend := [pend0] })).PortFree 0 ∧ (∃ w ∈ (live (on { g0 with pend := [pend0] })).accesses 0 fun G x => decide (G.vnum = 0) && x.accessing,
        (live (on { g0 with pend := [pend0] })).outstanding w = true)
      ∧ (∀ w ∈ (live s0).accesses 0 fun G x => decide (G.vnum = 0) && x.accessing, (live s0).outstanding w = false))
    ∧ ((3 < 4 ∧ (2 ^ 40 - 2 ^ 18) < 2 ^ 40 ∧ (2 ^ 40 - 2 ^ 18) * 4096 % 2 ^ 30 = 0) ∧ (4 ≤ 4 ∧ 2 ^ 40 ≤ 2 ^ 40 ∧ 1 * 4096 % 65536 ≠ 0))
    ∧ (live s0).parkedBy 0 5 = none
    ∧ (∀ w ∈ [Wait.scalarPark, .trap], (sPark w).PortFree 0 ∧ (sPark w).parkedBy 0 5 = some (.scalar 0) ∧ (sPark w).parkOf (.scalar 0) = some kPort
      ∧ (sPark w).agentSaved (.scalar 0) = false ∧ ∃ G, (sPark w).gang? 0 = some G ∧ G.wait = w)
    ∧ (sParkSaved.PortFree 0 ∧ sParkSaved.parkedBy 0 5 = some (.scalar 0) ∧ sParkSaved.agentSaved (.scalar 0) = true)
    ∧ (kPort.recs.find? fun r => decide (r.seq = 5)) = some ⟨7, 5, 1⟩
    ∧ ((pageGroups kPort.faults).find? fun f => decide (f.1.va / 4096 = 7)) = some (⟨0x03, 0x7000, 0, 0, 0, 0, 1⟩, 1)
    ∧ sHalting.stopped 0 = true ∧ State.reset.up = false
    ∧ (∀ now ∈ [18799, 18800], (sFlush now).stopped 0 = false ∧ ((sFlush now).part 0).port.drain = some ⟨0, 0, [(0, 0)]⟩ ∧ (sFlush now).outstanding (0, 0) = true)
    ∧ ((sFlush 18799).now < 0 + 18800 ∧ 0 + 18800 ≤ (sFlush 18800).now ∧ s0.outstanding (0, 0) = false)
    ∧ (∀ k ∈ [0, 8], ((sClreset k 9).part 0).port.reset = some (k, 0) ∧ k < 9)
    ∧ (sClreset 0 (2 ^ 20 - 1)).onCluster 0 ≠ [] ∧ (sClreset 0 (2 ^ 20 - 1)).now < 0 + 2 ^ 20 ∧ 0 + 2 ^ 20 ≤ (sClreset 0 (2 ^ 20)).now
    ∧ (sClreset 8 9).onCluster 8 = [] := by
  refine ⟨portFree _ (by decide), by decide, by decide, ⟨portFree _ (by decide), ⟨(0, 0), by decide, by decide⟩, by decide⟩, by decide, by decide, ?_,
    ⟨portFree _ (by decide), by decide, by decide⟩, by decide, by decide, by decide, by decide, by decide, by decide, by decide, by decide, by decide,
    by decide, by decide⟩
  intro w hw
  simp only [List.mem_cons, List.not_mem_nil, or_false] at hw
  obtain rfl | rfl := hw <;> exact ⟨portFree _ (by decide), by decide, by decide, by decide, _, rfl, rfl⟩

/-- A start whose images are all refused: production-signed ones behind a blown debug fuse. -/
def badFacts : BootFacts := { BootFacts.good with production := true }
def sBoot : State := { State.reset with pkg := { State.reset.pkg with facts := [badFacts, badFacts, badFacts], debugFuse := true } }
def stageWg (st : Stage) (ctx : Option Nat) (saved : Bool) : State := mach g0 placedGrid { placedWg with stage := st, ctx := ctx, saved := saved } [] []

/-- Three bad attempts; every power but off; a workgroup at each stage of its return; both sides of a period; a bucket of another arbiter. -/
theorem witness_StartAndLifecycle :
    (State.reset.pkg.power = .starting ∧ State.reset.pkg.facts = [] ∧ State.reset.pkg.debugFuse = false ∧ State.reset.pkg.svnFuse = 0 ∧ State.reset.pkg.romKey = 0)
    ∧ (sBoot.pkg.power = .starting ∧ sBoot.pkg.facts = badFacts :: badFacts :: badFacts :: [] ∧ badFacts.signed sBoot.pkg.romKey sBoot.pkg.debugFuse = false)
    ∧ (BootFacts.good.signed 0 true = false ∧ State.reset.pkg.power ≠ .off)
    ∧ (∀ w ∈ [Power.starting, .running, .minimal, .dead], ({ s0 with pkg := { s0.pkg with power := w } } : State).pkg.power ≠ .off)
    ∧ ((s0.cluster 0).gated = false ∧ ((s0.modCluster 0 fun K => { K with gated := true }).cluster 0).gated = true)
    ∧ ({ s0 with wgs := [] } : State).stopped (107 / 9) = false ∧ ({ s0 with wgs := [] } : State).clusterIdle 107 = true
    ∧ ((on g0).wg? 0 = some placedWg ∧ (on g0).stopped (placedWg.core / 36) = false ∧ (on g0).grid? placedWg.grid = some placedGrid ∧ placedGrid.coh = 0
      ∧ placedWg.stage = .running)
    ∧ ((stageWg .saving (some 1) false).wgSaveReady 0 { placedWg with stage := .saving, ctx := some 1 } = true
      ∧ (((stageWg .saving (some 1) false).wgs.filter fun kv => decide (kv.2.ctx = some 1) && decide (kv.2.stage = .saving)).map Prod.fst) = [0]
      ∧ (mach { g0 with pend := [pend0] } placedGrid { placedWg with stage := .saving, ctx := some 1 } [] []).wgSaveReady 0
        { placedWg with stage := .saving, ctx := some 1 } = false)
    ∧ ((stageWg .setup none true).waysReady 0 { placedWg with stage := .setup, saved := true } = true
      ∧ (∀ g ∈ placedWg.gangs, ∀ G, (stageWg .setup none true).gang? g = some G → G.pendingReplays g = []))
    ∧ sOpen.vdevLive 0 = true ∧ s0.vdevLive 0 = false
    ∧ (({ s0 with now := 1023 } : State).now < (SMap.getD 0 0 s0.periods + 1) * 1024 ∧ (SMap.getD 0 0 s0.periods + 1) * 1024 ≤ ({ s0 with now := 1024 } : State).now)
    ∧ (∀ key ∈ [0, 128], SMap.find? key ({ s0 with buckets := [(0, ⟨1, 0, 0, 0, 0, false⟩), (128, ⟨1, 0, 0, 0, 0, false⟩)] } : State).buckets
        = some ⟨1, 0, 0, 0, 0, false⟩) ∧ 0 / 128 = 0 ∧ 128 / 128 ≠ 0 := by
  refine ⟨by decide, ⟨rfl, rfl, Bool.and_false _⟩, ⟨Bool.and_false _, by decide⟩, by decide, by decide, by decide, by decide, ⟨rfl, by decide, rfl, by decide, by decide⟩, by decide, ⟨by decide, ?_⟩, by decide, by decide,
    by decide, by decide, by decide, by decide⟩
  intro g hg G hG
  simp only [placedWg, List.mem_cons, List.not_mem_nil, or_false] at hg
  subst hg
  have h : (stageWg .setup none true).gang? 0 = some g0 := rfl
  rw [h] at hG
  cases hG
  rfl

/-- A mailbox that every partition answers, a partition halted, virtual device 0 live. -/
def sMail : State := { sOpen with pkg := { s0.pkg with parts := 0xFFF, aka := some (7, 1, 9) } }
/-- The same, at work; with partition 0 halted; with 1024 reports made. -/
def sMailHalted : State := sMail.modPart 0 fun P => { P with halting := true, halted := true }

/-- Partitions off and on; the largest legal sums and the first beyond; a sprue held by another; each report limit; sectors idle and at work. -/
theorem witness_MailboxRequests :
    (s0.up = true ∧ ({ s0 with pkg := { s0.pkg with parts := 0xFFE } } : State).pkg.parts / 2 ^ 0 % 2 = 0 ∧ sMail.up = true ∧ sMail.pkg.parts / 2 ^ 11 % 2 = 1)
    ∧ ((∀ w ∈ ([(1 : Nat) * 2 ^ 32 + 992, 2 ^ 32 + 16] : List Nat).zipIdx, rateOk w.2 w.1 = true)
      ∧ sumsOk [(0, ⟨true, false, [992, 16]⟩)] = true ∧ sumsOk [(0, ⟨true, false, [993, 16]⟩)] = false ∧ sumsOk [(0, ⟨true, false, [992, 17]⟩)] = false)
    ∧ ((sMail.entry 0).en = true ∧ sMail.vdevBusy 0 = true ∧ (sMail.part 0).sprues = [] ∧ ((2 ^ 63 : Nat) % 2 ^ 62 = 0 ∧ (2 ^ 61 : Nat) % 2 ^ 62 ≠ 0))
    ∧ (∃ n ∈ [3], ∃ u, SMap.find? n ((sMail.modPart 0 fun P => { P with sprues := [(3, 1)] }).part 0).sprues = some u ∧ u ≠ 0)
    ∧ ((List.replicate 11 85 ++ [89]).sum = 1024 ∧ (List.replicate 11 85 ++ [90]).sum = 1025)
    ∧ (stackOf 0x1000000000 = some 1 ∧ (1 : Nat) ≠ 0 ∧ 0x1000000000 < 0x1F00000000 ∧ 0x1F00000000 ≤ stackBase 1 + 0xF00000000)
    ∧ ((sMail.part 0).halted = false ∧ (sMailHalted.part 0).halted = true)
    ∧ (sMail.pkg.aka = some (7, 1, 9) ∧ s0.pkg.aka = none ∧ 1023 < 1024 ∧ 1024 ≤ ({ s0.pkg with reports := 1024 } : Package).reports)
    ∧ ((0x8000000F : Word).toNat / 2 ^ 4 % 2 ^ 27 = 0 ∧ sMail.holdsWork 0 = true ∧ sMail.holdsWork 1 = false ∧ (sMailHalted.part 0).halted = true)
    ∧ State.reset.up = false ∧ State.reset.pkg.power ≠ .off ∧ State.reset.pkg.power ≠ .dead
    ∧ (({ State.reset with pkg := { State.reset.pkg with power := .dead } } : State).pkg.power = .dead ∧ SidebandItem.temperaturesAndPower ≠ .bootStatus) := by
  refine ⟨by decide, by decide, by decide, ⟨3, by decide, 1, by decide, by decide⟩, by decide, by decide, by decide, by decide, by decide, by decide, by decide, by decide, by decide⟩

/-! ## The whole machine -/

/-- A table for each level at 0x105000 - 0x1000 * level, and the entry `x` for address 0 in the one of level `L`. -/
def sWalk (L x : Nat) : State :=
  { State.reset with
    mem := (List.range 6).foldl (fun m n =>
      if L < n then Memory.write m (0x105000 - 0x1000 * n) (toBytes 8 (0x106001 - 0x1000 * n))
      else if n = L then Memory.write m (0x105000 - 0x1000 * n) (toBytes 8 x) else m) []
    ctxs := [(0, ⟨true, 0x100000, 0, []⟩)] }

/-- No translation at the first and the last level; a reserved bit, a leaf too high, a table too low, a page not aligned; a leaf to migrate and leaves
with each right and none, at each level. -/
theorem witness_TranslationWalk :
    (0x01FFFFEFFFFFFFFF < 0x01FFFFF000000000 ∧ (s0.ctx 1).en = false ∧ (s0.ctx 1).prior = [] ∧ (s0.cluster 0).tlb = [] ∧ (s0.cluster 0).walk = [])
    ∧ (∀ Lx ∈ [((5, 0) : Nat × Nat), (1, 0xE0), (5, 0x8000000000000001), (4, 0x81), (1, 1), (2, 0x1081), (3, 0x2000100000000081), (1, 0x1E1), (2, 0x2001A1),
        (3, 0x40000081)],
      let s := sWalk Lx.1 Lx.2
      let T := fun n => 0x105000 - 0x1000 * n
      let e := fun n => s.read64 (T n + 8 * (0 / 2 ^ (3 + 9 * n) % 512))
      (s.ctx 0).prior = [] ∧ (s.cluster 0).tlb = [] ∧ (s.cluster 0).walk = [] ∧ (s.ctx 0).en = true ∧ T 5 = (s.ctx 0).root ∧ 1 ≤ Lx.1 ∧ Lx.1 ≤ 5
      ∧ (∀ n, n ≤ 5 → Lx.1 ≤ n → partOfVnum 0 * 0x1000000000 ≤ T n ∧ T n + 4096 ≤ partOfVnum 0 * 0x1000000000 + 0xF00000000)
      ∧ (∀ n, n ≤ 5 → Lx.1 < n → e n < 2 ^ 52 ∧ e n % 4096 = 1 ∧ T (n - 1) = e n / 4096 * 4096) ∧ e Lx.1 = Lx.2)
    ∧ (tierOf 0x100000000000).isSome = true
    ∧ (∀ L x n, (sWalk L x).held = [] ∧ (sWalk L x).cellsOf n = [])
    ∧ (∀ L x a, 0x100000 ≤ a → a + 8 ≤ 0x105000 → ∀ q,
        let raised := stackBase q + ((sWalk L x).part q).ctrPage + 0x108
        a + 8 ≤ raised ∨ raised + 8 ≤ a) := by
  refine ⟨by decide +kernel, by decide +kernel, by decide, fun L x n => ⟨rfl, rfl⟩, ?_⟩
  intro L x a h1 h2 q
  have h3 : ((sWalk L x).part 0).ctrPage = 0x42000 := rfl
  rcases q with _ | q
  · simp only [h3, stackBase]
    omega
  · simp only [stackBase]
    omega

theorem witness_ScalarFrame :
    s0.ScalarTurn g0 (.sadd 127 0 127) ∧ s0.ScalarTurn g0 (.saddB64 126 0 126) ∧ s0.ScalarTurn g0 (.bz 7 0x4000) ∧ s0.ScalarTurn g0 (.mmov 7 0 false)
    ∧ (∃ t, exec (.sadd 127 0 127) s0 = .next t) :=
  ⟨turn_scalar _ rfl, turn_scalar _ rfl, turn_scalar _ rfl, turn_scalar _ rfl, _, rfl⟩

theorem witness_LaneWordFrame :
    (on gRun).gang? (on gRun).cur = some gRun ∧ (on gRun).stopped (partOfVnum gRun.vnum) = false
    ∧ (∃ t, exec (.iadd w3) (on gRun) = .next t ∧ t.stopped (partOfVnum gRun.vnum) = false) :=
  ⟨rfl, rfl, _, rfl, by decide +kernel⟩

/-- Either side of the queue's record; a partition that runs and one that halts; a parking fault, the first and the last halting ones; a word. -/
theorem witness_TakingAFault :
    (let at' := stackBase 0 + (s0.part 0).fqBase + 64 * ((s0.part 0).fqProd % 4096);
      at' + 63 < at' + 64 ∧ at' + 64 ≤ at' + 64 ∧ 0x1A < 256 ∧ 7 < 8
      ∧ ∀ q, let raised := stackBase q + (s0.part q).ctrPage + 0x108; at' + 64 ≤ raised ∨ raised + 8 ≤ at')
    ∧ s0.stopped 0 = false ∧ sHalting.stopped 0 = true ∧ s0.gang? 0 = some g0
    ∧ ((s0.part 0).backlog = [] ∧ (s0.part 0).fqProd < (s0.part 0).fqCons + 4096 ∧ isHost 0 = false)
    ∧ (let P := ((s0.modPart 0 fun P => { P with fqProd := 4096 }).part 0); ¬(P.backlog = [] ∧ P.fqProd < P.fqCons + 4096)) ∧ ¬(0x10 ≤ 0x0F ∧ 0x0F ≤ 0x1A) ∧ (0x10 ≤ 0x10 ∧ 0x1A ≤ 0x1A)
    ∧ ¬(0x10 ≤ 0x1B ∧ 0x1B ≤ 0x1A) ∧ sHalting.gang? sHalting.cur = some g0 ∧ sHalting.stopped (partOfVnum g0.vnum) = true ∧ encode (.nop) ≠ [] :=
  by
  refine ⟨⟨by decide, by decide, by decide, by decide, fun q => ?_⟩, by decide, by decide, rfl, by decide, by decide, by decide, by decide, by decide, rfl, by decide, by decide⟩
  have h3 : (s0.part 0).ctrPage = 0x42000 := rfl
  have h4 : stackBase 0 + (s0.part 0).fqBase + 64 * ((s0.part 0).fqProd % 4096) = 0 := by decide
  rcases q with _ | q
  · simp only [h3, h4, stackBase]; omega
  · simp only [h4, stackBase]; omega

/-- An L1 line at address 0x4000, and the last byte of it. -/
def sHit : State := s0.modCore 0 fun c => { c with lines := [⟨0, 0x4000, 0, 0, 0x4000, true, 15, [], 0, false, [], 0, 0, false, 0, false, 0, false, false, []⟩] }

theorem witness_MemoryReadsBack :
    (5 ≤ 5 ∧ 5 < 5 + [(1 : Byte)].length ∧ ¬(5 ≤ 6 ∧ 6 < 5 + [(1 : Byte)].length)) ∧ 255 < 2 ^ (8 * 1)
    ∧ ([1, 2] : List Nat).Pairwise (· < ·)
    ∧ (64 * 1 < 64 + [(1 : Byte)].length ∧ 64 < 64 * 1 + 64 ∧ ¬(64 * 2 < 64 + [(1 : Byte)].length)) ∧ [(1 : Byte)] ≠ []
    ∧ (64 ≤ 64 * 1 ∧ 64 * 1 + 64 ≤ 64 + (List.replicate 64 (1 : Byte)).length ∧ ¬(64 * 1 + 64 ≤ 64 + [(1 : Byte)].length))
    ∧ sHit.held = [] ∧ ((sHit.core 0).line? 0 (sHit.ctx 0).gen 0x40FF).isSome = true
    ∧ (∀ l, (sHit.core 0).line? 0 (sHit.ctx 0).gen 0x40FF = some l → l.wp = true) ∧ 0x40FF % 256 + [(1 : Byte)].length ≤ 256
    ∧ (¬(0x4000 ≤ 0x4001 ∧ 0x4001 < 0x4000 + [(1 : Byte)].length) ∧ (∀ q, ¬(stackBase q + (s0.part q).ctrPage + 0x108 ≤ 0x4001 ∧
        0x4001 < stackBase q + (s0.part q).ctrPage + 0x108 + 8)) ∧ s0.cellsOf (0x4000 / 256) = []) := by
  refine ⟨by decide, by decide, by decide, by decide, by decide, by decide, rfl, by decide, ?_, by decide, by decide, fun q => ?_, by decide⟩
  · intro l h
    have h2 : (sHit.core 0).line? 0 (sHit.ctx 0).gen 0x40FF = some ⟨0, 0x4000, 0, 0, 0x4000, true, 15, [], 0, false, [], 0, 0, false, 0, false, 0, false, false, []⟩ := by decide
    rw [h2] at h
    cases h
    rfl
  · have h3 : (s0.part 0).ctrPage = 0x42000 := rfl
    rcases q with _ | q
    · simp only [h3, stackBase]; omega
    · simp only [stackBase]; omega

/-- A quarter that has issued a scalar word in this clk. -/
def sTaken : State := s0.modCore 0 fun c => { c with qtrs := [(0, { Quarter.init with taken := [(0, 0, 5)] })] }

/-- A scalar word and one that decodes to nothing; a lane word and one; an event; the clock; an empty agenda. -/
theorem witness_StepRunsTheWord :
    (s0.agenda = .scalar 0 :: [] ∧ (s0.asking (.scalar 0)).chosen 0 g0 scalarStream = true ∧ (sTaken.asking (.scalar 0)).chosen 0 g0 scalarStream = false ∧ g0.wait ≠ .formatImage ∧ s0.gang? 0 = some g0 ∧ s0.scalarReady g0 = true
      ∧ ((State.reset.withFetchWord 32 0xE8000000).fetchScalar g0).2.toOption = some 0xE8000000
      ∧ (decodeScalar 0xE8000000).toOption = some .nop ∧ (decodeScalar 0xFFFFFFFF).toOption = none
      ∧ ((on { g0 with pc := 2 ^ 40 }).fetchScalar { g0 with pc := 2 ^ 40 }).2.toOption = none)
    ∧ ((s0.translate (clusterOf g0.place.core) g0.vnum .fetch false g0.pc).2.toOption.isSome = true
      ∧ (∀ D, s0.grid? g0.grid = some D → SMap.find? (2 * g0.pc) D.code = none))
    ∧ (({ on gRun with agenda := [.lane 0] } : State).agenda = .lane 0 :: [] ∧ gRun.runs = r0 :: [] ∧ ((on gRun).asking (.lane 0)).chosen 0 gRun laneStream = true
      ∧ ((on gRun).rivals 0 gRun = [] ∧ ((on gRun).quarter 0 0).room (0 % 16) gRun.pipe = true) ∧ (on gRun).laneReady gRun r0 = true
      ∧ (decodeLane 0).toOption.isSome = true ∧ (decodeLane (BitVec.ofNat 96 (0xFF * 2 ^ 88))).toOption = none)
    ∧ (encode (.loadComplete 0 0) = [] ∧ (Instr.loadComplete 0 0).wf = true) ∧ ({ s0 with agenda := [.clk] } : State).agenda = .clk :: []
    ∧ ({ s0 with gangs := [] } : State).wordsLeft = false ∧ (on gRun).wordsLeft = true ∧ gRun.wait ≠ .formatImage
    ∧ ({ g0 with wait := .formatImage } : Gang).wait = .formatImage ∧ ({ g0 with life := .exited } : Gang).wait ≠ .formatImage
    ∧ (on { g0 with life := .exited }).scalarReady { g0 with life := .exited } = false
    ∧ ({ s0 with agenda := [] } : State).agenda = [] := by
  refine ⟨⟨rfl, by decide +kernel, by decide +kernel, by decide, rfl, rfl, by decide +kernel, by decide, by decide, by decide +kernel⟩, ⟨by decide +kernel, ?_⟩, ⟨rfl, rfl, by decide +kernel, by decide +kernel, rfl, by decide, by decide⟩, by decide, rfl, by decide +kernel, by decide +kernel, by decide, rfl, by decide, by decide, rfl⟩
  intro D h
  have h2 : s0.grid? 0 = some { placedGrid with image := s0.mem } := rfl
  rw [show g0.grid = 0 from rfl, h2] at h
  cases h
  rfl

theorem witness_DecodeInvertsEncode :
    (Instr.nop).wf = true ∧ encode .nop = [0xE8000000] ∧ (Instr.iadd w3).wf = true ∧ (encode (.iadd w3)).length = 3
    ∧ (Instr.loadComplete 0 0).wf = true ∧ encode (.loadComplete 0 0) = [] := by decide

/-- A step from a state whose memory, sidecar and marks list something. -/
theorem witness_EveryStepKeepsCanon :
    (let s : State := { s0 with side := [(5, 1)], bad := [1, 7], sideBad := [2] };
      s.Canon ∧ ∃ t, step s = .next t) := by
  refine ⟨⟨by decide +kernel, by decide, by decide, by decide⟩, ?_⟩
  have h : (match step ({ s0 with side := [(5, 1)], bad := [1, 7], sideBad := [2] } : State) with | .next _ => true | _ => false) = true := by decide +kernel
  split at h
  · exact ⟨_, ‹_›⟩
  · cases h


/-! ## One step each, with results worked out by hand -/

/-- The placed gang with two scalar registers, after one word. -/
def after (a b : Word) (i : Instr) : Option Gang :=
  match exec i (on { g0 with s := [(2, a), (4, b)] }) with
  | .next t => t.gang? 0
  | _ => none
def sAfter (a b : Word) (i : Instr) (d : Nat) : Option Nat := (after a b i).map fun G => (G.sreg d).toNat

theorem test_sadd_wraps : sAfter 0xFFFFFFFF 2 (.sadd 6 2 4) 6 = some 1 := by decide +kernel
theorem test_ssub_order : sAfter 5 7 (.ssub 6 2 4) 6 = some 0xFFFFFFFE := by decide +kernel
theorem test_smulh_signed : sAfter 0xFFFFFFFF 2 (.smulh 6 2 4) 6 = some 0xFFFFFFFF := by decide +kernel
theorem test_smulh_unsigned : sAfter 0xFFFFFFFF 2 (.smulhN32 6 2 4) 6 = some 1 := by decide +kernel
theorem test_ssra_keeps_sign : sAfter 0x80000000 31 (.ssra 6 2 4) 6 = some 0xFFFFFFFF := by decide +kernel
theorem test_smin_signed : sAfter 0xFFFFFFFF 1 (.smin 6 2 4) 6 = some 0xFFFFFFFF := by decide +kernel
theorem test_smin_unsigned : sAfter 0xFFFFFFFF 1 (.sminN32 6 2 4) 6 = some 1 := by decide +kernel
theorem test_sbrev : sAfter 1 0 (.sbrev 6 2) 6 = some 0x80000000 := by decide +kernel
theorem test_saddi_negative : sAfter 5 0 (.saddi 6 2 0xFFF) 6 = some 4 := by decide +kernel
theorem test_saddi_b64_carries : sAfter 0xFFFFFFFF 0 (.saddiB64 6 2 1) 7 = some 1 := by decide +kernel
theorem test_jmp_backwards : (after 0 0 (.jmp 0x7FFF)).map Gang.pc = some 0xFFC := by decide +kernel
theorem test_bad_word_parks : (s0.illegalScalar g0 0).stopped 0 = true := by decide +kernel

end Sys2Proof.Tests
end

section
/-! SUPPORT. What accesses at a home, translations, fault records and fetches leave alone: the rest of the machine, said once each. -/

namespace Sys2Proof.Machine

/-! ## What an access at a home leaves alone -/

/-- A state without what an access at a home may change: memory with its sidecar, poison, slices, shadow cells and tags, the tokens, the
packets lost, what the turn has asked and found, and the counter of free values (R317, R425 to R435, R442 to R447). -/
def State.beyondHomes (s : State) : State :=
  { s with mem := [], side := [], bad := [], sideBad := [], slices := [], cells := [], tags := [], buckets := [], periods := [],
           lost := [], queued := [], ask := Asking.none, found := [], fresh := 0 }

/-- What no step over a list changes, the whole list does not change. -/
theorem foldl_keeps {α β γ : Type} (p : β → γ) (f : β → α → β) (l : List α) (h : ∀ b, ∀ a ∈ l, p (f b a) = p b) (b : β) :
    p (l.foldl f b) = p b := by
  induction l generalizing b with
  | nil => rfl
  | cons a l ih => rw [List.foldl_cons, ih fun b x hx => h b x (List.mem_cons_of_mem a hx), h b a List.mem_cons_self]

/-- A step that leaves the rest alone, taken for every entry of a list. -/
theorem State.beyondHomes_foldl {α : Type} (f : State → α → State) (hf : ∀ s a, (f s a).beyondHomes = s.beyondHomes) (l : List α)
    (s : State) : (l.foldl f s).beyondHomes = s.beyondHomes := foldl_keeps State.beyondHomes f l (fun s a _ => hf s a) s

theorem State.SameButTokens.beyondHomes {s t : State} (h : s.SameButTokens t) : t.beyondHomes = s.beyondHomes := by
  obtain ⟨_, _, _, _, rfl⟩ := h
  rfl

@[simp] theorem State.beyondHomes_charge (s : State) (arb holder n : Nat) : (s.charge arb holder n).beyondHomes = s.beyondHomes :=
  (s.charge_tokens arb holder n).beyondHomes

@[simp] theorem State.beyondHomes_chargeLater (s : State) (arb holder n : Nat) :
    (s.chargeLater arb holder n).beyondHomes = s.beyondHomes := (s.chargeLater_tokens arb holder n).beyondHomes

@[simp] theorem State.beyondHomes_chargeRing (s : State) (holder a b n : Nat) :
    (s.chargeRing holder a b n).beyondHomes = s.beyondHomes := (s.chargeRing_tokens holder a b n).beyondHomes

@[simp] theorem State.beyondHomes_chargeRingLater (s : State) (holder a b n : Nat) :
    (s.chargeRingLater holder a b n).beyondHomes = s.beyondHomes :=
  State.beyondHomes_foldl _ (fun s _ => s.beyondHomes_chargeLater _ _ _) _ s

@[simp] theorem State.beyondHomes_chargeLink (s : State) (link dir holder n : Nat) :
    (s.chargeLink link dir holder n).beyondHomes = s.beyondHomes := s.beyondHomes_charge _ _ _

@[simp] theorem State.beyondHomes_send (s : State) (r : Req) (sector n : Nat) : (s.send r sector n).beyondHomes = s.beyondHomes := by
  unfold State.send
  split <;> simp

@[simp] theorem State.beyondHomes_reply (s : State) (r : Req) (sector n : Nat) : (s.reply r sector n).beyondHomes = s.beyondHomes :=
  s.beyondHomes_chargeRing _ _ _ _

@[simp] theorem State.beyondHomes_setSectorBad (s : State) (sec : Nat) (b : Bool) :
    (s.setSectorBad sec b).beyondHomes = s.beyondHomes := (rfl)

@[simp] theorem State.beyondHomes_setSideBad (s : State) (line : Nat) (b : Bool) :
    (s.setSideBad line b).beyondHomes = s.beyondHomes := (rfl)

@[simp] theorem State.beyondHomes_modSlice (s : State) (line : Nat) (f : SliceLine → SliceLine) :
    (s.modSlice line f).beyondHomes = s.beyondHomes := (rfl)

@[simp] theorem State.beyondHomes_dropCells (s : State) (pa n : Nat) : (s.dropCells pa n).beyondHomes = s.beyondHomes := by
  unfold State.dropCells
  split <;> rfl

@[simp] theorem State.beyondHomes_lay (s : State) (pa : Nat) (bs : List Byte) : (s.lay pa bs).beyondHomes = s.beyondHomes := by
  unfold State.lay
  dsimp only
  split
  · rfl
  · exact State.beyondHomes_foldl _ (fun s _ => by simp) _ s

@[simp] theorem State.beyondHomes_writePa (s : State) (pa : Nat) (bs : List Byte) (p : Bool) :
    (s.writePa pa bs p).beyondHomes = s.beyondHomes := by
  unfold State.writePa
  dsimp only
  split
  · simp
  · rw [State.beyondHomes_foldl]
    · simp
    · intro s i
      repeat' split
      all_goals simp

@[simp] theorem State.beyondHomes_writeSide (s : State) (line j : Nat) (bs : List Byte) :
    (s.writeSide line j bs).beyondHomes = s.beyondHomes :=
  State.beyondHomes_foldl (fun (s : State) (i : Nat) => s.modSlice line fun l => l.maskSide s.side (j + i)) (fun s _ => by simp)
    (List.range bs.length) s

@[simp] theorem State.beyondHomes_dropReplica (s : State) (key line : Nat) : (s.dropReplica key line).beyondHomes = s.beyondHomes := (rfl)

@[simp] theorem State.beyondHomes_dropSharers (s : State) (line sharers : Nat) :
    (s.dropSharers line sharers).beyondHomes = s.beyondHomes := by
  refine State.beyondHomes_foldl _ (fun s i => ?_) _ s
  split <;> simp

@[simp] theorem State.beyondHomes_dropReplicas (s : State) (pa : Nat) : (s.dropReplicas pa).beyondHomes = s.beyondHomes := by
  unfold State.dropReplicas
  dsimp only
  split <;> simp

@[simp] theorem State.beyondHomes_bump (s : State) (p off n : Nat) : (s.bump p off n).beyondHomes = s.beyondHomes := by
  simp [State.bump]

@[simp] theorem State.beyondHomes_bringIn (s : State) (holder pa : Nat) : (s.bringIn holder pa).beyondHomes = s.beyondHomes := by
  unfold State.bringIn
  split
  · dsimp only
    split <;> simp
  · split <;> simp

@[simp] theorem State.beyondHomes_writeOut (s : State) (holder pa : Nat) : (s.writeOut holder pa).beyondHomes = s.beyondHomes := by
  unfold State.writeOut
  split
  · dsimp only
    split <;> simp
  · split <;> simp

@[simp] theorem State.beyondHomes_mergeIn (s : State) (holder pa : Nat) : (s.mergeIn holder pa).beyondHomes = s.beyondHomes := by
  unfold State.mergeIn
  split
  · dsimp only
    split <;> simp
  · rfl

@[simp] theorem State.beyondHomes_encodeStored (s : State) (line : Nat) : (s.encodeStored line).beyondHomes = s.beyondHomes := by
  unfold State.encodeStored
  dsimp only
  repeat' split
  all_goals rfl

@[simp] theorem State.beyondHomes_settlePoison (s : State) (l : SliceLine) : (s.settlePoison l).beyondHomes = s.beyondHomes := by
  have sectors := State.beyondHomes_foldl (fun (s : State) (i : Nat) =>
    if bits l.wm (64 * i + 63) (64 * i) = 0 then s.setSectorBad (4 * l.line + i) (bit l.oldBad i) else s)
    (fun s i => by split <;> simp) (List.range 4) s
  unfold State.settlePoison
  dsimp only
  split
  · simpa using sectors
  · exact sectors

@[simp] theorem State.beyondHomes_leave (s : State) (q : Nat) (l : SliceLine) : (s.leave q l).beyondHomes = s.beyondHomes := by
  unfold State.leave
  dsimp only
  repeat' split
  all_goals simp

@[simp] theorem State.beyondHomes_touchSet (s : State) (q key : Nat) (o : Option Nat) (line : Nat) (r : Bool) :
    (s.touchSet q key o line r).beyondHomes = s.beyondHomes := by
  unfold State.touchSet
  dsimp only
  split
  · rfl
  · split
    · rfl
    · rfl
    · rw [State.beyondHomes_leave]
      rfl

@[simp] theorem State.beyondHomes_takeLost (s : State) (link : Nat) : (s.takeLost link).1.beyondHomes = s.beyondHomes := by
  unfold State.takeLost
  split <;> rfl

@[simp] theorem State.beyondHomes_failFetch (s : State) (key line : Nat) : (s.failFetch key line).beyondHomes = s.beyondHomes := by
  refine State.beyondHomes_foldl _ (fun s i => ?_) _ s
  split <;> simp

@[simp] theorem State.beyondHomes_fetchLine (s : State) (r : Req) (q pa n : Nat) (side : Bool) :
    (s.fetchLine r q pa n side).beyondHomes = s.beyondHomes := by
  unfold State.fetchLine
  dsimp only
  split
  · simp
  · rw [State.beyondHomes_modSlice]
    split
    · simp
    · split
      all_goals
        rename_i e
        have := congrArg (State.beyondHomes ∘ Prod.fst) e
        simp at this
        simp [← this]

@[simp] theorem State.beyondHomes_flushCells (s : State) (line : Nat) : (s.flushCells line).beyondHomes = s.beyondHomes := by
  unfold State.flushCells
  split
  · rfl
  · exact State.beyondHomes_foldl _ (fun s _ => by simp) _ s

@[simp] theorem State.beyondHomes_reachRead (s : State) (r : Req) (pa n : Nat) (d side : Bool) :
    (s.reachRead r pa n d side).beyondHomes = s.beyondHomes := by
  unfold State.reachRead
  dsimp only
  repeat' split
  all_goals simp

@[simp] theorem State.beyondHomes_reachWrite (s : State) (r : Req) (pa n : Nat) : (s.reachWrite r pa n).beyondHomes = s.beyondHomes := by
  unfold State.reachWrite
  dsimp only
  split <;> simp

@[simp] theorem State.beyondHomes_writeThrough (s : State) (r : Req) (pa n : Nat) :
    (s.writeThrough r pa n).beyondHomes = s.beyondHomes := by
  unfold State.writeThrough
  dsimp only
  repeat' split
  all_goals simp

@[simp] theorem State.beyondHomes_dropStore (s : State) (r : Req) (pa : Nat) : (s.dropStore r pa).beyondHomes = s.beyondHomes := (rfl)

@[simp] theorem State.beyondHomes_foundBad (s : State) (p pa : Nat) (bad : Bool) : (s.foundBad p pa bad).beyondHomes = s.beyondHomes := by
  unfold State.foundBad
  split <;> rfl

/-- An access that may meet the loss of a packet on the host link. -/
@[simp] theorem State.beyondHomes_unlessLost (s : State) (lost : Bool) :
    (if lost then s.takeLost hostLink else (s, false)).1.beyondHomes = s.beyondHomes := by
  split
  · exact s.beyondHomes_takeLost _
  · rfl

@[simp] theorem State.beyondHomes_homeRead (s : State) (r : Req) (pa n : Nat) (d : Bool) :
    (s.homeRead r pa n d).1.beyondHomes = s.beyondHomes := by
  simp [State.homeRead]

@[simp] theorem State.beyondHomes_homeWrite (s : State) (r : Req) (pa : Nat) (bs : List Byte) (p : Bool) :
    (s.homeWrite r pa bs p).beyondHomes = s.beyondHomes := by
  have reached := (s.reachWrite r pa bs.length).beyondHomes_unlessLost (isHost pa)
  unfold State.homeWrite
  dsimp only
  generalize (if isHost pa then _ else _ : State × Bool) = l at reached ⊢
  split <;> simpa using reached

@[simp] theorem State.beyondHomes_countMany (s : State) (p off n : Nat) : (s.countMany p off n).beyondHomes = s.beyondHomes := by
  simp [State.countMany]

@[simp] theorem State.beyondHomes_count (s : State) (p off : Nat) : (s.count p off).beyondHomes = s.beyondHomes :=
  s.beyondHomes_countMany p off 1

/-! ## What a translation leaves alone -/

/-- A state without what a translated access may change besides: the translation caches of the clusters (R353 to R356). -/
def State.beyondAccess (s : State) : State := { s.beyondHomes with clusters := [] }

theorem State.beyondAccess_of_homes {s t : State} (h : t.beyondHomes = s.beyondHomes) : t.beyondAccess = s.beyondAccess :=
  congrArg (fun u : State => { u with clusters := [] }) h

@[simp] theorem State.beyondAccess_homeRead (s : State) (r : Req) (pa n : Nat) (d : Bool) :
    (s.homeRead r pa n d).1.beyondAccess = s.beyondAccess := State.beyondAccess_of_homes (s.beyondHomes_homeRead r pa n d)

@[simp] theorem State.beyondAccess_modCluster (s : State) (k : Nat) (f : Cluster → Cluster) :
    (s.modCluster k f).beyondAccess = s.beyondAccess := (rfl)

@[simp] theorem State.beyondAccess_fresh (s : State) (n : Nat) : ({ s with fresh := n } : State).beyondAccess = s.beyondAccess := (rfl)

@[simp] theorem State.beyondAccess_tableRead (s : State) (p addr n : Nat) : (s.tableRead p addr n).1.beyondAccess = s.beyondAccess :=
  State.beyondAccess_of_homes (by simp [State.tableRead])

@[simp] theorem State.beyondAccess_tableEntry (s : State) (k asid addr : Nat) :
    (s.tableEntry k asid addr).1.beyondAccess = s.beyondAccess := by
  unfold State.tableEntry
  dsimp only
  repeat' split
  all_goals simp

@[simp] theorem State.beyondAccess_leafEntry (s : State) (p addr e : Nat) : (s.leafEntry p addr e).1.beyondAccess = s.beyondAccess := by
  unfold State.leafEntry
  dsimp only
  repeat' split
  all_goals simp

theorem State.beyondAccess_walk (k p asid gen va acc n : Nat) : ∀ (s : State) (table : Nat),
    (s.walk k p asid gen va acc n table).1.beyondAccess = s.beyondAccess := by
  induction n with
  | zero => intro s table; rfl
  | succ n ih =>
    intro s table
    rw [State.walk]
    dsimp only
    split
    · rfl
    · generalize table + 8 * bits va (12 + 9 * (n + 1) - 1) (12 + 9 * n) = addr
      have entry : (if n = 0 then (s.tableEntry k asid addr).1.leafEntry p addr (s.tableEntry k asid addr).2.1
          else ((s.tableEntry k asid addr).1, (s.tableEntry k asid addr).2.1)).1.beyondAccess = s.beyondAccess := by
        split <;> simp
      generalize (if n = 0 then _ else _ : State × Nat) = r at entry ⊢
      split
      · exact entry
      · split
        · exact entry
        · split
          · exact entry
          · split
            · exact entry
            · rw [ih]
              split <;> simpa using entry

@[simp] theorem State.beyondAccess_contextWord (s : State) (asid : Nat) : (s.contextWord asid).1.beyondAccess = s.beyondAccess := by
  unfold State.contextWord
  dsimp only
  split <;> rfl

@[simp] theorem State.beyondAccess_walkFrom (s : State) (k asid va acc : Nat) :
    (s.walkFrom k asid va acc).1.beyondAccess = s.beyondAccess := by
  unfold State.walkFrom
  dsimp only
  split <;> simp [State.beyondAccess_walk]

@[simp] theorem State.beyondAccess_tlbHit (s : State) (k asid va acc : Nat) :
    (s.tlbHit k asid va acc).1.beyondAccess = s.beyondAccess := by
  unfold State.tlbHit
  dsimp only
  repeat' split
  all_goals rfl

@[simp] theorem State.beyondAccess_translate (s : State) (k asid : Nat) (acc : Acc) (sem : Bool) (va : Nat) :
    (s.translate k asid acc sem va).1.beyondAccess = s.beyondAccess := by
  unfold State.translate
  split
  · rfl
  · dsimp only
    split
    · rfl
    · have hit := s.beyondAccess_tlbHit k asid va acc.code
      split
      · rename_i e
        simpa [e] using hit
      · rename_i u e
        have walked := u.beyondAccess_walkFrom k asid va acc.code
        rw [e] at hit
        split
        · rename_i w
          rw [w] at walked
          exact walked.trans hit
        · rename_i w
          rw [w] at walked
          dsimp only
          split
          · exact walked.trans hit
          · exact walked.trans hit

/-! ## What records and fetches leave alone -/

/-- A state without what writing fault records may change besides: the partitions and what leaves the device (R369, R379). -/
def State.beyondRecords (s : State) : State := { s.beyondHomes with parts := [], out := [] }

theorem State.beyondRecords_of_homes {s t : State} (h : t.beyondHomes = s.beyondHomes) : t.beyondRecords = s.beyondRecords :=
  congrArg (fun u : State => { u with parts := [], out := [] }) h

@[simp] theorem State.beyondRecords_modPart (s : State) (p : Nat) (f : Partition → Partition) :
    (s.modPart p f).beyondRecords = s.beyondRecords := (rfl)

@[simp] theorem State.beyondRecords_emit (s : State) (o : Out) : (s.emit o).beyondRecords = s.beyondRecords := (rfl)

@[simp] theorem State.beyondRecords_homeWrite (s : State) (r : Req) (pa : Nat) (bs : List Byte) (p : Bool) :
    (s.homeWrite r pa bs p).beyondRecords = s.beyondRecords := State.beyondRecords_of_homes (s.beyondHomes_homeWrite r pa bs p)

@[simp] theorem State.beyondRecords_count (s : State) (p off : Nat) : (s.count p off).beyondRecords = s.beyondRecords :=
  State.beyondRecords_of_homes (s.beyondHomes_count p off)

@[simp] theorem State.beyondRecords_writeRecord (s : State) (p : Nat) (ws : List Nat) :
    (s.writeRecord p ws).beyondRecords = s.beyondRecords := by
  unfold State.writeRecord State.putRecord
  dsimp only
  split <;> simp

@[simp] theorem State.beyondRecords_halt (s : State) (p : Nat) (ag : Agent) (f : FaultInfo) (pcm : Nat) :
    (s.halt p ag f pcm).beyondRecords = s.beyondRecords := by
  unfold State.halt
  dsimp only
  split <;> simp

@[simp] theorem State.beyondRecords_uncorrectable (s : State) (p struct pa : Nat) (ag : Agent) :
    (s.uncorrectable p struct pa ag).beyondRecords = s.beyondRecords := by
  unfold State.uncorrectable
  dsimp only
  split <;> simp

theorem State.gangs_of_records {s t : State} (h : t.beyondRecords = s.beyondRecords) :
    t.gangs = s.gangs :=
  show t.beyondRecords.gangs = s.beyondRecords.gangs from congrArg _ h

theorem State.gangs_of_access {s t : State} (h : t.beyondAccess = s.beyondAccess) : t.gangs = s.gangs :=
  show t.beyondAccess.gangs = s.beyondAccess.gangs from congrArg _ h

theorem State.gangs_fetchPiece (s : State) (G : Gang) (va : Nat) : (s.fetchPiece G va).1.gangs = s.gangs := by
  have translated := State.gangs_of_access (s.beyondAccess_translate (clusterOf G.place.core) G.vnum .fetch false va)
  unfold State.fetchPiece
  dsimp only
  split
  · rename_i e
    rwa [e] at translated
  · rename_i t x e
    rw [e] at translated
    have read := State.gangs_of_access (t.beyondAccess_homeRead (Req.cluster (some G.vnum) (clusterOf G.place.core)) x.pa 4 false)
    split
    · exact (State.gangs_of_records (State.beyondRecords_uncorrectable _ _ _ _ _)).trans (read.trans translated)
    · exact read.trans translated

theorem State.gangs_fetchPieces (G : Gang) (n : Nat) : ∀ (s : State) (va : Nat), (s.fetchPieces G n va).1.gangs = s.gangs := by
  induction n with
  | zero => intro s va; rfl
  | succ n ih =>
    intro s va
    have piece := s.gangs_fetchPiece G va
    unfold State.fetchPieces
    split
    · rename_i e
      rwa [e] at piece
    · rename_i t w e
      rw [e] at piece
      have rest := ih t (va + 4)
      split
      all_goals
        rename_i e'
        rw [e'] at rest
        exact rest.trans piece

theorem State.gangs_settle (s : State) (grid key : Nat) (w : Nat × Nat) : (s.settle grid key w).1.gangs = s.gangs := by
  unfold State.settle
  dsimp only
  split <;> rfl

/-- The fetch of a run's words changes no gang (R174). -/
theorem State.gangs_fetchLane (G : Gang) (n : Nat) : ∀ (s : State) (va : Nat), (s.fetchLane G n va).1.gangs = s.gangs := by
  induction n with
  | zero => intro s va; rfl
  | succ n ih =>
    intro s va
    have pieces := s.gangs_fetchPieces G 3 va
    unfold State.fetchLane
    split
    · rename_i e
      rwa [e] at pieces
    · rename_i t w e
      rw [e] at pieces
      have settled := t.gangs_settle G.grid (2 * va + 1) w
      have rest := ih (t.settle G.grid (2 * va + 1) w).1 (va + 12)
      dsimp only
      split
      all_goals
        rename_i e'
        rw [e'] at rest
        exact rest.trans (settled.trans pieces)

end Sys2Proof.Machine
end

section
/-! LRUN (R31, R172, R174). -/

namespace Sys2Proof.Machine

/-! ## LRUN (R174) -/

/-- A scalar word that is not well-formed takes the illegal-instruction fault (R72). -/
theorem scalarWord_illegal {s : State} {G : Gang} {i : Instr} (hg : s.gang? s.cur = some G) (hr : s.scalarReady G = true)
    (hw : i.wf = false) (u : ScalarUse) (f : Nat → Gang → State → Issued) :
    scalarWord i u f s = .next (s.illegalScalar G ((encode i).headD 0).toNat) := by
  simp [scalarWord, hg, hr, hw]

/-- A run with its words and its two sets (R172). -/
def Run.fetched (r : Run) (ws : List (BitVec 96)) : Run :=
  { r with words := ws, maskWr := (runSets (ws.take r.len)).1, scalRd := (runSets (ws.take r.len)).2, park := none }

theorem find?_append_last {α : Type} (p : α → Bool) {l : List α} {a : α} (h : ∀ x ∈ l, p x = false) (ha : p a = true) :
    (l ++ [a]).find? p = some a := by
  rw [List.find?_append, List.find?_eq_none.mpr (by simpa using h)]
  simp [ha]

theorem map_append_last {α : Type} (p : α → Bool) (f : α → α) {l : List α} {a : α} (h : ∀ x ∈ l, p x = false) (ha : p a = true) :
    (l ++ [a]).map (fun x => if p x then f x else x) = l ++ [f a] := by
  rw [List.map_append, List.map_congr_left (g := id) fun x hx => by simp [h x hx]]
  simp [ha]

/-- A fetch that succeeds leaves the youngest run its words and sets, and the older ones as they are (R174). -/
theorem State.runs_fetchRun {s u : State} {g : Nat} {G : Gang} {rs : List Run} {r : Run} {ws : List (BitVec 96)}
    (hg : s.gang? g = some G) (hr : G.runs = rs ++ [r]) (new : ∀ x ∈ rs, x.serial ≠ r.serial)
    (ok : s.fetchLane G (r.len + 1) r.addr = (u, .ok ws)) :
    ((s.fetchRun g r.serial).gang? g).map Gang.runs = some (rs ++ [r.fetched ws]) := by
  have found : G.runs.find? (fun x => decide (x.serial = r.serial)) = some r := by
    rw [hr]
    exact find?_append_last _ (by simpa using new) (by simp)
  have kept : u.gang? g = some G := by
    have := State.gangs_fetchLane G (r.len + 1) s r.addr
    rw [ok] at this
    rw [← hg, State.gang?, this, State.gang?]
  have mapped := map_append_last (fun x : Run => decide (x.serial = r.serial)) (fun x => { x with
    words := ws, maskWr := (runSets (ws.take r.len)).1, scalRd := (runSets (ws.take r.len)).2, park := none })
    (l := rs) (a := r) (by simpa using new) (by simp)
  simp only [decide_eq_true_eq] at mapped
  simp only [State.fetchRun, hg, found, ok, State.gang?_modGang, kept, Option.map_some]
  rw [hr, mapped]
  rfl

/-- The word's issue leaves the runs of the gang. -/
@[simp] theorem State.runs_issuedNow (s : State) (g : Nat) (G : Gang) :
    ((s.issuedNow g G).gang? g).map Gang.runs = (s.gang? g).map Gang.runs := by
  simp only [State.issuedNow, State.gang?_modCore, State.gang?_modGang, Option.map_map]
  rfl

/-- The run that LRUN queues (R105, R172, R174). -/
def Gang.newRun (G : Gang) (id : Nat) (len : BitVec 5) (off : BitVec 21) : Run :=
  ⟨id, G.pc, (G.sp.lsbase.toNat + 12 * off.toNat) % 2 ^ 64, off.toNat, len.toNat, G.sreg 30, [], 0, none, [], [], none⟩

/-- LRUN with room in the queue appends its run and fetches it (R174). -/
theorem execLrun_queues {s : State} {G : Gang} {len : BitVec 5} {off : BitVec 21} (h : s.ScalarTurn G (.lrun len off))
    (room : G.runs.length < 4) :
    execLrun len off s = .next (((({ s with nextId := s.nextId + 1 } : State).putGang s.cur
      { G.next with runs := G.runs ++ [G.newRun s.nextId len off] }).fetchRun s.cur s.nextId).issuedNow s.cur G) := by
  rw [execLrun, scalarWord_eq h rfl]
  simp only [runQueue, Nat.not_le.mpr room, if_false]
  rfl

/-- LRUN with a full queue waits (R31). -/
theorem execLrun_waits {s : State} {G : Gang} {len : BitVec 5} {off : BitVec 21} (h : s.ScalarTurn G (.lrun len off))
    (full : 4 ≤ G.runs.length) : execLrun len off s = .next s := by
  rw [execLrun, scalarWord_eq h rfl]
  simp only [runQueue, full, if_true]

/-- Settles O7: the queue's limit and the illegal word are the frame's; the fetch changes no gang, so the run that it completes is the
last of the queue. -/
theorem lrunQueuesARun : Obligations.LrunQueuesARun := by
  unfold Obligations.LrunQueuesARun
  intro s G len off r H q
  refine ⟨fun turn => ⟨execLrun_waits turn, execLrun_queues turn, fun u ws room new ok => ⟨_, execLrun_queues turn room, ?_⟩⟩,
    fun hg ready bad => show execLrun len off s = _ from scalarWord_illegal hg ready bad _ _⟩
  rw [State.runs_issuedNow]
  exact State.runs_fetchRun (r := r) (State.gang?_putGang _ _ _) rfl new ok

end Sys2Proof.Machine
end

section
/-! System words and EXIT (R28, R178, R198). -/

namespace Sys2Proof.Machine

/-- The pointers that serve a gang of a level, and no other, stand past its slot (R178, R198). -/
theorem Quarter.ptrs_past (q : Quarter) (level slot i : Nat) : SMap.find? i (q.past level slot).ptrs =
    if i = level ∨ i = 4 ∨ i = 8 + level ∨ i = 12 then some ((slot + 1) % 16) else SMap.find? i q.ptrs := by
  simp only [Quarter.past, pointersOf, List.foldl, SMap.find?_put]
  grind

/-- YIELD's flag: 1 where a rival can no longer issue, 0 where none is eligible (R198). -/
theorem execYield_flag {s : State} {G : Gang} (h : s.ScalarTurn G .yield) : ∃ c, execYield s = .next ((({ s.putGang s.cur
      { G.next with c := c } with fresh := s.fresh + 1 } : State).modCore G.place.core fun C =>
        { C with qtrs := SMap.upd G.place.qtr Quarter.init (fun q => (q.at' s.now).past (s.level G) (G.place.slot % 16)) C.qtrs }
        ).issuedNow s.cur G)
    ∧ (s.ask.rivals.1 = true → c = true) ∧ (s.ask.rivals = (false, false) → c = false) := by
  refine ⟨s.ask.rivals.1 || (s.ask.rivals.2 && Config.yieldSeen s.fresh), ?_, ?_, ?_⟩
  · rw [execYield, scalarWord_eq h rfl]
  · intro stuck
    simp [stuck]
  · intro alone
    simp [alone]

theorem execBkpt_without_debugger {s : State} {G : Gang} (h : s.ScalarTurn G .bkpt) (off : (s.vdev G.vnum).debug = false) :
    execBkpt s = .next (s.scalarDone G G.next) := by
  rw [execBkpt, scalarWord_eq h rfl]
  simp [off, State.scalarDone, State.goOn]

theorem execBkpt_stops {s : State} {G : Gang} (h : s.ScalarTurn G .bkpt) (on : (s.vdev G.vnum).debug = true) (idle : G.runs = []) :
    execBkpt s = .next (((s.putGang s.cur { G with wait := .bkpt }).emit (.debugRecord s.cur G.pc)).issuedNow s.cur G) := by
  rw [execBkpt, scalarWord_eq h rfl]
  simp [on, idle]

theorem execDebuggerResume_goes_on {s : State} {g : Nat} {H : Gang} (hg : s.gang? g = some H) (stopped : H.wait = .bkpt) :
    execDebuggerResume g s = .next (s.putGang g { H with pc := (H.pc + 4) % 2 ^ 57, wait := .none }) := by
  simp only [execDebuggerResume, hg, stopped, if_true]
  rfl

theorem execTrap_waits {s : State} {G : Gang} {code : BitVec 19} (h : s.ScalarTurn G (.trap code)) (busy : G.runs ≠ []) :
    execTrap code s = .next s := by
  rw [execTrap, scalarWord_eq h rfl]
  simp [busy]

theorem execTrap_parks {s : State} {G : Gang} {code : BitVec 19} (h : s.ScalarTurn G (.trap code)) (idle : G.runs = []) :
    execTrap code s = .next ((((s.putGang s.cur { G with wait := .trap }).issuedNow s.cur G).modGang s.cur
      fun H => { H with park := some ⟨1, [(⟨0x03, 0, 0, 0, 0, 0, code.toNat⟩, 1)], false, [], false⟩ }).modPart
      (partOfVnum G.vnum) fun P => { P with groups := P.groups ++ [.scalar s.cur] }) := by
  rw [execTrap, scalarWord_eq h rfl]
  simp only [idle, List.isEmpty_nil, Bool.not_true, Bool.false_eq_true, if_false]
  rfl

theorem wordOf_exit : wordOf .exit = 0x70000000 := by decide

/-- EXIT: it waits for its runs, is illegal with a contribution of its set not accepted, waits until the gang is drained, and then
counts as exited (R28, R252). -/
theorem execExit_eq {s : State} {G : Gang} (h : s.ScalarTurn G .exit) : execExit s = .next (
    if G.runs ≠ [] then s
    else if G.place.role = 2 ∧ (s.wg? G.place.wg).any (fun W => W.unaccepted (s.setOf G).1) = true then s.illegalScalar G 0x70000000
    else if G.drained = false then s
    else
      let u := (((s.release G 4).acquire G 4).reportOwed s.cur).modGang s.cur fun G =>
        { G with life := .exited, restart := { G.restart with rv := false } }
      ((((u.checkBarriers G.place.wg).checkRendezvous G.place.wg s.cur 0x70000000).checkMixedWait G.place.wg s.cur
        0x70000000).issuedNow s.cur G)) := by
  rw [execExit, scalarWord_eq h rfl]
  by_cases busy : G.runs = []
  · by_cases open' : G.place.role = 2 ∧ (s.wg? G.place.wg).any (fun W => W.unaccepted (s.setOf G).1) = true
    · simp [busy, open', wordOf_exit]
    · cases G.drained <;> simp [busy, open', wordOf_exit, State.xfence]
  · simp [busy]

/-- Settles O8: each word's own effect, in the frame of the scalar words. -/
theorem systemWordsAndExit : Obligations.SystemWordsAndExit := by
  unfold Obligations.SystemWordsAndExit
  refine ⟨fun s G => ⟨fun h => gangWord_eq h rfl id, execYield_flag, Quarter.ptrs_past,
    fun h => ⟨execBkpt_without_debugger h, execBkpt_stops h⟩, fun g H => execDebuggerResume_goes_on,
    fun code h => ⟨execTrap_waits h, execTrap_parks h⟩⟩, fun s G => execExit_eq⟩

end Sys2Proof.Machine
end

section
/-! SUPPORT. Bits of masks, a gang's lane registers and masks as a lane word's results change them, and what a lane word can do, said
once. -/

namespace Sys2Proof.Machine

/-! ## Bits of a mask (R34) -/

/-- One bit of a number replaced: the others are as they were. -/
theorem testBit_setField (n l v i : Nat) : (setField n l l v).testBit i = if i = l then v.testBit 0 else n.testBit i := by
  have split : n = 2 ^ l * (2 * (n / 2 ^ l / 2) + n / 2 ^ l % 2) + n % 2 ^ l := by
    have h1 := Nat.div_add_mod n (2 ^ l)
    have h2 := Nat.div_add_mod (n / 2 ^ l) 2
    rw [h2, h1]
  have new : setField n l l v = 2 ^ l * (2 * (n / 2 ^ l / 2) + v % 2) + n % 2 ^ l := by
    have one : l + 1 - l = 1 := by omega
    simp only [setField, bits, one, Nat.pow_one, Nat.shiftRight_eq_div_pow]
    have h := split
    rw [Nat.mul_add] at h ⊢
    rw [Nat.mul_comm (2 ^ l) (n / 2 ^ l % 2)] at h
    rw [Nat.mul_comm (2 ^ l) (v % 2)]
    omega
  have low : n % 2 ^ l < 2 ^ l := Nat.mod_lt _ (Nat.two_pow_pos l)
  have old : n.testBit i = (2 ^ l * (2 * (n / 2 ^ l / 2) + n / 2 ^ l % 2) + n % 2 ^ l).testBit i := congrArg (Nat.testBit · i) split
  rw [new, old, Nat.testBit_two_pow_mul_add _ low, Nat.testBit_two_pow_mul_add _ low]
  rcases Nat.lt_trichotomy i l with h | h | h
  · simp [h, Nat.ne_of_lt h]
  · subst h
    simp [Nat.testBit_zero]
  · obtain ⟨k, rfl⟩ : ∃ k, i = l + k + 1 := ⟨i - l - 1, by omega⟩
    have a : ¬l + k + 1 < l := by omega
    have b : l + k + 1 ≠ l := by omega
    have c : l + k + 1 - l = k + 1 := by omega
    simp only [a, b, c, if_false, Nat.testBit_succ]
    congr 1
    omega

theorem getLsbD_mergeBits_of_not_mem {m : Word} {bs : List (Nat × Bool)} {i : Nat} (hi : i < 32) (h : ∀ lb ∈ bs, lb.1 ≠ i) :
    (mergeBits m bs).getLsbD i = m.getLsbD i := by
  have kept := foldl_keeps (fun n : Nat => n.testBit i) (fun n (lb : Nat × Bool) => setField n lb.1 lb.1 lb.2.toNat) bs
    (fun n lb hlb => by simp [testBit_setField, Ne.symm (h lb hlb)]) m.toNat
  rw [mergeBits, BitVec.getLsbD_ofNat, decide_eq_true hi, Bool.true_and]
  exact kept

/-! ## The masks of a gang -/

@[simp] theorem Gang.mreg_setM (G : Gang) (k j : Nat) (v : Word) : (G.setM k v).mreg j = if j = k then v else G.mreg j := by
  by_cases h : j = k
  · subst h
    simp [Gang.setM, Gang.mreg]
  · simp [Gang.setM, Gang.mreg, h, SMap.getD_put_ne h]

/-- Merging bits into masks changes nothing of the gang but its masks. -/
theorem Gang.mergeM_masks (G : Gang) (k : Nat) (bs : List (Nat × Bool)) : ∃ m, G.mergeM k bs = { G with m := m } := by
  unfold Gang.mergeM
  split
  · exact ⟨_, rfl⟩
  · exact ⟨_, rfl⟩

theorem Gang.mergeAll_masks (f : Nat → List (Nat × Bool)) (ks : List Nat) (G : Gang) :
    ∃ m, ks.foldl (fun G k => G.mergeM k (f k)) G = { G with m := m } := by
  induction ks generalizing G with
  | nil => exact ⟨_, rfl⟩
  | cons k ks ih =>
    obtain ⟨m, hm⟩ := G.mergeM_masks k (f k)
    obtain ⟨m', hm'⟩ := ih (G.mergeM k (f k))
    exact ⟨m', by rw [List.foldl_cons, hm', hm]⟩

theorem Gang.mreg_mergeAll (f : Nat → List (Nat × Bool)) (ks : List Nat) (G : Gang) {j : Nat} (h : f j = []) :
    (ks.foldl (fun G k => G.mergeM k (f k)) G).mreg j = G.mreg j := by
  refine foldl_keeps (fun G => G.mreg j) _ ks (fun G k _ => ?_) G
  by_cases same : j = k
  · subst same
    simp [Gang.mergeM, h]
  · dsimp only [Gang.mergeM]
    split <;> simp [same]

theorem Gang.getLsbD_mergeAll (f : Nat → List (Nat × Bool)) (ks : List Nat) (G : Gang) {l : Nat} (hl : l < 32)
    (h : ∀ k, ∀ lb ∈ f k, lb.1 ≠ l) (j : Nat) :
    ((ks.foldl (fun G k => G.mergeM k (f k)) G).mreg j).getLsbD l = (G.mreg j).getLsbD l := by
  refine foldl_keeps (fun G => (G.mreg j).getLsbD l) _ ks (fun G k _ => ?_) G
  dsimp only [Gang.mergeM]
  split
  · rfl
  · rw [Gang.mreg_setM]
    split
    · rename_i same
      rw [same]
      exact getLsbD_mergeBits_of_not_mem hl (h k)
    · rfl

/-! ## The lane registers of a gang -/

/-- What stands in a lane register: its value and its poison, without LIVE (R116). -/
def LaneFile.contents (L : LaneFile) (key : Nat) : Option (Word × Bool) := (SMap.find? key L.regs).map fun c => (c.val, c.p)

theorem LaneFile.contents_write {L : LaneFile} {l r key : Nat} (c : Cell) (h : key ≠ l * 1024 + r) :
    (L.write l r c).contents key = L.contents key := by
  simp [LaneFile.contents, LaneFile.write, SMap.find?_put_ne h]

theorem LaneFile.contents_free (L : LaneFile) (l r key : Nat) : (L.free l r).contents key = L.contents key := by
  unfold LaneFile.contents LaneFile.free
  by_cases h : key = l * 1024 + r
  · subst h
    simp only [SMap.find?_modify_same, Option.map_map]
    rfl
  · simp only [SMap.find?_modify_ne h]

/-- Freeing registers leaves what stands in them, and the rest of the lane file (R119). -/
theorem Use.freeAll_keeps {α : Type} (p : LaneFile → α) (h : ∀ L l r, p (L.free l r) = p L) (u : Use) (x : Issue) (L : LaneFile) :
    p (u.freeAll x L) = p L :=
  foldl_keeps p _ _ (fun L r _ => foldl_keeps p (fun (L : LaneFile) l => L.free l r) x.act (fun L l _ => h L l r) L) L

/-- Results put into one lane leave whatever writes of the lane's own registers leave. -/
theorem Issue.put_keeps {α : Type} (p : LaneFile → α) (x : Issue) (d : Dst) (l : Nat) (cs : List Cell)
    (w : ∀ L, ∀ k < cs.length, ∀ c, l ∈ x.act → p (L.write l (x.gang.rkey x.n d.file (d.idx.toNat + k)) c) = p L)
    (h : ∀ L r c, p (L.writeShadow l r c) = p L) (L : LaneFile) : p (x.put d L l cs) = p L := by
  refine foldl_keeps p _ cs.zipIdx (fun L ck hck => ?_) L
  have := (List.mem_zipIdx hck).2.1
  dsimp only
  split
  · exact w L ck.2 (by omega) ck.1 (by simpa using ‹x.act.contains l = true›)
  · exact h L _ _

/-! ## A halt stops its partition -/

theorem State.stopped_of_homes {s t : State} (h : t.beyondHomes = s.beyondHomes) (p : Nat) : t.stopped p = s.stopped p :=
  show t.beyondHomes.stopped p = s.beyondHomes.stopped p from congrArg (State.stopped · p) h

/-- A change of a partition that leaves its halt line and its halt. -/
theorem State.stopped_modPart (s : State) (q : Nat) (f : Partition → Partition)
    (h : ∀ P, (f P).halting = P.halting ∧ (f P).halted = P.halted) (p : Nat) : (s.modPart q f).stopped p = s.stopped p := by
  by_cases same : p = q
  · subst same
    simp [State.stopped, h]
  · simp [State.stopped, State.part_modPart_ne s f same]

@[simp] theorem State.stopped_writeRecord (s : State) (q : Nat) (ws : List Nat) (p : Nat) :
    (s.writeRecord q ws).stopped p = s.stopped p := by
  unfold State.writeRecord State.putRecord
  dsimp only
  refine (State.stopped_modPart _ _ _ ?_ _).trans ?_
  · exact fun _ => ⟨rfl, rfl⟩
  · split
    · refine (State.stopped_modPart _ _ _ ?_ _).trans (State.stopped_of_homes (s.beyondHomes_homeWrite _ _ _ _) _)
      exact fun _ => ⟨rfl, rfl⟩
    · refine State.stopped_modPart _ _ _ ?_ _
      exact fun _ => ⟨rfl, rfl⟩

/-- After a halting fault the partition's halt line is raised (R379). -/
theorem State.stopped_halt (s : State) (p : Nat) (ag : Agent) (f : FaultInfo) (pcm : Nat) : (s.halt p ag f pcm).stopped p = true := by
  unfold State.halt
  dsimp only
  split
  · simp [State.stopped, State.emit, State.part, State.modPart]
  · rename_i h
    simpa using h

/-! ## What a lane word can do -/

/-- What the issue of a lane word leaves after its effect: nothing while it waits, else the errors that its sources met are counted, and
where it is done it has issued from its run (R67, R72, R392). -/
def Issued.leads (o : Issued) (s : State) (G : Gang) (serial : Nat) (ms : List Met) (t : State) : Prop :=
  match o with
  | .wait => t = s
  | .illegal => False
  | .stop q => t = q.registerErrors G ms
  | .done q => t = (q.registerErrors G ms).laneIssued s.cur G serial

/-- A lane word whose partition is not halted after it has waited, which changes nothing, or its effect was taken: with the token paid and the
last-use registers freed, and the errors that its sources met counted (R67, R72, R119, R392, R393, R444). -/
theorem laneWord_cases {s t : State} {G : Gang} {i : Instr} {msel : Option Nat} {u : Use} {f : Issue → State → Issued}
    (hg : s.gang? s.cur = some G) (e : laneWord i msel u f s = .next t) (runs : t.stopped (partOfVnum G.vnum) = false) :
    t = s ∨ ∃ r p, s.pay (4 * G.place.core + G.place.qtr) G.vnum 1 = some p ∧
      let ms := u.met i (mkIssue s s.cur G r msel)
      let x := (mkIssue s s.cur G r msel).sensed i ms
      (f x (p.modGang s.cur fun G => { G with lane := u.freeAll x G.lane })).leads s G r.serial ms t := by
  unfold laneWord at e
  simp only [hg] at e
  have halted {q : State} {ag : Agent} {d : FaultInfo} {n : Nat} (h : Host.Outcome.next (q.halt (partOfVnum G.vnum) ag d n) = (.next t : Host.Outcome State Fault Refusal)) : False := by
    injection h with h
    rw [← h, State.stopped_halt] at runs
    cases runs
  have same (h : Host.Outcome.next s = (.next t : Host.Outcome State Fault Refusal)) : t = s := by injection h with h; exact h.symm
  split at e
  · exact .inl (same e)
  · rename_i r _ _
    split at e
    · exact .inl (same e)
    · split at e
      · exact (halted e).elim
      · split at e
        · exact .inl (same e)
        · split at e
          · exact (halted e).elim
          · split at e
            · exact .inl (same e)
            · rename_i p paid
              refine .inr ⟨r, p, paid, ?_⟩
              dsimp only
              split at e
              · rename_i k
                rw [k]
                exact same e
              · exact (halted e).elim
              · rename_i k
                rw [k]
                injection e with e
                exact e.symm
              · rename_i k
                rw [k]
                split at e
                · rename_i h strict
                  unfold State.strictRegister at strict
                  split at strict
                  · cases strict
                  · split at strict
                    · cases strict
                    · injection strict with strict
                      rw [← strict] at e
                      exact (halted e).elim
                · injection e with e
                  exact e.symm

end Sys2Proof.Machine
end

section
/-! The frame of the integer lane words (R32, R34, R116, R119, R128 to R139). -/

namespace Sys2Proof.Machine

/-! ## What a word of the vector pipes leaves -/

/-- The results of a word in its active and its helper lanes. -/
def Issue.outs (x : Issue) (out : Nat → LaneOut) : List (Nat × LaneOut) := (x.act ++ x.help).map fun l => (l, out l)

/-- The bits that the active lanes give to a mask (R34). -/
def Issue.bitsFor (x : Issue) (out : Nat → LaneOut) (k : Nat) : List (Nat × Bool) :=
  ((x.outs out).take x.act.length).filterMap fun lo => (lo.2.bits.find? fun b => decide (b.1 = k)).map fun b => (lo.1, b.2)

/-- A gang that has taken the results of a word: its registers, then its masks. -/
def Issue.taken (x : Issue) (d : Dst) (out : Nat → LaneOut) (G : Gang) : Gang :=
  (List.range 8).foldl (fun G k => G.mergeM k (x.bitsFor out k))
    { G with lane := (x.outs out).foldl (fun L lo => x.put d L lo.1 lo.2.vals) G.lane }

theorem Issue.take_outs (x : Issue) (out : Nat → LaneOut) : (x.outs out).take x.act.length = x.act.map fun l => (l, out l) := by
  simp [Issue.outs]

/-- The bits for a mask come from active lanes. -/
theorem Issue.mem_act_of_mem_bitsFor {x : Issue} {out : Nat → LaneOut} {k : Nat} {lb : Nat × Bool} (h : lb ∈ x.bitsFor out k) :
    lb.1 ∈ x.act := by
  simp only [Issue.bitsFor, Issue.take_outs, List.mem_filterMap, List.mem_map, Option.map_eq_some_iff] at h
  obtain ⟨lo, ⟨l, hl, rfl⟩, b, _, rfl⟩ := h
  exact hl

/-- No bits for a mask that no lane names. -/
theorem Issue.bitsFor_eq_nil {x : Issue} {out : Nat → LaneOut} {k : Nat} (h : ∀ l, ∀ b ∈ (out l).bits, b.1 ≠ k) : x.bitsFor out k = [] := by
  simp only [Issue.bitsFor, Issue.take_outs, List.filterMap_eq_nil_iff, List.mem_map, Option.map_eq_none_iff, List.find?_eq_none]
  rintro lo ⟨l, _, rfl⟩ b hb
  simpa using h l b hb

/-- Taking results changes the masks and the lane registers of the gang, and nothing else of it. -/
theorem Issue.taken_eq (x : Issue) (d : Dst) (out : Nat → LaneOut) (G : Gang) : ∃ m, x.taken d out G =
    { G with m := m, lane := (x.outs out).foldl (fun L lo => x.put d L lo.1 lo.2.vals) G.lane } := by
  obtain ⟨m, hm⟩ := Gang.mergeAll_masks (x.bitsFor out) (List.range 8)
    { G with lane := (x.outs out).foldl (fun L lo => x.put d L lo.1 lo.2.vals) G.lane }
  exact ⟨m, hm⟩

theorem Issue.lane_taken (x : Issue) (d : Dst) (out : Nat → LaneOut) (G : Gang) :
    (x.taken d out G).lane = (x.outs out).foldl (fun L lo => x.put d L lo.1 lo.2.vals) G.lane := by
  obtain ⟨m, hm⟩ := x.taken_eq d out G
  rw [hm]

/-- Results raise no cause, so that no log record is written (R145). -/
theorem condRecords_quiet {cs : List (Nat × Cond)} (h : ∀ c ∈ cs, c.2 = {}) : condRecords cs = [] := by
  have none (f : Cond → Bool) (hf : f {} = false) : cs.filter (fun c => f c.2) = [] :=
    List.filter_eq_nil_iff.mpr fun c hc => by simp [h c hc, hf]
  simp [condRecords, none Cond.inv rfl, none Cond.dz rfl, none Cond.ov rfl, maskOf]

/-- A word whose lanes raise no cause leaves its results in its gang, and that is all. -/
theorem Issue.finish_quiet {x : Issue} {d : Dst} {out : Nat → LaneOut} (quiet : ∀ l, (out l).cond = {}) (s : State) :
    x.finish d out s = (s.modGang x.g fun G =>
      { G with lane := (x.outs out).foldl (fun L lo => x.put d L lo.1 lo.2.vals) G.lane }).modGang x.g fun G =>
        (List.range 8).foldl (fun G k => G.mergeM k (x.bitsFor out k)) G := by
  have records : condRecords (((x.outs out).take x.act.length).map fun lo => (lo.1, lo.2.cond)) = [] :=
    condRecords_quiet fun c hc => by
      obtain ⟨lo, hlo, rfl⟩ := List.mem_map.mp hc
      obtain ⟨l, _, rfl⟩ := List.mem_map.mp (List.mem_of_mem_take hlo)
      exact quiet l
  change State.logConds _ _ _ _ _ (condRecords (((x.outs out).take x.act.length).map fun lo => (lo.1, lo.2.cond))) = _
  rw [records]
  rfl

theorem Issue.gang?_finish {x : Issue} {d : Dst} {out : Nat → LaneOut} (quiet : ∀ l, (out l).cond = {}) (s : State) :
    (x.finish d out s).gang? x.g = (s.gang? x.g).map (x.taken d out) := by
  rw [x.finish_quiet quiet, State.gang?_modGang, State.gang?_modGang, Option.map_map]
  rfl

/-! ## The rest of the machine -/

/-- A state without what a lane word that touches registers only may change: gangs, and the clocks of the cores' last issue. -/
def State.beyondGangs (s : State) : State := { s.beyondHomes with gangs := [], cores := [] }

/-- From one state to the other memory, its sidecar and poison, every gang but one, and all that is beyond gangs and homes are the same. -/
structure State.OnlyGang (s t : State) (g : Nat) : Prop where
  gangs : ∀ h, h ≠ g → t.gang? h = s.gang? h
  rest  : t.beyondGangs = s.beyondGangs

theorem State.OnlyGang.trans {s t u : State} {g : Nat} (h : s.OnlyGang t g) (k : t.OnlyGang u g) : s.OnlyGang u g :=
  ⟨fun j hj => (k.gangs j hj).trans (h.gangs j hj), k.rest.trans h.rest⟩

theorem State.OnlyGang.of_homes {s t : State} (h : t.beyondHomes = s.beyondHomes) (g : Nat) : s.OnlyGang t g :=
  ⟨fun j _ => show t.beyondHomes.gang? j = s.beyondHomes.gang? j from congrArg (State.gang? · j) h,
    congrArg (fun u : State => { u with gangs := [], cores := [] }) h⟩

theorem State.onlyGang_modGang (s : State) (g : Nat) (f : Gang → Gang) : s.OnlyGang (s.modGang g f) g :=
  ⟨fun _ hj => s.gang?_modGang_ne f hj, (rfl)⟩

theorem State.onlyGang_laneIssued (s : State) (g : Nat) (G : Gang) (serial : Nat) : s.OnlyGang (s.laneIssued g G serial) g :=
  ⟨fun _ hj => s.gang?_modGang_ne _ hj, (rfl)⟩

/-- The gang whose lane word has issued (R175, R178). -/
theorem State.gang?_laneIssued (s : State) (g : Nat) (G : Gang) (serial : Nat) :
    (s.laneIssued g G serial).gang? g = (s.gang? g).map fun H => { H with
      runs := H.runs.map fun r => if r.serial = serial then { r with next := r.next + 1 } else r, issued := s.now, promo := false,
      since := s.now } := s.gang?_modGang g _

@[simp] theorem State.beyondHomes_registerEntry (s : State) (struct : Nat) (G : Gang) (m : Met) :
    (s.registerEntry struct G m).beyondHomes = s.beyondHomes := by
  simp [State.registerEntry]

@[simp] theorem State.beyondHomes_registerErrors (s : State) (G : Gang) (ms : List Met) :
    (s.registerErrors G ms).beyondHomes = s.beyondHomes :=
  State.beyondHomes_foldl (fun s m => s.registerError G m) (fun s m => s.beyondHomes_registerEntry 0 G m) ms s

end Sys2Proof.Machine
end

section
/-! The frame of the integer lane words (R32, R34, R116, R119, R128 to R139). -/

namespace Sys2Proof.Machine

/-! ## The frame, as the statement has it -/

/-- What a lane word with destination `d` under mask `msel`, which names the masks `named`, leaves alone: of its gang all but the registers
that it writes, LIVE, those masks in its active lanes and the run in progress; every other gang; memory, unless a register has an
uncorrectable error; and the rest of the machine. -/
def State.LaneFramed (s t : State) (G : Gang) (d : Dst) (msel : Nat) (named : List Nat) : Prop :=
  ∃ H, t.gang? s.cur = some H
    ∧ (∀ key, (∀ l ∈ G.active msel, ∀ k, k < 2 → key ≠ l * 1024 + G.rkey (s.regsOf G) d.file (d.idx.toNat + k)) →
        (SMap.find? key H.lane.regs).map (fun c => (c.val, c.p)) = (SMap.find? key G.lane.regs).map (fun c => (c.val, c.p)))
    ∧ (∀ k, k ∉ named → H.mreg k = G.mreg k)
    ∧ (∀ k l, l ∉ G.active msel → l < 32 → (H.mreg k).getLsbD l = (G.mreg k).getLsbD l)
    ∧ (∀ n, H.sreg n = G.sreg n) ∧ H.c = G.c ∧ H.pc = G.pc ∧ H.sp = G.sp ∧ H.stack = G.stack ∧ H.pend = G.pend
    ∧ H.lane.scale = G.lane.scale ∧ H.lane.pos = G.lane.pos ∧ H.eng = G.eng ∧ H.life = G.life ∧ H.wait = G.wait
    ∧ H.owed = G.owed ∧ H.restart = G.restart ∧ H.place = G.place
    ∧ (∀ g, g ≠ s.cur → t.gang? g = s.gang? g)
    ∧ (G.lane.err = [] → (∀ x, Memory.byte t.mem x = Memory.byte s.mem x) ∧ t.side = s.side ∧ t.bad = s.bad ∧ t.sideBad = s.sideBad)
    ∧ t.wgs = s.wgs ∧ t.grids = s.grids ∧ t.clusters = s.clusters ∧ t.engines = s.engines ∧ t.twins = s.twins
    ∧ t.parts = s.parts ∧ t.vdevs = s.vdevs ∧ t.ctxs = s.ctxs ∧ t.pkg = s.pkg ∧ t.out = s.out

/-- A word that waits leaves everything. -/
theorem State.LaneFramed.refl {s : State} {G : Gang} (hg : s.gang? s.cur = some G) (d : Dst) (msel : Nat) (named : List Nat) :
    s.LaneFramed s G d msel named :=
  ⟨G, hg, fun _ _ => rfl, fun _ _ => rfl, fun _ _ _ _ => rfl, fun _ => rfl, rfl, rfl, rfl, rfl, rfl, rfl, rfl, rfl, rfl, rfl, rfl, rfl,
    rfl, fun _ _ => rfl, fun _ => ⟨fun _ => rfl, rfl, rfl, rfl⟩, rfl, rfl, rfl, rfl, rfl, rfl, rfl, rfl, rfl, rfl⟩

/-- The gang of a word that has taken results: its registers but the destination's in active lanes, and the rest of its lane file. -/
theorem Issue.contents_taken {x : Issue} {d : Dst} {out : Nat → LaneOut} (short : ∀ l, (out l).vals.length ≤ 2) (G : Gang) {key : Nat}
    (h : ∀ l ∈ x.act, ∀ k, k < 2 → key ≠ l * 1024 + x.gang.rkey x.n d.file (d.idx.toNat + k)) :
    (x.taken d out G).lane.contents key = G.lane.contents key := by
  rw [Issue.lane_taken]
  refine foldl_keeps (fun L => LaneFile.contents L key) _ _ (fun L lo hlo => ?_) G.lane
  obtain ⟨l, _, rfl⟩ := List.mem_map.mp hlo
  refine x.put_keeps (fun L => LaneFile.contents L key) d l _ (fun L k hk c hl => ?_) (fun _ _ _ => rfl) L
  exact LaneFile.contents_write c (h l hl k (Nat.lt_of_lt_of_le hk (short l)))

theorem Issue.lane_taken_keeps {α : Type} (p : LaneFile → α) (hw : ∀ L l r c, p (L.write l r c) = p L)
    (hs : ∀ L l r c, p (L.writeShadow l r c) = p L) (x : Issue) (d : Dst) (out : Nat → LaneOut) (G : Gang) :
    p (x.taken d out G).lane = p G.lane := by
  rw [Issue.lane_taken]
  exact foldl_keeps p _ _ (fun L lo _ => x.put_keeps p d lo.1 _ (fun L k _ c _ => hw L _ _ c) (fun L r c => hs L _ r c) L) G.lane

theorem Issue.mreg_taken {x : Issue} {d : Dst} {out : Nat → LaneOut} {named : List Nat} (bits : ∀ l, ∀ b ∈ (out l).bits, b.1 ∈ named)
    (G : Gang) {k : Nat} (h : k ∉ named) : (x.taken d out G).mreg k = G.mreg k :=
  Gang.mreg_mergeAll _ _ _ (Issue.bitsFor_eq_nil fun l b hb e => h (e ▸ bits l b hb))

theorem Issue.getLsbD_mreg_taken (x : Issue) (d : Dst) (out : Nat → LaneOut) (G : Gang) (k : Nat) {l : Nat} (h : l ∉ x.act) (hl : l < 32) :
    ((x.taken d out G).mreg k).getLsbD l = (G.mreg k).getLsbD l :=
  Gang.getLsbD_mergeAll _ _ _ hl (fun _ _ hlb e => h (e ▸ Issue.mem_act_of_mem_bitsFor hlb)) k

/-- Sources with errors among them are those of the same lanes and the same registers (R393). -/
theorem Issue.sensed_eq (x : Issue) (i : Instr) (ms : List Met) :
    ∃ L, x.sensed i ms = { x with gang := { x.gang with lane := L } } := by
  unfold Issue.sensed
  dsimp only
  split
  · exact ⟨_, rfl⟩
  · exact ⟨_, rfl⟩

/-- A gang whose word has issued differs from one that has taken the word's results in its runs and its clocks. -/
theorem State.laneFramed_of_taken {s t : State} {G T H : Gang} {d : Dst} {msel : Nat} {named : List Nat} {out : Nat → LaneOut} {x : Issue}
    {u : Use} (short : ∀ l, (out l).vals.length ≤ 2) (bits : ∀ l, ∀ b ∈ (out l).bits, b.1 ∈ named)
    (act : x.act = G.active msel) (key : ∀ f i, x.gang.rkey x.n f i = G.rkey (s.regsOf G) f i)
    (taken : T = x.taken d out { G with lane := u.freeAll x G.lane })
    (issued : H = { T with runs := H.runs, issued := H.issued, promo := H.promo, since := H.since })
    (gang : t.gang? s.cur = some H) (rest : s.OnlyGang t s.cur)
    (memory : G.lane.err = [] → t.mem = s.mem ∧ t.side = s.side ∧ t.bad = s.bad ∧ t.sideBad = s.sideBad) :
    s.LaneFramed t G d msel named := by
  obtain ⟨m, eq⟩ := x.taken_eq d out { G with lane := u.freeAll x G.lane }
  have hT := taken.trans eq
  have hl : H.lane = (x.taken d out { G with lane := u.freeAll x G.lane }).lane := by rw [issued, taken]
  have hm (k : Nat) : H.mreg k = (x.taken d out { G with lane := u.freeAll x G.lane }).mreg k := by rw [issued, taken]; rfl
  have lane {α : Type} (p : LaneFile → α) (hw : ∀ L l r c, p (L.write l r c) = p L) (hs : ∀ L l r c, p (L.writeShadow l r c) = p L)
      (hf : ∀ L l r, p (L.free l r) = p L) : p H.lane = p G.lane := by
    rw [hl, Issue.lane_taken_keeps p hw hs]
    exact u.freeAll_keeps p hf x G.lane
  have beyond {α : Type} (p : State → α) : p t.beyondGangs = p s.beyondGangs := congrArg p rest.rest
  refine ⟨H, gang, fun key' h => ?_, fun k hk => (hm k).trans (x.mreg_taken bits _ hk),
    fun k l h h32 => by rw [hm, x.getLsbD_mreg_taken d out _ k (act ▸ h) h32]; rfl, fun n => ?_, ?_⟩
  · have kept := x.contents_taken (d := d) short { G with lane := u.freeAll x G.lane } (key := key')
      fun l hl k hk => key _ _ ▸ h l (act ▸ hl) k hk
    rw [← hl] at kept
    exact kept.trans (u.freeAll_keeps (fun L => L.contents key') (fun L l r => L.contents_free l r key') x G.lane)
  · rw [issued, hT]
    rfl
  · refine ⟨?_, ?_, ?_, ?_, ?_, lane _ (fun _ _ _ _ => rfl) (fun _ _ _ _ => rfl) (fun _ _ _ => rfl),
      lane _ (fun _ _ _ _ => rfl) (fun _ _ _ _ => rfl) (fun _ _ _ => rfl), ?_, ?_, ?_, ?_, ?_, ?_, rest.gangs,
      fun e => ⟨fun a => by rw [(memory e).1], (memory e).2⟩, beyond State.wgs, beyond State.grids, beyond State.clusters,
      beyond State.engines, beyond State.twins, beyond State.parts, beyond State.vdevs, beyond State.ctxs, beyond State.pkg,
      beyond State.out⟩
    all_goals rw [issued, hT]

/-- A word of the vector pipes whose lanes raise no cause, write at most two registers and set bits of the masks `named` only. -/
theorem vectorWord_framed {s t : State} {G : Gang} {i : Instr} {msel : Nat} {u : Use} {d : Dst} {out : Issue → Nat → LaneOut}
    {named : List Nat} (hg : s.gang? s.cur = some G) (e : vectorWord i msel u d (fun _ => true) out s = .next t)
    (runs : t.stopped (partOfVnum G.vnum) = false) (short : ∀ x l, (out x l).vals.length ≤ 2)
    (bits : ∀ x l, ∀ b ∈ (out x l).bits, b.1 ∈ named) (quiet : ∀ x l, (out x l).cond = {}) : s.LaneFramed t G d msel named := by
  rcases laneWord_cases hg e runs with rfl | ⟨r, p, paid, done⟩
  · exact .refl hg d msel named
  · obtain ⟨L, hx⟩ := (mkIssue s s.cur G r (some msel)).sensed_eq i (u.met i (mkIssue s s.cur G r (some msel)))
    have sound : G.lane.err = [] → u.met i (mkIssue s s.cur G r (some msel)) = [] := fun h => u.met_sound i _ h
    dsimp only at done
    generalize u.met i (mkIssue s s.cur G r (some msel)) = ms at done hx sound
    generalize hX : (mkIssue s s.cur G r (some msel)).sensed i ms = x at done hx
    have cur : x.g = s.cur := by rw [hx]; rfl
    have tokens : s.SameButTokens p := State.payAs_tokens paid
    have gangP : p.gang? s.cur = some G := by
      obtain ⟨_, _, _, _, rfl⟩ := tokens
      exact hg
    simp only [if_true, Issued.leads] at done
    have finished := x.finish_quiet (d := d) (quiet x) (p.modGang s.cur fun G => { G with lane := u.freeAll x G.lane })
    have gang := x.gang?_finish (d := d) (quiet x) (p.modGang s.cur fun G => { G with lane := u.freeAll x G.lane })
    generalize hq : x.finish d (out x) (p.modGang s.cur fun G => { G with lane := u.freeAll x G.lane }) = q at done finished gang
    rw [cur, State.gang?_modGang, gangP] at gang
    have onlyQ : s.OnlyGang q s.cur := by
      rw [finished, cur]
      exact (((State.OnlyGang.of_homes tokens.beyondHomes _).trans (State.onlyGang_modGang _ _ _)).trans
        (State.onlyGang_modGang _ _ _)).trans (State.onlyGang_modGang _ _ _)
    have counted := q.beyondHomes_registerErrors G ms
    have gangT := (q.registerErrors G ms).gang?_laneIssued s.cur G r.serial
    rw [show (q.registerErrors G ms).gang? s.cur = q.gang? s.cur from
      show (q.registerErrors G ms).beyondHomes.gang? s.cur = q.beyondHomes.gang? s.cur from congrArg (State.gang? · s.cur) counted,
      gang, ← done] at gangT
    refine State.laneFramed_of_taken (x := x) (u := u) (out := out x) (short x) (bits x) (by rw [hx]; rfl)
      (fun f k => by rw [hx]; rfl) rfl rfl gangT ?_ fun noErr => ?_
    · rw [done]
      exact (onlyQ.trans (.of_homes counted _)).trans (State.onlyGang_laneIssued _ _ _ _)
    · have kept {α : Type} (f : State → α) (h : ∀ (u : State) g F, f (u.modGang g F) = f u) : f q = f p := by
        rw [finished, h, h, h]
      have paidFor {α : Type} (f : State → α) (h : ∀ b p k x, f { s with buckets := b, periods := p, queued := k, ask := x } = f s) :
          f p = f s := by
        obtain ⟨_, _, _, _, rfl⟩ := tokens
        exact h _ _ _ _
      rw [done, sound noErr, State.registerErrors_nil]
      exact ⟨(kept State.mem fun _ _ _ => rfl).trans (paidFor _ fun _ _ _ _ => rfl),
        (kept State.side fun _ _ _ => rfl).trans (paidFor _ fun _ _ _ _ => rfl),
        (kept State.bad fun _ _ _ => rfl).trans (paidFor _ fun _ _ _ _ => rfl),
        (kept State.sideBad fun _ _ _ => rfl).trans (paidFor _ fun _ _ _ _ => rfl)⟩

theorem length_cells (wide : Bool) (v : Nat) (p : Bool) : (Machine.cells wide v p).length ≤ 2 := by
  cases wide <;> simp [Machine.cells]

/-- A word whose result is a function of its sources names no mask. -/
theorem numWord_framed {s t : State} {G : Gang} {i : Instr} {msel : Nat} {srcs : List (Src × Bool)} {d : Dst} {wide : Bool}
    {g : List Nat → Nat} (hg : s.gang? s.cur = some G) (e : numWord i msel srcs d wide g s = .next t)
    (runs : t.stopped (partOfVnum G.vnum) = false) : s.LaneFramed t G d msel [] :=
  vectorWord_framed hg e runs (fun _ _ => length_cells _ _ _) (fun _ _ _ hb => nomatch hb) fun _ _ => rfl

section
variable {s t : State} {G : Gang} {i : Instr} {f : L3} (hg : s.gang? s.cur = some G) (runs : t.stopped (partOfVnum G.vnum) = false)
include hg runs

theorem elemWord_framed {n : Nat} {g : Int → Int → Int → Int} (e : elemWord i f n g s = .next t) :
    s.LaneFramed t G f.dst f.msel.toNat [] := by
  unfold elemWord at e
  exact numWord_framed hg e runs

theorem logicWord_framed {g : Nat → Nat → Nat} (e : logicWord i f g s = .next t) : s.LaneFramed t G f.dst f.msel.toNat [] := by
  unfold logicWord at e
  exact numWord_framed hg e runs

theorem shiftWord_framed {g : Nat → Nat → Nat → Nat} (e : shiftWord i f g s = .next t) :
    s.LaneFramed t G f.dst f.msel.toNat [] := by
  unfold shiftWord at e
  exact numWord_framed hg e runs

theorem bitsWord_framed {wd : Bool} {g : Nat → Nat → Nat} (e : bitsWord i f wd g s = .next t) :
    s.LaneFramed t G f.dst f.msel.toNat [] := by
  unfold bitsWord at e
  exact numWord_framed hg e runs

/-- IMAD is a word of numbers in its widening form, and else an element-wise one (R130). -/
theorem execImad_framed (e : execImad f s = .next t) : s.LaneFramed t G f.dst f.msel.toNat [] := by
  unfold execImad at e
  split at e
  · exact numWord_framed hg e runs
  · exact elemWord_framed hg runs e

/-- IADDC names its carry mask (R131). -/
theorem execIaddc_framed (e : execIaddc f s = .next t) : s.LaneFramed t G f.dst f.msel.toNat [f.aux.toNat % 8] := by
  refine vectorWord_framed hg e runs (fun _ _ => length_cells false _ _) (fun x l b hb => ?_) fun _ _ => rfl
  dsimp only at hb
  split at hb
  · cases hb
  · rw [List.mem_singleton.mp hb]
    exact List.mem_singleton_self _

/-- ISET names its mask and writes no register (R134). -/
theorem execIset_framed (e : execIset f s = .next t) : s.LaneFramed t G f.dst f.msel.toNat [f.aux.toNat % 8] :=
  vectorWord_framed hg e runs (fun _ _ => Nat.zero_le 2)
    (fun _ _ b hb => by rw [List.mem_singleton.mp hb]; exact List.mem_singleton_self _) fun _ _ => rfl

/-- SEL names no mask as a destination (R135). -/
theorem execSel_framed (e : execSel f s = .next t) : s.LaneFramed t G f.dst f.msel.toNat [] :=
  vectorWord_framed hg e runs (fun _ _ => length_cells _ _ _) (fun _ _ _ hb => nomatch hb) fun _ _ => rfl

end

/-- Settles O53: a word of numbers names no mask, and IADDC, ISET and SEL are words of the vector pipes with bits of at most one. -/
theorem laneWordFrame : Obligations.LaneWordFrame := by
  unfold Obligations.LaneWordFrame
  intro s t G f named e he hg _ ex runs
  change s.LaneFramed t G f.dst f.msel.toNat e.2
  simp only [List.mem_cons, List.not_mem_nil, or_false] at he
  rcases he with rfl | rfl | rfl | rfl | rfl | rfl | rfl | rfl | rfl | rfl | rfl | rfl | rfl | rfl | rfl | rfl | rfl | rfl | rfl | rfl
    | rfl | rfl | rfl | rfl | rfl | rfl | rfl | rfl | rfl | rfl | rfl
  · exact elemWord_framed hg runs ex
  · exact elemWord_framed hg runs ex
  · exact execIaddc_framed hg runs ex
  · exact elemWord_framed hg runs ex
  · exact elemWord_framed hg runs ex
  · exact execImad_framed hg runs ex
  · exact elemWord_framed hg runs ex
  · exact elemWord_framed hg runs ex
  · exact elemWord_framed hg runs ex
  · exact elemWord_framed hg runs ex
  · exact elemWord_framed hg runs ex
  · exact logicWord_framed hg runs ex
  · exact logicWord_framed hg runs ex
  · exact logicWord_framed hg runs ex
  · change execNot f s = .next t at ex
    unfold execNot at ex
    exact numWord_framed hg ex runs
  · change execShl f s = .next t at ex
    unfold execShl at ex
    exact shiftWord_framed hg runs ex
  · change execShr f s = .next t at ex
    unfold execShr at ex
    exact shiftWord_framed hg runs ex
  · change execSra f s = .next t at ex
    unfold execSra at ex
    exact shiftWord_framed hg runs ex
  · change execRot f s = .next t at ex
    unfold execRot at ex
    exact shiftWord_framed hg runs ex
  · change execBfx f s = .next t at ex
    unfold execBfx at ex
    exact numWord_framed hg ex runs
  · change execBfi f s = .next t at ex
    unfold execBfi at ex
    exact numWord_framed hg ex runs
  · exact bitsWord_framed hg runs ex
  · exact bitsWord_framed hg runs ex
  · exact bitsWord_framed hg runs ex
  · exact execIset_framed hg runs ex
  · exact execSel_framed hg runs ex
  · change execMovl f s = .next t at ex
    unfold execMovl at ex
    exact numWord_framed hg ex runs
  · change execLea f s = .next t at ex
    unfold execLea at ex
    exact numWord_framed hg ex runs
  · change execLea64 f s = .next t at ex
    unfold execLea64 at ex
    exact numWord_framed hg ex runs
  · change execCvti f s = .next t at ex
    unfold execCvti at ex
    exact numWord_framed hg ex runs
  · change execIdot4 f s = .next t at ex
    unfold execIdot4 at ex
    exact numWord_framed hg ex runs

end Sys2Proof.Machine
end

section
/-! SUPPORT. The lanes of a mask as a list and back, and a mask in some lanes replaced by the bits of another (R34). -/

namespace Sys2Proof.Machine

theorem bit_eq_testBit (w i : Nat) : bit w i = w.testBit i := by
  rw [bit, Nat.testBit_eq_decide_div_mod_eq, Nat.shiftRight_eq_div_pow, Bool.beq_eq_decide_eq]

theorem mem_setBits {m l : Nat} : l ∈ setBits m ↔ l < 32 ∧ m.testBit l = true := by
  simp [setBits, bit_eq_testBit]

theorem testBit_maskOf (ls : List Nat) (i : Nat) : (maskOf ls).testBit i = decide (i ∈ ls) := by
  have grow (n : Nat) : (ls.foldl (fun m l => m ||| 2 ^ l) n).testBit i = (n.testBit i || decide (i ∈ ls)) := by
    induction ls generalizing n with
    | nil => simp
    | cons l ls ih =>
      rw [List.foldl_cons, ih, Nat.testBit_or, Nat.testBit_two_pow]
      simp [Bool.or_assoc, eq_comm]
  simpa [maskOf] using grow 0

/-- Bits written one by one: those of the list come from `f`, the others stay. -/
theorem testBit_foldl_setField (f : Nat → Bool) (ls : List Nat) (n i : Nat) :
    (ls.foldl (fun n l => setField n l l (f l).toNat) n).testBit i = if i ∈ ls then f i else n.testBit i := by
  induction ls generalizing n with
  | nil => simp
  | cons l ls ih =>
    rw [List.foldl_cons, ih, testBit_setField]
    by_cases here : i = l
    · subst here
      cases f i <;> simp
    · simp [here]

/-- The lanes `L` of a mask replaced by the bits of `m` (R34). -/
theorem mergeBits_setBits (w : Word) (L m : Nat) : mergeBits w ((setBits L).map fun l => (l, bit m l)) =
    BitVec.ofNat 32 (maskOf ((List.range 32).filter fun l => if L.testBit l then m.testBit l else w.getLsbD l)) := by
  refine BitVec.eq_of_getLsbD_eq fun i hi => ?_
  rw [mergeBits, List.foldl_map, BitVec.getLsbD_ofNat, BitVec.getLsbD_ofNat, testBit_foldl_setField, testBit_maskOf]
  by_cases inside : L.testBit i = true
  · simp [hi, inside, mem_setBits, bit_eq_testBit]
  · simp [hi, inside, mem_setBits, BitVec.testBit_toNat]

/-- A mask that takes bits in the lanes `L`, also when there is none (R34). -/
theorem Gang.mreg_mergeM_setBits (G : Gang) (j L m : Nat) : (G.mergeM j ((setBits L).map fun l => (l, bit m l))).mreg j =
    BitVec.ofNat 32 (maskOf ((List.range 32).filter fun l => if L.testBit l then m.testBit l else (G.mreg j).getLsbD l)) := by
  rw [← mergeBits_setBits]
  unfold Gang.mergeM
  split
  · rename_i none
    rw [List.isEmpty_iff.mp none]
    simp [mergeBits]
  · simp

end Sys2Proof.Machine
end

section
/-! What the completion of an outstanding operation delivers (R34, R236, R237, R249, R310, R321). -/

namespace Sys2Proof.Machine

/-! ## Delivery and completion (R34, R310) -/

/-- A lane file that has taken an operation's registers and scale bytes (R34, R159). -/
def Pend.laneTaken (p : Pend) (L : LaneFile) : LaneFile :=
  p.scales.foldl (fun (L : LaneFile) x => L.setScale x.1 x.2.1 x.2.2) (p.results.foldl (fun (L : LaneFile) kc =>
    if bit p.lanes (kc.1 / 1024) then L.write (kc.1 / 1024) (kc.1 % 1024) kc.2
    else if p.run.isSome then L.writeShadow (kc.1 / 1024) (kc.1 % 1024) kc.2 else L) L)

/-- A gang that has taken what an operation delivers. -/
def Pend.delivered (p : Pend) (G : Gang) : Gang :=
  p.masks.foldl (fun (G : Gang) m => G.mergeM m.1 ((setBits m.2.1).map fun l => (l, bit m.2.2 l)))
    { G with lane := p.laneTaken G.lane }

/-- What stays outstanding in a gang when an operation completes (R310). -/
def Pend.remaining (p : Pend) (ys : List Pend) : List Pend :=
  match p.cls with
  | none => ys.filter fun y => decide (y.id ≠ p.id)
  | some c => settlePends c (ys.map fun y => if y.id = p.id then y.finished else y)

/-- A completion that raises no cause changes its gang alone. -/
theorem State.complete_quiet (s : State) (g : Nat) {p : Pend} (quiet : p.conds = []) : s.complete g p =
    (s.modGang g p.delivered).modGang g fun G => { G with pend := p.remaining G.pend } := by
  unfold State.complete State.deliver
  rw [quiet]
  refine congrArg (State.modGang _ g) (funext fun G => ?_)
  dsimp only [Pend.remaining]
  cases p.cls <;> rfl

theorem State.gang?_complete {s : State} {g : Nat} {G : Gang} {p : Pend} (hg : s.gang? g = some G) (quiet : p.conds = []) :
    (s.complete g p).gang? g = some { p.delivered G with pend := p.remaining (p.delivered G).pend } := by
  rw [s.complete_quiet g quiet, State.gang?_modGang, State.gang?_modGang, hg]
  rfl

/-- Delivery leaves of the gang whatever the masks and the lane file do not hold. -/
theorem Pend.delivered_keeps {α : Type} (f : Gang → α) (h : ∀ G m L, f { G with m := m, lane := L } = f G) (p : Pend) (G : Gang) :
    f (p.delivered G) = f G := by
  refine (foldl_keeps f _ p.masks (fun G m _ => ?_) _).trans (h G G.m _)
  obtain ⟨n, merged⟩ := G.mergeM_masks m.1 ((setBits m.2.1).map fun l => (l, bit m.2.2 l))
  exact (congrArg f merged).trans (h G n G.lane)

theorem Pend.lane_delivered (p : Pend) (G : Gang) : (p.delivered G).lane = p.laneTaken G.lane := by
  refine foldl_keeps Gang.lane _ p.masks (fun G m _ => ?_) _
  obtain ⟨n, merged⟩ := G.mergeM_masks m.1 ((setBits m.2.1).map fun l => (l, bit m.2.2 l))
  exact (congrArg Gang.lane merged :)

/-- The mask of an operation that delivers one: its lanes are replaced (R34). -/
theorem Pend.mreg_delivered {p : Pend} {j L m : Nat} (one : p.masks = [(j, L, m)]) (G : Gang) : (p.delivered G).mreg j =
    BitVec.ofNat 32 (maskOf ((List.range 32).filter fun l => if L.testBit l then m.testBit l else (G.mreg j).getLsbD l)) := by
  rw [Pend.delivered, one]
  exact Gang.mreg_mergeM_setBits _ j L m

/-- The register of an operation that delivers one, to an active lane (R34). -/
theorem Pend.reg_delivered {p : Pend} {l reg : Nat} {v : Cell} (one : p.results = [(l * 1024 + reg, v)]) (hr : reg < 1024)
    (active : p.lanes.testBit l = true) (L : LaneFile) :
    SMap.find? (l * 1024 + reg) (p.laneTaken L).regs = some { v with live := true } := by
  have lane : (l * 1024 + reg) / 1024 = l := by omega
  have low : (l * 1024 + reg) % 1024 = reg := by omega
  rw [Pend.laneTaken, foldl_keeps LaneFile.regs (fun (L : LaneFile) x => L.setScale x.1 x.2.1 x.2.2) p.scales fun _ _ _ => rfl]
  simp [one, lane, low, bit_eq_testBit, active, LaneFile.write]

/-! ## The counter of a class (R310) -/

section
variable {c : Cnt} {y : Pend} {ys : List Pend}

theorem settlePends_sublist (c : Cnt) (ys : List Pend) : (settlePends c ys).Sublist ys := by
  induction ys with
  | nil => exact List.Sublist.refl _
  | cons x ys ih =>
    unfold settlePends
    split
    · exact ih.cons_cons x
    · split
      · exact ih.cons x
      · exact List.Sublist.refl _

theorem mem_settlePends_of_other (hy : y ∈ ys) (other : y.cls ≠ some c) : y ∈ settlePends c ys := by
  induction ys with
  | nil => cases hy
  | cons x ys ih =>
    unfold settlePends
    split
    · rcases List.mem_cons.mp hy with rfl | later
      · exact List.mem_cons_self
      · exact List.mem_cons_of_mem x (ih later)
    · rename_i same
      split
      · rcases List.mem_cons.mp hy with rfl | later
        · exact absurd other same
        · exact ih later
      · exact hy

/-- The oldest operation of a class holds the later ones while it is not complete. -/
theorem settlePends_oldest {rest : List Pend} (first : ys.filter (fun y => decide (y.cls = some c)) = y :: rest) (going : y.done = false) :
    (settlePends c ys).filter (fun y => decide (y.cls = some c)) = y :: rest := by
  induction ys with
  | nil => cases first
  | cons x ys ih =>
    unfold settlePends
    split
    · rename_i other
      rw [List.filter_cons_of_neg (by simpa using other)] at first ⊢
      exact ih first
    · rename_i same
      have mine : x.cls = some c := Decidable.not_not.mp same
      have kept := first
      rw [List.filter_cons_of_pos (by simpa using mine)] at first
      injection first with head _
      subst head
      simpa [going] using kept

theorem settlePends_all_done (all : ∀ y ∈ ys, y.cls = some c → y.done = true) : ∀ y ∈ settlePends c ys, y.cls ≠ some c := by
  induction ys with
  | nil => simp [settlePends]
  | cons x ys ih =>
    have later := ih fun y hy => all y (List.mem_cons_of_mem x hy)
    unfold settlePends
    split
    · rename_i other
      exact List.forall_mem_cons.mpr ⟨other, later⟩
    · rename_i same
      rw [if_pos (all x List.mem_cons_self (Decidable.not_not.mp same))]
      exact later

end

/-! ## An event of an outstanding operation (R236, R237, R310, R321) -/

theorem State.pend?_id {s : State} {g op : Nat} {p : Pend} (h : s.pend? g op = some p) : p.id = op := by
  obtain ⟨G, _, found⟩ := Option.bind_eq_some_iff.mp h
  simpa using List.find?_some found

theorem State.ripe_of_pend {s : State} {g op : Nat} {G : Gang} {p : Pend} (hg : s.gang? g = some G) (hp : s.pend? g op = some p)
    (going : p.done = false) (unparked : p.park = none) (runs : (s.part (partOfVnum G.vnum)).halted = false) :
    s.ripe g op = some (G, p) := by
  simp [State.ripe, hg, hp, going, unparked, runs]

/-- Lanes performed now are lanes that are left. -/
theorem State.testBit_lanesNow {s : State} {G : Gang} {p : Pend} {l : Nat} (h : (s.lanesNow G p).testBit l = true) :
    p.todo.testBit l = true := by
  unfold State.lanesNow at h
  split at h
  · simp only [testBit_maskOf, decide_eq_true_eq, List.mem_filter, mem_setBits] at h
    exact h.1.2
  · exact h

theorem State.lanesNow_ordered {s : State} {G : Gang} {p : Pend} (h : s.anyOrder G p = false) : s.lanesNow G p = p.todo := by
  simp [State.lanesNow, h]

section
variable (s : State) (g : Nat) (G : Gang) {p : Pend} (f : Agent → Pend → List Nat → State → Try) (fin : State → Pend → State)
variable (unparked : p.park = none)
include unparked

/-- Nothing is left to perform: the operation completes. -/
theorem State.advance_finished (none : p.todo = 0) : s.advance g G p f fin = fin s p := by
  unfold State.advance
  rw [unparked]
  exact if_pos none

/-- Behind earlier accesses to a byte in common nothing happens. -/
theorem State.advance_behind (some : p.todo ≠ 0)
    (busy : s.comesAfter G (G.pend.takeWhile fun y => decide (y.id ≠ p.id)) (p.reach (setBits p.todo)) = true) :
    s.advance g G p f fin = s := by
  unfold State.advance
  rw [unparked]
  exact (if_neg some).trans (if_pos busy)

/-- Lanes are performed without a fault: the operation completes where none is left. -/
theorem State.advance_performs (some : p.todo ≠ 0)
    (free : s.comesAfter G (G.pend.takeWhile fun y => decide (y.id ≠ p.id)) (p.reach (setBits p.todo)) = false)
    (clean : (f (s.laneAgent G p.runAddr p.widx) p (setBits (s.lanesNow G p)) (s.begin p)).faults = []) :
    let left := maskOf ((setBits p.todo).filter fun l => !(s.lanesNow G p).testBit l)
    let y := f (s.laneAgent G p.runAddr p.widx) p (setBits (s.lanesNow G p)) (s.begin p)
    let q := { y.p with todo := left }
    let u := ({ y.s with held := [] } : State).modGang g fun H => H.putPend q
    s.advance g G p f fin = if left = 0 then fin u q else u := by
  unfold State.advance
  rw [unparked]
  dsimp only
  rw [if_neg some, free, clean]
  simp only [haltingFault, List.filter_nil, List.isEmpty_nil, if_true, bit_eq_testBit]
  rfl

end

/-- An attempt at a tile word leaves its number (R249). -/
theorem tileTry_id (g : Nat) (G : Gang) (ag : Agent) (p : Pend) (ls : List Nat) (s : State) : (tileTry g G ag p ls s).p.id = p.id := by
  have moved (load : Bool) (z n : Nat) : (runTileMove load z n g G ag p ls s).p.id = p.id := by
    refine foldl_keeps (fun t : Try => t.p.id) _ (List.range (16 * n)) (fun t i _ => ?_) ⟨s, p, []⟩
    dsimp only
    split
    · split <;> rfl
    · split
      · rfl
      · split <;> rfl
  have read (f : LT) : (runTrd f G ag p ls s).p.id = p.id := by
    unfold runTrd
    split
    · rfl
    · refine foldl_keeps Pend.id ?_ (ls ++ G.helpers ls) ?_ p
      exact fun _ _ _ => rfl
  unfold tileTry
  split
  · rfl
  · exact moved _ _ _
  · exact moved _ _ _
  · exact read _
  · rfl
  · rfl

/-- An acquire follows a word whose order says so (R236, R318). -/
theorem State.acquireOf_some (s : State) (G : Gang) {p : Pend} {f : LM} (h : memoryFields p.word = some f) :
    s.acquireOf G p = if f.order.toNat % 2 = 1 then s.acquire G (lmScope f p (setBits p.lanes)) else s := by
  simp [State.acquireOf, h, bit]

theorem State.acquireOf_none (s : State) (G : Gang) {p : Pend} (h : memoryFields p.word = none) : s.acquireOf G p = s := by
  simp [State.acquireOf, h]

section
variable {s : State} {g op : Nat} {G : Gang} {k : Pend} (ripe : s.ripe g op = some (G, k))
include ripe

theorem exec_loadComplete : exec (.loadComplete g op) s = .next (if k.kind = .load then
    s.advance g G k (wordTry g G) fun s p => (s.complete g p).acquireOf G p else s) := by
  change execLoadComplete g op s = _
  rw [execLoadComplete, ripe]

theorem exec_storePerformed : exec (.storePerformed g op) s = .next (if k.kind = .store then
    s.advance g G k (wordTry g G) fun s p => (s.complete g p).acquireOf G p else s) := by
  change execStorePerformed g op s = _
  rw [execStorePerformed, ripe]

theorem exec_sfuResultComplete : exec (.sfuResultComplete g op) s = .next (if k.kind = .sfu then s.complete g k else s) := by
  change execSfuResultComplete g op s = _
  rw [execSfuResultComplete, ripe]

theorem exec_marverWordComplete : exec (.marverWordComplete g op) s = .next (if k.kind = .marver then s.complete g k else s) := by
  change execMarverWordComplete g op s = _
  rw [execMarverWordComplete, ripe]

theorem exec_patternEntryLoaded : exec (.patternEntryLoaded g op) s = .next (if k.kind = .xldp then s.complete g k else s) := by
  change execPatternEntryLoaded g op s = _
  rw [execPatternEntryLoaded, ripe]

theorem exec_tileWordComplete : exec (.tileWordComplete g op) s = .next (
    if decide (k.kind ≠ .tile) || (s.wg? G.place.wg).any fun W => W.slotWaits k.id s.now (tileUse G k).1 (tileUse G k).2 then s
    else s.advance g G k (tileTry g G) fun s p => (s.complete g p).modWg G.place.wg fun W => W.release p.id) := by
  change execTileWordComplete g op s = _
  rw [execTileWordComplete, ripe]

end

end Sys2Proof.Machine
end

section
/-! Completions, settled (R34, R159, R203, R207, R232, R236, R237, R249, R309, R310, R321). -/

namespace Sys2Proof.Machine

/-- An event of a memory or tile word with lanes left: it waits, or performs the lanes of this time, and finishes when none is left. -/
theorem exec_of_advance {s : State} {g : Nat} {G : Gang} {k : Pend} {i : Instr} {held : Bool}
    {f : Agent → Pend → List Nat → State → Try} {fin : State → Pend → State} (unparked : k.park = none) (lanes : k.todo ≠ 0)
    (event : exec i s = .next (if held then s else s.advance g G k f fin)) :
    let busy := s.comesAfter G (G.pend.takeWhile fun y => decide (y.id ≠ k.id)) (k.reach (setBits k.todo))
    let now := s.lanesNow G k
    let left := maskOf ((setBits k.todo).filter fun l => !now.testBit l)
    let y := f (s.laneAgent G k.runAddr k.widx) k (setBits now) (s.begin k)
    let q := { y.p with todo := left }
    let u := ({ y.s with held := [] } : State).modGang g fun H => H.putPend q
    (∀ l, now.testBit l = true → k.todo.testBit l = true) ∧ (s.anyOrder G k = false → now = k.todo)
    ∧ (busy = true ∨ held = true → exec i s = .next s)
    ∧ (busy = false → held = false → y.faults = [] → left ≠ 0 → exec i s = .next u)
    ∧ (busy = false → held = false → y.faults = [] → left = 0 → exec i s = .next (fin u q)) := by
  refine ⟨fun l => State.testBit_lanesNow, State.lanesNow_ordered, ?_, ?_, ?_⟩
  · rintro (busy | rfl)
    · rw [event, s.advance_behind g G f fin unparked lanes busy, ite_self]
    · exact event
  · intro free unheld clean more
    rw [event, unheld, s.advance_performs g G f fin unparked lanes free clean]
    exact congrArg _ (if_neg more)
  · intro free unheld clean last
    rw [event, unheld, s.advance_performs g G f fin unparked lanes free clean]
    exact congrArg _ (if_pos last)

/-- Settles O39: `advance` by its cases, what a quiet completion delivers, and the class's list by induction. -/
theorem completions : Obligations.Completions := by
  unfold Obligations.Completions
  intro s g op G k hg hp going unparked runs
  have ripe := State.ripe_of_pend hg hp going unparked runs
  obtain rfl := State.pend?_id hp
  refine ⟨?_, ?_, ?_, fun quiet => ⟨?_, ?_, ⟨?_, ?_⟩, ?_, ?_, ?_⟩, fun c ys => ⟨?_, ?_, ?_, ?_⟩⟩
  · simp only [List.forall_mem_cons, List.not_mem_nil, false_imp_iff, implies_true, and_true]
    refine ⟨?_, ?_, ?_, ?_, ?_, ?_⟩
    · rw [exec_loadComplete ripe]
      refine ⟨fun other => congrArg _ (if_neg other), fun same _ done plain => ?_⟩
      rw [if_pos same, s.advance_finished g G _ _ unparked (done (by decide)), State.acquireOf_none _ _ plain]
    · rw [exec_storePerformed ripe]
      refine ⟨fun other => congrArg _ (if_neg other), fun same _ done plain => ?_⟩
      rw [if_pos same, s.advance_finished g G _ _ unparked (done (by decide)), State.acquireOf_none _ _ plain]
    · rw [exec_sfuResultComplete ripe]
      exact ⟨fun other => congrArg _ (if_neg other), fun same _ _ _ => congrArg _ (if_pos same)⟩
    · rw [exec_marverWordComplete ripe]
      exact ⟨fun other => congrArg _ (if_neg other), fun same _ _ _ => congrArg _ (if_pos same)⟩
    · rw [exec_patternEntryLoaded ripe]
      exact ⟨fun other => congrArg _ (if_neg other), fun same _ _ _ => congrArg _ (if_pos same)⟩
    · rw [exec_tileWordComplete ripe]
      exact ⟨fun other => by simp [other], fun _ tile => absurd rfl tile⟩
  · simp only [List.forall_mem_cons, List.not_mem_nil, false_imp_iff, implies_true, and_true]
    constructor
    · intro f same done memory
      rw [exec_loadComplete ripe, if_pos same, s.advance_finished g G _ _ unparked done, State.acquireOf_some _ _ memory]
    · intro f same done memory
      rw [exec_storePerformed ripe, if_pos same, s.advance_finished g G _ _ unparked done, State.acquireOf_some _ _ memory]
  · refine List.forall_mem_cons.mpr ⟨fun same lanes => ?_, List.forall_mem_cons.mpr ⟨fun same lanes => ?_,
      List.forall_mem_singleton.mpr fun same lanes => ?_⟩⟩
    · refine exec_of_advance (held := false) (fin := fun s p => (s.complete g p).acquireOf G p) unparked lanes ?_
      rw [exec_loadComplete ripe, if_pos same]
      rfl
    · refine exec_of_advance (held := false) (fin := fun s p => (s.complete g p).acquireOf G p) unparked lanes ?_
      rw [exec_storePerformed ripe, if_pos same]
      rfl
    · obtain ⟨left, ordered, waits, goes, ends⟩ := exec_of_advance (i := .tileWordComplete g k.id) (f := tileTry g G) (s := s) (g := g)
        (G := G) (held := (s.wg? G.place.wg).any fun W => W.slotWaits k.id s.now (tileUse G k).1 (tileUse G k).2)
        (fin := fun s p => (s.complete g p).modWg G.place.wg fun W => W.release p.id) unparked lanes
        (by rw [exec_tileWordComplete ripe, same]; rfl)
      refine ⟨left, ordered, waits, goes, fun free unheld clean last => (ends free unheld clean last).trans ?_⟩
      exact congrArg (fun id => Host.Outcome.next (State.modWg _ G.place.wg fun W => W.release id)) (tileTry_id g G _ k _ _)
  · rw [s.complete_quiet g quiet]
    rfl
  · intro j other
    rw [s.complete_quiet g quiet, State.gang?_modGang_ne _ _ other, State.gang?_modGang_ne _ _ other]
  · rw [State.gang?_complete hg quiet]
    exact congrArg some (k.delivered_keeps Gang.s (fun _ _ _ => rfl) G)
  · rw [State.gang?_complete hg quiet]
    exact congrArg some (k.delivered_keeps Gang.pc (fun _ _ _ => rfl) G)
  · rw [State.gang?_complete hg quiet, k.delivered_keeps Gang.pend (fun _ _ _ => rfl) G]
    exact congrArg some (by cases h : k.cls <;> simp [Pend.remaining, h])
  · intro j L m one _ _
    rw [State.gang?_complete hg quiet]
    exact congrArg some (Pend.mreg_delivered one G)
  · intro l reg v one hr active
    rw [State.gang?_complete hg quiet]
    exact (congrArg (SMap.find? _ ·.regs) (k.lane_delivered G)).trans (Pend.reg_delivered one hr active G.lane)
  · exact fun y hy => (settlePends_sublist c ys).subset hy
  · exact fun y => mem_settlePends_of_other
  · exact fun y rest => settlePends_oldest
  · exact settlePends_all_done

end Sys2Proof.Machine
end

section
/-! Promotion, the swap check, waiting groups of fault records, stop records and twin reset (R36, R38, R178, R255, R272, R369, R380, R383,
R415). -/

namespace Sys2Proof.Machine

/-! ## Promotion (R36) -/

theorem exec_issuePromotion {s : State} {g : Nat} {G : Gang} (hg : s.gang? g = some G) : ∃ b,
    exec (.issuePromotion g) s = .next (s.putGang g
      { G with promo := b, promoS := G.promoS || (s.scalarReady G && decide (G.sinceS + 4096 ≤ s.now)) })
    ∧ ∀ r, G.runs.head? = some r → s.laneReady G r = true → r.issued = false → G.since + 4096 ≤ s.now → b = true := by
  change ∃ b, execIssuePromotion g s = _ ∧ _
  unfold execIssuePromotion
  rw [hg]
  refine ⟨_, rfl, fun r first ready waits long => ?_⟩
  obtain ⟨rest, runs⟩ := List.head?_eq_some_iff.mp first
  simp [runs, ready, waits, long]

/-! ## The swap check (R38) -/

theorem partOfCluster_clusterOf (core : Nat) : partOfCluster (clusterOf core) = core / 36 := by
  rw [partOfCluster, clusterOf, Nat.div_div_eq_div_mul]

theorem exec_swapCheck_early {s : State} {core : Nat} (early : s.now < (s.core core).issued + 65536) :
    exec (.idleCounterSwapCheck core) s = .next s := by
  change execIdleCounterSwapCheck core s = _
  have idle : s.idle core < 65536 := by rw [State.idle]; omega
  simp [execIdleCounterSwapCheck, idle]

theorem exec_swapCheck_nothing {s : State} {core : Nat}
    (nothing : s.swapChoice (core / 36) core = none ∨ s.swapChoice (core / 36) core = some []) :
    exec (.idleCounterSwapCheck core) s = .next s := by
  change execIdleCounterSwapCheck core s = _
  rcases nothing with choice | choice <;> simp [execIdleCounterSwapCheck, partOfCluster_clusterOf, choice]

theorem exec_swapCheck_one {s : State} {core w : Nat} {W : Wg} (runs : s.stopped (core / 36) = false)
    (due : (s.core core).issued + 65536 ≤ s.now) (choice : s.swapChoice (core / 36) core = some [w]) (hw : s.wg? w = some W)
    (running : W.stage = .running) : exec (.idleCounterSwapCheck core) s =
      .next ((s.beginSave (s.together w)).modCore core fun c => { c with issued := s.now }) := by
  change execIdleCounterSwapCheck core s = _
  have idle : ¬s.idle core < 65536 := by rw [State.idle]; omega
  simp [execIdleCounterSwapCheck, partOfCluster_clusterOf, runs, idle, choice, hw, running]

/-! ## Groups of fault records that wait (R369) -/

section
variable {s : State} {p : Nat} (runs : s.stopped p = false) (kept : (s.part p).backlog = [])
include runs kept

theorem exec_groupWrite_none (none : (s.part p).groups = []) : exec (.faultRecordGroupWrite p) s = .next s := by
  change execFaultRecordGroupWrite p s = _
  simp [execFaultRecordGroupWrite, runs, kept, none]

theorem exec_groupWrite_first {a : Parked} {rest : List Parked} {k : Park} (first : (s.part p).groups = a :: rest)
    (parked : s.parkOf a = some k) :
    let t := s.gafferConsumes p
    let r := (t.modPart p fun P => { P with groups := rest }).writeGroup p
      ((t.modPart p fun P => { P with groups := rest }).parkedAgent a) k.recs (pageGroups k.faults) []
    exec (.faultRecordGroupWrite p) s = .next (
      if 4096 < (t.part p).fqProd - (t.part p).fqCons + (pageGroups k.faults).length + 64 then t
      else r.1.setPark a (some { k with written := true, recs := r.2 ++ k.recs })) := by
  change execFaultRecordGroupWrite p s = _
  have still : ((s.gafferConsumes p).part p).backlog = [] := by
    simpa [State.gafferConsumes, State.part, State.modPart] using kept
  simp [execFaultRecordGroupWrite, runs, kept, first, parked, still, queueSize, queueReserve]

end

/-! ## The stop of an engine (R380, R383, R415) -/

theorem State.stopOperation_idle {s : State} {twin : Nat} (idle : ∀ o ∈ SMap.getD twin [] s.twins, o.started = none) :
    s.stopOperation twin = s := by
  have none : (SMap.getD twin [] s.twins).filter (fun o => o.started.isSome) = [] :=
    List.filter_eq_nil_iff.mpr fun o ho => by simp [idle o ho]
  simp [State.stopOperation, none]

theorem State.abandonStores_quiet {s : State} {core : Nat}
    (quiet : ∀ G ∈ s.residents core, ∀ x ∈ G.pend, x.storing = false ∨ x.todo = 0) : s.abandonStores core = s := by
  refine foldl_keeps id _ (s.residents core) (fun u G hG => ?_) s
  have none : G.pend.filter (fun x => x.storing && decide (x.todo ≠ 0)) = [] :=
    List.filter_eq_nil_iff.mpr fun x hx => by rcases quiet G hG x hx with h | h <;> simp [h]
  simp only [none, List.foldl_nil]

theorem State.abandonUnissued_quiet {s : State} {core : Nat} (quiet : ∀ G ∈ s.residents core, G.mayStore = false) :
    s.abandonUnissued core = s := by
  refine foldl_keeps id _ (s.residents core) (fun u G hG => ?_) s
  simp [quiet G hG]

theorem State.abandon_idle {s : State} {p e : Nat} (idle : s.currentOf p e = none) : s.abandon p e = s := by
  simp [State.abandon, idle]

/-- What an engine had in progress when it stopped (R380). -/
def State.abandonsAt (s : State) (p index : Nat) : State :=
  if index < 36 then (s.abandonStores (36 * p + index)).abandonUnissued (36 * p + index)
  else if index < 54 then s.stopOperation (18 * p + (index - 36))
  else if index < 89 then s.abandon p (stopEngine p index) else s

/-- An engine with nothing in progress leaves nothing undefined. -/
theorem State.abandonsAt_idle {s : State} {p index : Nat}
    (chain : index < 54 ∨ 89 ≤ index ∨ s.currentOf p (stopEngine p index) = none)
    (matrix : 36 ≤ index → index < 54 → ∀ o ∈ SMap.getD (18 * p + (index - 36)) [] s.twins, o.started = none)
    (lanes : index < 36 → ∀ G ∈ s.residents (36 * p + index), G.mayStore = false ∧ ∀ x ∈ G.pend, x.storing = false ∨ x.todo = 0) :
    s.abandonsAt p index = s := by
  unfold State.abandonsAt
  split
  · rename_i lane
    rw [State.abandonStores_quiet fun G hG => (lanes lane G hG).2, State.abandonUnissued_quiet fun G hG => (lanes lane G hG).1]
  · split
    · exact State.stopOperation_idle (matrix (by omega) (by omega))
    · split
      · exact State.abandon_idle ((chain.resolve_left (by omega)).resolve_left (by omega))
      · rfl

theorem exec_engineStop_later {s : State} {p index : Nat} (later : s.stopsLater p index = true) :
    exec (.engineStop p index) s = .next s := by
  change execEngineStop p index s = _
  simp [execEngineStop, later]

theorem exec_engineStop_now {s : State} {p index : Nat} (halting : (s.part p).halting = true) (due : index ∈ (s.part p).toStop)
    (now : s.stopsLater p index = false) : exec (.engineStop p index) s =
      .next (((s.abandonsAt p index).writeStop p index ((s.abandonsAt p index).part p).hseq (s.stopInfo p index)).modPart p fun P =>
        { P with toStop := P.toStop.erase index, halted := P.halted || (P.toStop.erase index).isEmpty }) := by
  change execEngineStop p index s = _
  unfold execEngineStop
  rw [if_neg (by simp [halting, due, now])]
  rfl

theorem State.stopsLater_of_idle {s : State} {p index : Nat}
    (chain : index < 54 ∨ 89 ≤ index ∨ s.currentOf p (stopEngine p index) = none) : s.stopsLater p index = false := by
  unfold State.stopsLater
  rcases chain with h | h | h
  · simp [show ¬72 ≤ index by omega]
  · simp [show ¬index < 81 by omega]
  · simp [h]

/-! ## The matrix watchdog and twin reset (R255, R272) -/

@[simp] theorem State.beyondRecords_fresh (s : State) (n : Nat) : ({ s with fresh := n } : State).beyondRecords = s.beyondRecords := (rfl)

@[simp] theorem State.beyondRecords_writeStop (s : State) (p index hseq : Nat) (i : StopInfo) :
    (s.writeStop p index hseq i).beyondRecords = s.beyondRecords := by
  unfold State.writeStop
  rw [State.beyondRecords_fresh, State.beyondRecords_homeWrite]

@[simp] theorem State.beyondRecords_resetRecord (s : State) (p : Nat) (ag : Agent) (detail : Nat) :
    (s.resetRecord p ag detail).beyondRecords = s.beyondRecords := s.beyondRecords_writeRecord _ _

theorem State.holdsTiles_of_records {s t : State} (h : t.beyondRecords = s.beyondRecords) (W : Wg) (twin : Nat) :
    t.holdsTiles W twin = s.holdsTiles W twin :=
  show t.beyondRecords.holdsTiles W twin = s.beyondRecords.holdsTiles W twin from congrArg (State.holdsTiles · W twin) h

theorem State.wgs_of_records {s t : State} (h : t.beyondRecords = s.beyondRecords) : t.wgs = s.wgs :=
  show t.beyondRecords.wgs = s.beyondRecords.wgs from congrArg _ h

/-- Restart or kill the workgroups that hold tile slots at a twin (R272). -/
def State.resetHolders (s : State) (twin : Nat) : State :=
  ((s.wgs.filter fun kv => s.holdsTiles kv.2 twin).map Prod.fst).foldl (fun s w =>
    match s.wg? w with
    | none => s
    | some W => if s.recomputable W then s.restartWg w true else s.killWg w (some twin) true) s

theorem State.resetHolders_none {s t : State} {twin : Nat} (same : t.beyondRecords = s.beyondRecords)
    (unheld : ∀ kv ∈ s.wgs, s.holdsTiles kv.2 twin = false) (ops : SMap (List MatOp)) :
    ({ t with twins := ops } : State).resetHolders twin = { t with twins := ops } := by
  have none : t.wgs.filter (fun kv => ({ t with twins := ops } : State).holdsTiles kv.2 twin) = [] := by
    refine List.filter_eq_nil_iff.mpr fun kv hkv => ?_
    have held : ({ t with twins := ops } : State).holdsTiles kv.2 twin = s.holdsTiles kv.2 twin :=
      State.holdsTiles_of_records same kv.2 twin
    simp [held, unheld kv (State.wgs_of_records same ▸ hkv)]
  unfold State.resetHolders
  dsimp only
  rw [none, List.map_nil, List.foldl_nil]

theorem State.resetTwin_eq (s : State) (twin : Nat) :
    let u := (s.resetRecord (twin / 18) Agent.none twin).writeStop (twin / 18) (36 + twin % 18) (s.part (twin / 18)).seq
      (s.stopMatrix twin)
    s.resetTwin twin = ({ u with twins := SMap.erase twin u.twins } : State).resetHolders twin := (rfl)

/-- A twin at which no workgroup holds tile slots is reset with its records and nothing else (R272). -/
theorem State.resetTwin_unheld {s : State} {twin : Nat} (unheld : ∀ kv ∈ s.wgs, s.holdsTiles kv.2 twin = false) :
    let u := (s.resetRecord (twin / 18) Agent.none twin).writeStop (twin / 18) (36 + twin % 18) (s.part (twin / 18)).seq
      (s.stopMatrix twin)
    s.resetTwin twin = { u with twins := SMap.erase twin u.twins } :=
  (s.resetTwin_eq twin).trans (State.resetHolders_none (by simp) unheld _)

/-- An operation of a twin has not retired 2^20 clk after its dispatch (R255). -/
theorem exec_matrixWatchdog {s : State} {twin : Nat} (runs : s.stopped (twin / 18) = false) : exec (.matrixWatchdogExpiry twin) s =
    .next (if (SMap.getD twin [] s.twins).any fun o => o.started.any fun t => decide (t + 2 ^ 20 ≤ s.now) then s.resetTwin twin else s) := by
  change execMatrixWatchdogExpiry twin s = _
  simp [execMatrixWatchdogExpiry, runs]

theorem exec_twinReset {s : State} {twin : Nat} (runs : s.stopped (twin / 18) = false) (served : s.inService (twin / 18) = true) :
    exec (.twinReset twin) s = .next (s.resetTwin twin) := by
  change execTwinReset twin s = _
  simp [execTwinReset, runs, served]

end Sys2Proof.Machine
end

section
/-! Stops and watchdogs, settled (R36, R38, R178, R255, R272, R369, R380, R383, R415). -/

namespace Sys2Proof.Machine

/-- Settles O45, event by event. -/
theorem stopsAndWatchdogs : Obligations.StopsAndWatchdogs := by
  unfold Obligations.StopsAndWatchdogs
  refine ⟨?_, ?_, ?_, ?_, ?_, fun s p index => exec_engineStop_later, ?_⟩
  · intro s g G r hg first ready waits long
    obtain ⟨b, event, lane⟩ := exec_issuePromotion hg
    rw [event, lane r first ready waits long]
  · intro s g G hg ready long
    obtain ⟨b, event, _⟩ := exec_issuePromotion hg
    exact ⟨b, by rw [event]; simp [ready, long]⟩
  · exact fun s core runs => ⟨exec_swapCheck_early, fun due => ⟨exec_swapCheck_nothing, fun w W => exec_swapCheck_one runs due⟩⟩
  · intro s p runs kept
    refine ⟨exec_groupWrite_none runs kept, fun a rest k first parked => ⟨fun full => ?_, fun room => ?_⟩⟩
    · exact (exec_groupWrite_first runs kept first parked).trans (congrArg _ (if_pos full))
    · exact (exec_groupWrite_first runs kept first parked).trans (congrArg _ (if_neg (Nat.not_lt.mpr room)))
  · intro s p index halting due chain matrix lanes
    rw [exec_engineStop_now halting due (State.stopsLater_of_idle chain), State.abandonsAt_idle chain matrix lanes]
  · intro s twin runs served late
    have watch := exec_matrixWatchdog runs
    have found : late ↔
        ((SMap.getD twin [] s.twins).any fun o => o.started.any fun t => decide (t + 2 ^ 20 ≤ s.now)) = true := by
      simp [late, List.any_eq_true, Option.any_eq_true]
    have reset : late → exec (.matrixWatchdogExpiry twin) s = exec (.twinReset twin) s := fun expired => by
      rw [watch, if_pos (found.mp expired), exec_twinReset runs served]
    refine ⟨reset, fun inTime => by rw [watch, if_neg fun expired => inTime (found.mpr expired)], fun unheld => ?_⟩
    have alone := (exec_twinReset runs served).trans (congrArg Host.Outcome.next (State.resetTwin_unheld unheld))
    exact ⟨alone, fun expired => (reset expired).trans alone⟩

end Sys2Proof.Machine
end

section
/-! Placement, reservations, ways, and the start and retirement of workgroups (R18, R27, R29, R198, R227, R337, R338, R344). -/

namespace Sys2Proof.Machine

/-! ## Placement of units (R337) -/

/-- The cores at which a waiting unit is placed, if it is not held back and fits. -/
def State.placed? (s : State) (p : Nat) (u : PUnit) : Option (PUnit × Shape × List Nat) :=
  if s.heldBack p u then none
  else (s.shape u).bind fun sh => (s.findPlace p [] (fun _ => true) u sh).map fun cs => (u, sh, cs)

theorem State.placed?_none {s : State} {p : Nat} {u : PUnit}
    (h : s.heldBack p u = true ∨ ∀ sh, s.shape u = some sh → s.findPlace p [] (fun _ => true) u sh = none) : s.placed? p u = none := by
  unfold State.placed?
  split
  · rfl
  · rename_i free
    cases shape : s.shape u with
    | none => rfl
    | some sh => simp [h.resolve_left free sh shape]

theorem State.placed?_some {s : State} {p : Nat} {u : PUnit} {sh : Shape} {cs : List Nat} (free : s.heldBack p u = false)
    (shape : s.shape u = some sh) (fits : s.findPlace p [] (fun _ => true) u sh = some cs) : s.placed? p u = some (u, sh, cs) := by
  simp [State.placed?, free, shape, fits]

theorem exec_placeUnit_none {s : State} {p : Nat} (runs : s.stopped p = false) (none : ∀ v ∈ s.waiting p, s.placed? p v = none) :
    exec (.placeUnit p) s = .next (s.noteFirst p) := by
  change execPlaceUnit p s = _
  have found : (s.waiting p).findSome? (s.placed? p) = .none := List.findSome?_eq_none_iff.mpr none
  unfold State.placed? at found
  simp only [execPlaceUnit, runs, found, Bool.false_eq_true, if_false]

theorem exec_placeUnit_first {s : State} {p : Nat} (runs : s.stopped p = false) {us vs : List PUnit} {u : PUnit} {sh : Shape}
    {cs : List Nat} (order : s.waiting p = us ++ u :: vs) (before : ∀ v ∈ us, s.placed? p v = none)
    (here : s.placed? p u = some (u, sh, cs)) : exec (.placeUnit p) s = .next ((s.placeUnit p u sh cs).noteFirst p) := by
  change execPlaceUnit p s = _
  have found : (s.waiting p).findSome? (s.placed? p) = some (u, sh, cs) := by
    rw [order, List.findSome?_append, List.findSome?_eq_none_iff.mpr before, List.findSome?_cons, here]
    rfl
  unfold State.placed? at found
  simp only [execPlaceUnit, runs, found, Bool.false_eq_true, if_false]

/-! ## Reservations (R338) -/

theorem exec_unitReservation_kept {s : State} {p : Nat} (runs : s.stopped p = false) (kept : (s.noteFirst p).reservedUnit p ≠ none) :
    exec (.unitReservation p) s = .next (s.noteFirst p) := by
  change execUnitReservation p s = _
  simp [execUnitReservation, runs, Option.isSome_iff_ne_none.mpr kept]

theorem exec_unitReservation_due {s : State} {p : Nat} (runs : s.stopped p = false) (free : (s.noteFirst p).reservedUnit p = none) :
    exec (.unitReservation p) s = .next ((s.noteFirst p).modPart p fun P => { P with reserved :=
      (((s.noteFirst p).waiting p).find? fun u =>
        ((s.noteFirst p).part p).first.any fun l => decide (l.2.1 = u) && decide (l.2.2 + 2 ^ 20 ≤ s.now)) }) := by
  change execUnitReservation p s = _
  have same : (s.noteFirst p).now = s.now := rfl
  simp [execUnitReservation, runs, free, same]

/-! ## Chains that firmware starts -/

theorem exec_gafferChainStart {s : State} {p ladle addr : Nat} (runs : s.stopped p = false) (served : s.inService p = true)
    (room : s.engineFull (18 * p + ladle) = false) : exec (.gafferChainStart p ladle addr) s =
      .next (s.addChain (18 * p + ladle) addr 0 ⟨none, none, none, none, 0, none, none, p, (18 * p + ladle) / 2⟩) := by
  change execGafferChainStart p ladle addr s = _
  simp [execGafferChainStart, runs, served, room]

/-! ## Gangs by quarter (R18) -/

theorem length_filter_quarter (n : Nat) {q : Nat} (hq : q < 4) : ((List.range n).filter fun j => j % 4 == q).length = (n + 3 - q) / 4 := by
  induction n with
  | zero =>
    rw [Nat.div_eq_of_lt (by omega)]
    rfl
  | succ n ih =>
    rw [List.range_succ, List.filter_append, List.length_append, ih]
    by_cases mine : n % 4 = q
    · rw [List.filter_cons_of_pos (by simpa using mine)]
      simp only [List.filter_nil, List.length_singleton]
      omega
    · rw [List.filter_cons_of_neg (by simpa using mine)]
      simp only [List.filter_nil, List.length_nil]
      omega

theorem getElem?_byQuarter (n : Nat) {q : Nat} (hq : q < 4) :
    (byQuarter n)[q]? = some ((List.range n).filter fun j => j % 4 == q).length := by
  simp [length_filter_quarter n hq, byQuarter, hq]

/-! ## Ways and workgroups (R27, R29, R198, R227) -/

theorem exec_wayConversionComplete {s : State} {core way w : Nat} (runs : s.stopped (core / 36) = false)
    (closing : SMap.getD way .l1 (s.core core).ways = .closing w) : exec (.wayConversionComplete core way) s =
      .next ((s.dropLines core fun l => decide (l.way = way)).modCore core fun c => { c with ways := SMap.put way (.scratch w) c.ways }) := by
  change execWayConversionComplete core way s = _
  simp [execWayConversionComplete, partOfCluster_clusterOf, runs, closing]

section
variable {s : State} {w : Nat} {W : Wg} (hw : s.wg? w = some W) (runs : s.stopped (W.core / 36) = false)
include hw runs

theorem exec_workgroupStart (setup : W.stage = .setup) (fresh : W.saved = false) (ready : s.waysReady w W = true) :
    exec (.workgroupStart w) s = .next ((if W.child.isSome ∨ (s.grid? W.grid).any Grid.wtest = true then s.acquireCores W else s).modWg w
      fun W => { W with stage := .running }) := by
  change execWorkgroupStart w s = _
  simp [execWorkgroupStart, partOfCluster_clusterOf, hw, runs, setup, fresh, ready]

theorem exec_workgroupRetire (running : W.stage = .running) (asleep : ∀ g ∈ W.gangs, ∃ G, s.gang? g = some G ∧ G.life ≠ .awake) :
    exec (.workgroupRetire w) s =
      .next ((W.gangs.foldl State.reportOwed ((s.killChainsOf w false).cleanCores W)).removeWg w W) := by
  change execWorkgroupRetire w s = _
  have all : (W.gangs.all fun g => (s.gang? g).any fun G => decide (G.life ≠ .awake)) = true :=
    List.all_eq_true.mpr fun g hg => by
      obtain ⟨G, found, exited⟩ := asleep g hg
      simp [found, exited]
  unfold execWorkgroupRetire
  rw [hw]
  dsimp only
  rw [if_neg]
  rw [running, partOfCluster_clusterOf, runs, all]
  decide

end

/-- The end of a grid that a TRAP asked for (R198, R344). -/
theorem exec_endGrid {s : State} {g : Nat} {G : Gang} (hg : s.gang? g = some G) (trap : G.wait = .trap)
    (runs : s.stopped (partOfVnum G.vnum) = false) : exec (.endGrid g) s = .next (s.endGrid G.grid none) := by
  change execEndGrid g s = _
  simp [execEndGrid, hg, trap, runs]

end Sys2Proof.Machine
end

section
/-! Launch records: their tests, their entry and their completion (R329, R331, R332, R334, R335, R376). -/

namespace Sys2Proof.Machine

/-! ## Fields of a record (R329) -/

theorem bits_eq_div (w hi lo : Nat) : bits w hi lo = w / 2 ^ lo % 2 ^ (hi + 1 - lo) := by
  rw [bits, Nat.shiftRight_eq_div_pow]

theorem toBytes_mod (n w : Nat) : toBytes n (w % 256 ^ n) = toBytes n w := by
  induction n generalizing w with
  | zero => rfl
  | succ n ih =>
    have whole : 2 ^ 8 ∣ 256 ^ (n + 1) := ⟨256 ^ n, (Nat.pow_succ' (m := 256) (n := n)).trans rfl⟩
    have low : BitVec.ofNat 8 (w % 256 ^ (n + 1)) = BitVec.ofNat 8 w := by
      apply BitVec.eq_of_toNat_eq
      rw [BitVec.toNat_ofNat, BitVec.toNat_ofNat, Nat.mod_mod_of_dvd _ whole]
    have high : w % 256 ^ (n + 1) / 256 = w / 256 % 256 ^ n := by
      rw [Nat.pow_succ, Nat.mul_comm, Nat.mod_mul_right_div_self]
    rw [toBytes, toBytes, low, high, ih]

/-- The top byte of a doubleword replaced. -/
theorem toBytes_setField_top (w v : Nat) : toBytes 8 (setField w 63 56 v) = toBytes 8 (w % 2 ^ 56 + v % 2 ^ 8 * 2 ^ 56) := by
  rw [← toBytes_mod, ← toBytes_mod 8 (w % 2 ^ 56 + _), setField, bits_eq_div]
  congr 1
  simp only [Nat.reducePow, Nat.reduceAdd, Nat.reduceSub]
  omega

/-! ## Completion of a record (R332) -/

section
variable {s t u : State} {v rec code : Nat} {x y : Xlat}
variable (hx : s.translate (9 * partOfVnum v) v .read false rec = (t, .ok x))
variable (clean : (t.homeRead (Req.firmware (partOfVnum v)) (x.pa + 88) 16 true).2.2 = false)
variable (hy : (t.homeRead (Req.firmware (partOfVnum v)) (x.pa + 88) 16 true).1.translate (9 * partOfVnum v) v .write false (rec + 120) = (u, .ok y))

/-- The first doubleword of a record's signal: its mode and its address (R329). -/
def State.signalWord (t : State) (v : Nat) (x : Xlat) : Nat :=
  ofBytes ((t.homeRead (Req.firmware (partOfVnum v)) (x.pa + 88) 16 true).2.1.take 8)

/-- The value that a record's signal adds or sets (R329). -/
def State.signalValue (t : State) (v : Nat) (x : Xlat) : Nat :=
  ofBytes ((t.homeRead (Req.firmware (partOfVnum v)) (x.pa + 88) 16 true).2.1.drop 8)

/-- A record takes its STATE, once its signal is made (R332). -/
def State.stateWritten (q : State) (v : Nat) (y : Xlat) (code : Nat) : State :=
  (q.homeRead (Req.firmware (partOfVnum v)) y.pa 8 true).1.homeWrite (Req.firmware (partOfVnum v)) y.pa
    (toBytes 8 (ofBytes (q.homeRead (Req.firmware (partOfVnum v)) y.pa 8 true).2.1 % 2 ^ 56 + code % 2 ^ 8 * 2 ^ 56)) false

include hx clean hy

theorem State.completeRecord_unsignalled {quiet : Bool} (none : t.signalWord v x / 2 ^ 62 % 4 = 0 ∨ quiet = true)
    (sound : (u.homeRead (Req.firmware (partOfVnum v)) y.pa 8 true).2.2 = false) :
    s.completeRecord v rec code quiet = (u.stateWritten v y code, .none) := by
  have sig : bits (t.signalWord v x) 63 62 = 0 ∨ quiet = true := by rwa [bits_eq_div]
  unfold State.signalWord at sig
  simp only [State.completeRecord, hx, clean, hy, sound, Bool.false_eq_true, if_false]
  rw [if_pos sig, toBytes_setField_top]
  rfl

theorem State.completeRecord_signalled {z : Xlat} {w q : State} {sig : Nat} (mode : t.signalWord v x / 2 ^ 62 % 4 = sig) (some : sig ≠ 0)
    (hz : u.translate (9 * partOfVnum v) v (if sig = 1 then .rmw else .write) true (t.signalWord v x / 8 % 2 ^ 54 * 8) = (w, .ok z))
    (done : w.semUpdate (Req.firmware (partOfVnum v)) z.pa (decide (sig = 1)) (t.signalValue v x) = (q, false))
    (sound : (q.homeRead (Req.firmware (partOfVnum v)) y.pa 8 true).2.2 = false) :
    s.completeRecord v rec code false = (q.stateWritten v y code, none) := by
  have isSig : bits (t.signalWord v x) 63 62 = sig := by rwa [bits_eq_div]
  have isAddr : bits (t.signalWord v x) 56 3 * 8 = t.signalWord v x / 8 % 2 ^ 54 * 8 := congrArg (· * 8) (bits_eq_div _ 56 3)
  rw [← isAddr] at hz
  unfold State.signalWord at isSig hz
  unfold State.signalValue at done
  simp only [State.completeRecord, hx, clean, hy, isSig, Bool.false_eq_true, if_false, or_false, some]
  simp only [hz, done, sound, Bool.false_eq_true, if_false, toBytes_setField_top]
  rfl

end

theorem State.semUpdate_set (w : State) (r : Req) (pa n : Nat) :
    w.semUpdate r pa false n = (w.homeWrite r pa (toBytes 8 (n % 2 ^ 64)) false, false) := rfl

theorem State.semUpdate_add {w : State} {r : Req} {pa n : Nat} (kept : (w.homeAtomic r pa 8).2 = false)
    (sound : (w.homeAtomic r pa 8).1.extentBad pa 8 = false) : w.semUpdate r pa true n =
      ((w.homeAtomic r pa 8).1.putAtomic r false pa (toBytes 8 (((w.homeAtomic r pa 8).1.read64 pa + n) % 2 ^ 64)) false, false) := by
  simp only [State.semUpdate, kept, sound, Bool.or_self, if_true]

/-! ## Entry of a record (R331, R335) -/

/-- A record may enter: fewer than 128 are open, its engine has room, and it is its pair's turn (R282, R335). -/
def State.mayEnter (s : State) (v c : Nat) (r : LaunchRec) : Prop :=
  s.openRecords (partOfVnum v) < 128 ∧ s.entryRoom (partOfVnum v) r.ws = true ∧ s.pairTurn (partOfVnum v) (v % 8 * 9 + c) = true

/-- A state whose partition has taken a record in: the next sequence number and the next pair's turn (R331, R335). -/
def State.counted (t : State) (v c seq : Nat) : State :=
  t.modPart (partOfVnum v) fun P => { P with acceptSeq := seq + 1, rotor := (v % 8 * 9 + c + 1) % 72 }

/-- The grid of a record, under the next number (R331). -/
def State.recordGrid (u : State) (v seq l : Nat) (r : LaunchRec) : State :=
  let (id, s) := u.newId
  let x := s.ctx v
  { s with grids := SMap.put id (r.grid v seq l s.mem (if x.en then some x.root else none)) s.grids }

theorem State.recordGrid_eq (u : State) (v seq l : Nat) (r : LaunchRec) : ∃ image root, u.recordGrid v seq l r =
    { u with nextId := u.nextId + 1, grids := SMap.put u.nextId (r.grid v seq l image root) u.grids } := ⟨_, _, rfl⟩

/-- What entry makes of a record once STATE is written: a grid, a chain, or a record that completes at once (R331). -/
def State.entered (q : State) (v c seq l : Nat) (r : LaunchRec) : State :=
  match r.kind with
  | 0 => ((q.leaveRecord v c false).seenByFetch (partOfVnum v)).recordGrid v seq l r
  | 1 => (q.leaveRecord v c false).addChain (engineOf (9 * partOfVnum v + r.eclu) r.eng) r.desc (BitVec.ofNat 64 (r.w 6))
      ⟨some v, none, none, none, 0, none, some r.addr, partOfVnum v, 9 * partOfVnum v + r.eclu⟩
  | _ => (q.leaveRecord v c false).signalRecord v r seq

section
variable {s t : State} {v c : Nat} {r : LaunchRec} {l : Nat}

theorem State.enterRecord_waits (may : ¬s.mayEnter v c r) : s.enterRecord v c r l = s := by
  refine if_pos (Decidable.byContradiction fun none => ?_)
  obtain ⟨room, engine, turn⟩ := by simpa only [not_or] using none
  exact may ⟨Nat.not_le.mp room, by simpa using engine, by simpa [pairIndex] using turn⟩

variable (may : s.mayEnter v c r) (written : s.writeState v r.addr 1 0 (s.part (partOfVnum v)).acceptSeq = (t, none))
include may written

theorem State.enterRecord_may : s.enterRecord v c r l =
    (t.counted v c (s.part (partOfVnum v)).acceptSeq).entered v c (s.part (partOfVnum v)).acceptSeq l r := by
  obtain ⟨room, engine, turn⟩ := may
  refine (if_neg ?_).trans ?_
  · simp [openLimit, pairIndex, room, engine, turn]
  · rw [written]
    rfl

end

section
variable {q : State} {v c seq l : Nat} {r : LaunchRec}

theorem State.entered_grid (kind : r.kind = 0) :
    q.entered v c seq l r = ((q.leaveRecord v c false).seenByFetch (partOfVnum v)).recordGrid v seq l r := by
  simp only [State.entered, kind]

theorem State.entered_chain (kind : r.kind = 1) : q.entered v c seq l r =
    (q.leaveRecord v c false).addChain (engineOf (9 * partOfVnum v + r.eclu) r.eng) r.desc (BitVec.ofNat 64 (r.w 6))
      ⟨some v, none, none, none, 0, none, some r.addr, partOfVnum v, 9 * partOfVnum v + r.eclu⟩ := by
  simp only [State.entered, kind]

theorem State.entered_done (kind : r.kind = 2) {u : State} (done : (q.leaveRecord v c false).completeRecord v r.addr 2 false = (u, none)) :
    q.entered v c seq l r = u := by
  simp only [State.entered, kind, State.signalRecord, done]

end

/-! ## The dispatcher (R331, R334) -/

/-- The test of a record holds for a word: at least, equal, or not equal (R329, R331). -/
def LaunchRec.holds (r : LaunchRec) (word : Nat) : Prop :=
  if r.test = 1 then r.w 10 ≤ word else if r.test = 2 then word = r.w 10 else word ≠ r.w 10

theorem launchTest_iff (r : LaunchRec) (word : Nat) : launchTest r.test (r.w 10) word = true ↔ r.holds word := by
  unfold launchTest LaunchRec.holds
  split
  · rename_i one
    simp [one]
  · rename_i two
    simp [two]
  · rename_i not1 not2
    rw [if_neg not1, if_neg not2, decide_eq_true_eq]

theorem State.testRecord_holds {s x : State} {v c l : Nat} {r : LaunchRec} {bs : List Byte}
    (read : s.dispRead v r.addr r.waitAddr 8 = (x, .ok bs)) (holds : r.holds (ofBytes bs)) :
    s.testRecord v c r l = (x.setStage v c (.ready r.ws l)).enterRecord v c r l := by
  simp only [State.testRecord, read, (launchTest_iff r _).mpr holds, if_true, State.readyRecord]

theorem State.testRecord_fails {s x : State} {v c l : Nat} {r : LaunchRec} {bs : List Byte}
    (read : s.dispRead v r.addr r.waitAddr 8 = (x, .ok bs)) (fails : ¬r.holds (ofBytes bs)) : s.testRecord v c r l = x := by
  have test : launchTest r.test (r.w 10) (ofBytes bs) = false := by
    rw [Bool.eq_false_iff]
    exact fun holds => fails ((launchTest_iff r _).mp holds)
  simp only [State.testRecord, read, test, Bool.false_eq_true, if_false]

section
variable {s : State} {v c : Nat} (runs : s.stopped (partOfVnum v) = false) (ready : s.recordReady v c = true)
include runs ready

theorem exec_dispatcherEntry_read {t : State} {r : LaunchRec}
    (fresh : (SMap.getD c LaunchChain.init (s.vdev v).chains).stage = .fresh) (read : s.readRecord v c = (t, .ok r)) :
    exec (.dispatcherEntry v c) s = .next (if r.state ≠ 0 then t.leaveRecord v c false else t.tryRecord v c r) := by
  change execDispatcherEntry v c s = _
  simp only [execDispatcherEntry, runs, ready, fresh, read, Bool.not_true, Bool.or_self, Bool.false_eq_true, if_false]

theorem exec_dispatcherEntry_testing {ws : List Nat} {l : Nat}
    (testing : (SMap.getD c LaunchChain.init (s.vdev v).chains).stage = .testing ws l) :
    exec (.dispatcherEntry v c) s = .next (s.testRecord v c ⟨s.launchRecord v c, ws⟩ l) := by
  change execDispatcherEntry v c s = _
  simp only [execDispatcherEntry, runs, ready, testing, Bool.not_true, Bool.or_self, Bool.false_eq_true, if_false]

theorem exec_dispatcherEntry_ready {ws : List Nat} {l : Nat}
    (waits : (SMap.getD c LaunchChain.init (s.vdev v).chains).stage = .ready ws l) :
    exec (.dispatcherEntry v c) s = .next (s.enterRecord v c ⟨s.launchRecord v c, ws⟩ l) := by
  change execDispatcherEntry v c s = _
  simp only [execDispatcherEntry, runs, ready, waits, Bool.not_true, Bool.or_self, Bool.false_eq_true, if_false]

end

section
variable {t u : State} {v c l : Nat} {r : LaunchRec}

theorem State.tryRecord_refused {k : Nat} {ks : List Nat} (bad : t.checkRecord v c r = (u, .codes (k :: ks) l)) :
    t.tryRecord v c r = u.refuse v c r (ks.foldl min k) := by
  simp only [State.tryRecord, bad]

theorem State.tryRecord_untested (good : t.checkRecord v c r = (u, .codes [] l)) (none : r.test = 0) :
    t.tryRecord v c r = (u.setStage v c (.ready r.ws l)).enterRecord v c r l := by
  simp only [State.tryRecord, good, none, if_true, State.readyRecord]

theorem State.tryRecord_tested (good : t.checkRecord v c r = (u, .codes [] l)) (some : r.test ≠ 0) :
    t.tryRecord v c r = (u.setStage v c (.testing r.ws l)).testRecord v c r l := by
  simp only [State.tryRecord, good, some, if_false]

end

/-- A chain whose current record is done reads its NEXT (R331). -/
theorem exec_recordNextWake {s t : State} {v c : Nat} {l : LaunchChain} {r : LaunchRec} (runs : s.stopped (partOfVnum v) = false)
    (hc : c < 8) (chain : SMap.find? c (s.vdev v).chains = some l) (handled : l.handled = true) (going : l.stopped = false)
    (current : l.cur ≠ 0) (unparked : l.park = none) (read : s.readRecord v c = (t, .ok r)) : exec (.recordNextWake v c) s =
      .next (if r.next = 0 then t else t.modLaunch v c fun l => { l with cur := r.next, handled := false, park := none }) := by
  change execRecordNextWake v c s = _
  have found : SMap.getD c LaunchChain.init (s.vdev v).chains = l := by simp [SMap.getD, chain]
  simp [execRecordNextWake, found, runs, Nat.not_le.mpr hc, handled, going, current, unparked, read]

end Sys2Proof.Machine
end

section
/-! Placement and launch, settled (R18, R27, R29, R198, R227, R331, R332, R334, R335, R337, R338, R344, R376). -/

namespace Sys2Proof.Machine

/-- The fields of a grid entered from a record (R329, R331). -/
theorem LaunchRec.grid_fields (r : LaunchRec) (v seq l : Nat) (image : Memory) (root : Option Nat) :
    let D := r.grid v seq l image root
    let f := fun i hi lo => r.w i / 2 ^ lo % 2 ^ (hi + 1 - lo)
    D.vnum = v ∧ D.record = some r.addr ∧ D.seq = seq ∧ D.prio = f 1 61 60 ∧ D.tsave = (r.w 1).testBit 59 ∧ D.cpair = (r.w 1).testBit 58
    ∧ D.w = f 3 31 0 ∧ D.id = f 3 63 32 ∧ D.ngang = f 4 63 58 + 1 ∧ D.regs = 8 * (f 4 57 53 + 1) ∧ D.scr = f 4 52 49
    ∧ D.bars = f 4 48 42 ∧ D.tiles = f 4 41 35 ∧ D.f = f 4 34 29 ∧ D.mt = f 4 28 24 ∧ D.v = f 4 23 18 ∧ D.coh = f 4 17 11
    ∧ D.arg = BitVec.ofNat 64 (r.w 2) ∧ D.fmtbase = BitVec.ofNat 64 (f 5 56 0) ∧ D.seed = BitVec.ofNat 64 (r.w 6)
    ∧ D.spbase = f 7 56 0 ∧ D.spstr = f 8 63 48 ∧ D.entry = f 13 56 0 ∧ D.lsbase = BitVec.ofNat 64 l
    ∧ D.wtest = decide (f 9 63 61 ≠ 0) ∧ D.next = 0 ∧ D.live = D.w ∧ D.kids = 0 ∧ D.killed = false ∧ D.park = none ∧ D.quiet = false := by
  intro D f
  have field (i hi lo : Nat) : bits (r.w i) hi lo = f i hi lo := bits_eq_div _ _ _
  exact ⟨rfl, rfl, rfl, field .., bit_eq_testBit _ _, bit_eq_testBit _ _, field .., field .., congrArg (· + 1) (field ..),
    congrArg (fun n => 8 * (n + 1)) (field ..), field .., field .., field .., field .., field .., field .., field .., rfl,
    congrArg (BitVec.ofNat 64) (field ..), rfl, field .., field .., field .., rfl, congrArg (fun n => decide (n ≠ 0)) (field ..),
    rfl, rfl, rfl, rfl, rfl, rfl⟩

section
variable {s : State} {v c : Nat} (runs : s.stopped (partOfVnum v) = false) (ready : s.recordReady v c = true)
include runs ready

/-- A pending record that passed its checks: it is entered, or tested first (R331). -/
theorem exec_dispatcherEntry_checked {t u : State} {r : LaunchRec} {l : Nat}
    (fresh : (SMap.getD c LaunchChain.init (s.vdev v).chains).stage = .fresh) (read : s.readRecord v c = (t, .ok r)) (pending : r.state = 0)
    (good : t.checkRecord v c r = (u, .codes [] l)) :
    (r.test = 0 → exec (.dispatcherEntry v c) s = .next ((u.setStage v c (.ready r.ws l)).enterRecord v c r l))
    ∧ (r.test ≠ 0 → exec (.dispatcherEntry v c) s = .next ((u.setStage v c (.testing r.ws l)).testRecord v c r l)) := by
  have event := exec_dispatcherEntry_read runs ready fresh read
  rw [if_neg (fun taken => taken pending)] at event
  exact ⟨fun none => by rw [event, State.tryRecord_untested good none], fun some => by rw [event, State.tryRecord_tested good some]⟩

end

/-- Settles O46, clause by clause. -/
theorem placementAndLaunch : Obligations.PlacementAndLaunch := by
  unfold Obligations.PlacementAndLaunch
  refine ⟨?_, fun n q => getElem?_byQuarter n, fun s core way w => exec_wayConversionComplete, ?_, ?_, ?_, fun s g G => exec_endGrid⟩
  · intro s p runs
    refine ⟨fun none => ?_, ?_, fun free => ⟨_, exec_unitReservation_due runs free, ?_⟩, exec_unitReservation_kept runs,
      fun ladle addr => exec_gafferChainStart runs⟩
    · exact exec_placeUnit_none runs fun v hv => State.placed?_none (none v hv)
    · intro us u vs sh cs order before free shape fits
      exact exec_placeUnit_first runs order (fun v hv => State.placed?_none (before v hv)) (State.placed?_some free shape fits)
    · rw [State.part_modPart]
  · exact fun s w W hw runs => ⟨exec_workgroupStart hw runs, exec_workgroupRetire hw runs⟩
  · intro s v c runs
    refine ⟨fun ready => ?_, ?_, ?_⟩
    · intro stage enters tested
      refine ⟨fun fresh t r read => ⟨fun taken => ?_, fun pending u => ⟨fun k ks l bad => ?_, fun l good => ⟨?_, ?_⟩⟩⟩, ?_, ?_⟩
      · rw [exec_dispatcherEntry_read runs ready fresh read, if_pos taken]
      · rw [exec_dispatcherEntry_read runs ready fresh read, if_neg (fun taken => taken pending), State.tryRecord_refused bad]
      · exact (exec_dispatcherEntry_checked runs ready fresh read pending good).1
      · intro some x bs word
        have event := (exec_dispatcherEntry_checked runs ready fresh read pending good).2 some
        exact ⟨fun holds => event.trans (congrArg _ (State.testRecord_holds word holds)),
          fun fails => event.trans (congrArg _ (State.testRecord_fails word fails))⟩
      · intro ws l testing x bs word
        have event := exec_dispatcherEntry_testing runs ready testing
        exact ⟨fun holds => event.trans (congrArg _ (State.testRecord_holds word holds)),
          fun fails => event.trans (congrArg _ (State.testRecord_fails word fails))⟩
      · exact fun ws l waits => exec_dispatcherEntry_ready runs ready waits
    · intro r l
      refine ⟨State.enterRecord_waits, fun may kind t written => ?_, fun may kind t written => ?_, fun may kind t u written done => ?_⟩
      · exact (State.enterRecord_may may written).trans (State.entered_chain kind)
      · obtain ⟨image, root, entered⟩ := State.recordGrid_eq (((t.counted v c (s.part (partOfVnum v)).acceptSeq).leaveRecord v c false).seenByFetch
          (partOfVnum v)) v (s.part (partOfVnum v)).acceptSeq l r
        exact ⟨r.grid v (s.part (partOfVnum v)).acceptSeq l image root,
          ((State.enterRecord_may may written).trans (State.entered_grid kind)).trans entered, r.grid_fields v _ l image root⟩
      · exact (State.enterRecord_may may written).trans (State.entered_done kind done)
    · intro hc l chain handled going current unparked t r read
      have event := exec_recordNextWake runs hc chain handled going current unparked read
      exact ⟨fun last => event.trans (congrArg _ (if_pos last)), fun more => event.trans (congrArg _ (if_neg more))⟩
  · intro s t u v rec code x y k r hx h a n addr fin ends clean hy
    refine ⟨State.completeRecord_unsignalled hx clean hy (.inr rfl), fun none => State.completeRecord_unsignalled hx clean hy (.inl none), ?_, ?_⟩
    · intro z w mode hz b kept sound
      refine State.completeRecord_signalled hx clean hy (sig := 1) mode Nat.one_ne_zero hz ?_
      exact State.semUpdate_add kept sound
    · intro z w mode hz
      refine State.completeRecord_signalled hx clean hy (sig := 2) mode (by decide) hz ?_
      exact w.semUpdate_set _ _ _

end Sys2Proof.Machine
end

section
/-! SUPPORT. Words of the vector pipes whose entry is of another class, and the elements of floating-point words (R141 to R143, R148, R160). -/

namespace Sys2Proof.Machine

/-- A word of the vector pipes that its entries do not allow takes the illegal-instruction fault (R142). -/
theorem vectorWord_illegal {s p : State} {G : Gang} {r : Run} {i : Instr} {msel : Nat} {u : Use} {ok : Gang → Bool}
    (h : s.LaneTurn G r i (some msel) u p) (k : ok G = false) (d : Dst) (out : Issue → Nat → LaneOut) :
    vectorWord i msel u d ok out s = .next (s.laneIllegal G r i) := by
  rw [vectorWord, laneWord_eq h]
  have : ok (mkIssue s s.cur G r (some msel)).gang = false := k
  simp [this, State.laneIllegal]

/-- Words that leave the same in every lane, as the issuing gang stands, leave the same state. -/
theorem State.vectorDone_congr {s p : State} {G : Gang} {r : Run} {msel : Nat} {u : Use} {d : Dst} {out out' : Issue → Nat → LaneOut}
    (h : ∀ l, out (mkIssue s s.cur G r (some msel)) l = out' (mkIssue s s.cur G r (some msel)) l) :
    s.vectorDone G r msel u p d out = s.vectorDone G r msel u p d out' := by
  simp only [State.vectorDone, funext h]

/-- Element `j` of source `k`, which holds `v`, under an entry and with the word's modifiers (R141, R143). -/
def sourceElem (f : L3) (H : Fmt) (k v j : Nat) : Num :=
  let y := H.decode (v / 2 ^ (32 / H.perLane * j) % 2 ^ H.width)
  let y := if f.fn.getLsbD (2 * k + 1) then y.abs else y
  if f.fn.getLsbD (2 * k) then y.neg else y

theorem modify_elem (f : L3) (H : Fmt) (k v j : Nat) : modify f.fn.toNat k (H.elem v j) = sourceElem f H k v j := by
  simp only [modify, bit_eq_testBit]
  rfl

/-- What a word of `n` sources leaves in a lane: its elements under the entry `F`, each rounded once, with the OR of its sources' poison
(R116, R141, R145). -/
def floatLane (f : L3) (n : Nat) (g : Num → Num → Num → Num × Bool) (F : Fmt) (a b c : Nat × Bool) (rb : Nat → Nat) : LaneOut :=
  let third := if n = 3 then c.1 else 0
  let pz := a.2 || b.2 || (decide (n = 3) && c.2)
  let es := (List.range F.perLane).map fun j => F.round f.rnd.toNat f.sat (rb j)
    (g (sourceElem f F 0 a.1 j) (sourceElem f F 1 b.1 j) (sourceElem f F 2 third j))
  { vals := cells false (F.pack (es.map Elem.code)) pz, cond := laneCond pz es }

section
variable {s p : State} {G : Gang} {r : Run} {i : Instr} {f : L3} {n : Nat} {cls : Fmt → Bool} {g : Bool → Num → Num → Num → Num × Bool}
  (turn : s.LaneTurn G r i (some f.msel.toNat) (srcUse ([(f.a, false), (f.b, false), (f.c, false)].take n) f.dst false) p)
include turn

/-- A floating-point word is illegal on an entry of another class, and on one of its class leaves in each lane what `floatLane` says. -/
theorem floatWord_eq (count : n = 2 ∨ n = 3) :
    let x := mkIssue s s.cur G r (some f.msel.toNat)
    (cls (G.fmt f.fmt.toNat) = false → floatWord i f n cls g s = .next (s.laneIllegal G r i))
    ∧ (cls (G.fmt f.fmt.toNat) = true → floatWord i f n cls g s = .next (s.vectorDone G r f.msel.toNat
        (srcUse ([(f.a, false), (f.b, false), (f.c, false)].take n) f.dst false) p f.dst fun y l =>
          floatLane f n (g (decide (f.rnd = 2))) (G.fmt f.fmt.toNat) (x.word l f.a false) (x.word l f.b false) (x.word l f.c false)
            (y.rb l))) := by
  refine ⟨fun bad => by rw [floatWord, vectorWord_illegal turn bad], fun ok => ?_⟩
  rw [floatWord, vectorWord_eq turn ok, State.vectorDone_congr]
  intro l
  have gang : (mkIssue s s.cur G r (some f.msel.toNat)).gang = G := rfl
  rcases count with rfl | rfl
  all_goals simp [floatLane, Issue.args, arg, modify_elem, Bool.or_assoc, gang]

end

/-- What FDOT2 leaves in a lane: the sum of its two products and its third source, rounded once (R160). -/
def fdot2Lane (f : L3) (F E : Fmt) (a b c : Nat × Bool) (rb : Nat → Nat) : LaneOut :=
  let o := E.round f.rnd.toNat f.sat (rb 0) (Num.dot [(sourceElem f F 0 a.1 0, sourceElem f F 1 b.1 0),
    (sourceElem f F 0 a.1 1, sourceElem f F 1 b.1 1)] [sourceElem f E 2 c.1 0] (decide (f.rnd = 2)))
  let pz := a.2 || b.2 || c.2
  { vals := cells false o.code pz, cond := if pz then {} else o.cond }

/-- FDOT2 is illegal unless its sources' entry has 16-bit elements and its result's is binary32, and else leaves in each lane what
`fdot2Lane` says. -/
theorem execFdot2_eq {s p : State} {G : Gang} {r : Run} {f : L3}
    (turn : s.LaneTurn G r (.fdot2 f) (some f.msel.toNat) (srcUse [(f.a, false), (f.b, false), (f.c, false)] f.dst false) p) :
    let x := mkIssue s s.cur G r (some f.msel.toNat)
    let F := G.fmt f.fmt.toNat
    let E := G.fmt (f.aux.toNat % 16)
    ((F.s16 && E.s32) = false → execFdot2 f s = .next (s.laneIllegal G r (.fdot2 f)))
    ∧ ((F.s16 && E.s32) = true → execFdot2 f s = .next (s.vectorDone G r f.msel.toNat
        (srcUse [(f.a, false), (f.b, false), (f.c, false)] f.dst false) p f.dst fun y l =>
          fdot2Lane f F E (x.word l f.a false) (x.word l f.b false) (x.word l f.c false) (y.rb l))) := by
  refine ⟨fun bad => by rw [execFdot2, vectorWord_illegal turn bad], fun ok => ?_⟩
  rw [execFdot2, vectorWord_eq turn ok, State.vectorDone_congr]
  intro l
  have gang : (mkIssue s s.cur G r (some f.msel.toNat)).gang = G := rfl
  simp [fdot2Lane, Issue.args, arg, modify_elem, Bool.or_assoc, laneCond, Cond.or, gang]

end Sys2Proof.Machine
end

section
/-! Sums and products of finite values lose no bit (R141, R148, R160). -/

namespace Sys2Proof.Machine

/-- A finite value with an exponent of at least `u`: an integer in units of 2^u. -/
def Num.Above (u : Int) : Num → Prop
  | .fin _ _ e => u ≤ e
  | _ => False

/-- A value in units of 2^w, in smaller units. -/
theorem Num.scaled_mul_pow {u w : Int} {x : Num} (above : x.Above w) (le : u ≤ w) : x.scaled u = x.scaled w * 2 ^ (w - u).toNat := by
  match x, above with
  | .fin s m e, above =>
    have split : (e - u).toNat = (e - w).toNat + (w - u).toNat := by
      have : w ≤ e := above
      omega
    rw [Num.scaled, Num.scaled, split, Nat.pow_add, ← Nat.mul_assoc, Int.natCast_mul _ (2 ^ _), ← Int.mul_assoc, Int.natCast_pow]
    rfl

/-- A product of finite values is exact (R148). -/
theorem Num.scaled_mul {i j : Int} {x y : Num} (hx : x.Above i) (hy : y.Above j) :
    (x.mul y).2 = false ∧ (x.mul y).1.Above (i + j) ∧ (x.mul y).1.scaled (i + j) = x.scaled i * y.scaled j := by
  match x, y, hx, hy with
  | .fin s m e, .fin t n d, hx, hy =>
    have he : i ≤ e := hx
    have hd : j ≤ d := hy
    have split : (e + d - (i + j)).toNat = (e - i).toNat + (d - j).toNat := by omega
    refine ⟨rfl, show i + j ≤ e + d by omega, ?_⟩
    have sign : (if (s != t) = true then -1 else 1 : Int) = (if s = true then -1 else 1) * (if t = true then -1 else 1) := by
      cases s <;> cases t <;> rfl
    simp only [Num.mul, Num.scaled, split, Nat.pow_add, sign, Int.natCast_mul]
    ac_rfl

theorem Num.Above.isNan {u : Int} {x : Num} (h : x.Above u) : x.isNan = false := by
  cases x <;> trivial

theorem Num.Above.isInf {u : Int} {x : Num} (h : x.Above u) : x.isInf = false := by
  cases x <;> trivial

theorem Num.scaled_of_isZero {x : Num} (h : x.isZero = true) (u : Int) : x.scaled u = 0 := by
  cases x <;> simp_all [Num.isZero, Num.scaled]

/-- The exponent of a finite value that is not zero is its own. -/
theorem Num.above_iff_of_not_isZero {u : Int} {x : Num} (finite : x.isNan = false ∧ x.isInf = false) (h : x.isZero = false) :
    x.Above u ↔ u ≤ x.expo := by
  cases x <;> simp_all [Num.isZero, Num.Above, Num.expo, Num.isNan, Num.isInf]

/-- The unit in which `Num.sum` adds: the least exponent of the terms that are not zero, and at most `w`. -/
def leastExpo (xs : List Num) (w : Int) : Int := xs.foldl (fun u x => if x.isZero then u else min u x.expo) w

theorem le_leastExpo {u w : Int} {xs : List Num} (start : u ≤ w) (above : ∀ x ∈ xs, x.Above u) : u ≤ leastExpo xs w := by
  induction xs generalizing w with
  | nil => exact start
  | cons x xs ih =>
    obtain ⟨first, rest⟩ := List.forall_mem_cons.mp above
    refine ih ?_ rest
    dsimp only
    split
    · exact start
    · rename_i h
      exact Int.le_min.mpr ⟨start, (Num.above_iff_of_not_isZero ⟨first.isNan, first.isInf⟩ (by simpa using h)).mp first⟩

theorem leastExpo_le (xs : List Num) (w : Int) : leastExpo xs w ≤ w ∧ ∀ x ∈ xs, x.isZero = false → leastExpo xs w ≤ x.expo := by
  induction xs generalizing w with
  | nil => exact ⟨Int.le_refl w, fun _ h => nomatch h⟩
  | cons x xs ih =>
    obtain ⟨start, rest⟩ := ih (if x.isZero then w else min w x.expo)
    change leastExpo (x :: xs) w ≤ _ at start
    refine ⟨Int.le_trans start ?_, List.forall_mem_cons.mpr ⟨fun h => ?_, rest⟩⟩
    · split
      · exact Int.le_refl w
      · exact Int.min_le_left _ _
    · rw [h] at start
      exact Int.le_trans start (Int.min_le_right _ _)

/-- A sum in units of 2^w, in smaller units. -/
theorem foldl_scaled_mul_pow {u w : Int} {xs : List Num} (le : u ≤ w) (above : ∀ x ∈ xs, x.isZero = false → x.Above w) (a : Int) :
    xs.foldl (fun a x => a + (if x.isZero then 0 else x.scaled w)) a * 2 ^ (w - u).toNat
      = a * 2 ^ (w - u).toNat + (xs.map (Num.scaled u)).sum := by
  induction xs generalizing a with
  | nil => simp
  | cons x xs ih =>
    obtain ⟨first, rest⟩ := List.forall_mem_cons.mp above
    rw [List.foldl_cons, ih rest, List.map_cons, List.sum_cons, Int.add_mul, Int.add_assoc]
    congr 2
    cases h : x.isZero with
    | true => simp [Num.scaled_of_isZero h]
    | false => simp [Num.scaled_mul_pow (first h) le]

/-- An integer as a value in units of 2^w. -/
theorem Num.scaled_of_int (v : Int) {u w : Int} : (Num.fin (decide (v < 0)) v.natAbs w).scaled u = v * 2 ^ (w - u).toNat := by
  rw [Num.scaled, Int.natCast_mul, ← Int.mul_assoc, Int.natCast_pow]
  congr 1
  split
  · rename_i h
    have := of_decide_eq_true h
    omega
  · rename_i h
    have := of_decide_eq_false (eq_false_of_ne_true h)
    omega

/-- A sum of finite values is exact (R141, R148). -/
theorem Num.sum_exact {u : Int} {xs : List Num} (le : u ≤ 0) (above : ∀ x ∈ xs, x.Above u) (z : Bool) :
    (Num.sum xs z).2 = false ∧ (Num.sum xs z).1.scaled u = (xs.map (Num.scaled u)).sum := by
  have noNan : xs.any Num.isNan = false := List.any_eq_false.mpr fun x hx => by simp [(above x hx).isNan]
  have noInf (b : Num → Bool) : (xs.any fun x => x.isInf && b x) = false :=
    List.any_eq_false.mpr fun x hx => by simp [(above x hx).isInf]
  obtain ⟨_, least⟩ := leastExpo_le xs 0
  have total := foldl_scaled_mul_pow (le_leastExpo le above) (fun x hx h =>
    (Num.above_iff_of_not_isZero ⟨(above x hx).isNan, (above x hx).isInf⟩ h).mpr (least x hx h)) 0
  rw [Int.zero_mul, Int.zero_add] at total
  rw [← total]
  unfold Num.sum
  simp only [noNan, noInf, Bool.and_false, Bool.false_eq_true, if_false]
  change (if _ = 0 then _ else _ : Num × Bool).2 = false ∧ _
  unfold leastExpo
  split
  · rename_i h
    rw [h]
    split
    · simp [Num.scaled]
    · split <;> simp [Num.scaled]
  · exact ⟨rfl, Num.scaled_of_int _⟩

/-- A sum of products of finite values is exact (R148, R160). -/
theorem Num.dot_exact {i j : Int} {ts : List (Num × Num)} {cs : List Num} (le : i + j ≤ 0)
    (terms : ∀ t ∈ ts, t.1.Above i ∧ t.2.Above j) (rest : ∀ c ∈ cs, c.Above (i + j)) (z : Bool) :
    (Num.dot ts cs z).2 = false ∧ (Num.dot ts cs z).1.scaled (i + j)
      = (ts.map fun t => t.1.scaled i * t.2.scaled j).sum + (cs.map (Num.scaled (i + j))).sum := by
  have noNan : ((ts.any fun t => t.1.isNan || t.2.isNan) || cs.any Num.isNan) = false := by
    rw [Bool.or_eq_false_iff, List.any_eq_false, List.any_eq_false]
    exact ⟨fun t ht => by simp [(terms t ht).1.isNan, (terms t ht).2.isNan], fun c hc => by simp [(rest c hc).isNan]⟩
  have valid : ((ts.map fun t => t.1.mul t.2).any Prod.snd) = false := by
    rw [List.any_map, List.any_eq_false]
    exact fun t ht => by simp [(Num.scaled_mul (terms t ht).1 (terms t ht).2).1]
  have products : ((ts.map fun t => t.1.mul t.2).map Prod.fst).map (Num.scaled (i + j)) = ts.map fun t => t.1.scaled i * t.2.scaled j := by
    rw [List.map_map, List.map_map]
    exact List.map_congr_left fun t ht => (Num.scaled_mul (terms t ht).1 (terms t ht).2).2.2
  have above : ∀ x ∈ (ts.map fun t => t.1.mul t.2).map Prod.fst ++ cs, x.Above (i + j) := by
    intro x hx
    rcases List.mem_append.mp hx with h | h
    · rw [List.map_map, List.mem_map] at h
      obtain ⟨t, ht, rfl⟩ := h
      exact (Num.scaled_mul (terms t ht).1 (terms t ht).2).2.1
    · exact rest x h
  simp only [Num.dot, noNan, valid, Bool.false_eq_true, if_false]
  rw [← products, ← List.sum_append, ← List.map_append]
  exact Num.sum_exact le above z

end Sys2Proof.Machine
end

section
/-! Floating-point arithmetic, settled (R141, R143, R144, R148, R149, R160). -/

namespace Sys2Proof.Machine

/-- Settles O21: each word but FDOT2 is `floatWord` of its function, and finite values are integers in a common unit, in which sums and
products are exact. -/
theorem floatArithmetic : Obligations.FloatArithmetic := by
  unfold Obligations.FloatArithmetic
  intro s p G r f
  refine ⟨fun e he turn => ?_, execFdot2_eq, fun sa sb sc ma mb mc ea eb ec i j z hi hj hc => ?_⟩
  · simp only [List.mem_cons, List.not_mem_nil, or_false] at he
    rcases he with rfl | rfl | rfl | rfl | rfl | rfl | rfl | rfl | rfl
    · exact floatWord_eq (g := addNum) turn (.inl rfl)
    · exact floatWord_eq (g := subNum) turn (.inl rfl)
    · exact floatWord_eq (g := mulNum) turn (.inl rfl)
    · exact floatWord_eq (g := fmaNum) turn (.inr rfl)
    · exact floatWord_eq (g := addNum) turn (.inl rfl)
    · exact floatWord_eq (g := mulNum) turn (.inl rfl)
    · exact floatWord_eq (g := fmaNum) turn (.inr rfl)
    · exact floatWord_eq (g := quiet Num.minOf) turn (.inl rfl)
    · exact floatWord_eq (g := quiet Num.maxOf) turn (.inl rfl)
  · have hA : (Num.fin sa ma ea).Above i := hi
    have hB : (Num.fin sb mb eb).Above j := hj
    have hC : (Num.fin sc mc ec).Above (i + j) := hc
    obtain ⟨valid, -, exact⟩ := Num.scaled_mul hA hB
    refine ⟨valid, exact, fun le => ?_, fun sd sf md mf ed ef hd hf le => ?_, fun le hb => ?_⟩
    · simpa using Num.dot_exact (ts := [(.fin sa ma ea, .fin sb mb eb)]) (cs := [.fin sc mc ec]) le (by simp [hA, hB]) (by simp [hC]) z
    · have hD : (Num.fin sd md ed).Above i := hd
      have hH : (Num.fin sf mf ef).Above j := hf
      simpa [Int.add_assoc] using Num.dot_exact (ts := [(.fin sa ma ea, .fin sb mb eb), (.fin sd md ed, .fin sf mf ef)])
        (cs := [.fin sc mc ec]) le (by simp [hA, hB, hD, hH]) (by simp [hC]) z
    · have hB' : (Num.fin sb mb eb).Above i := hb
      simpa using Num.sum_exact (xs := [.fin sa ma ea, .fin sb mb eb]) le (by simp [hA, hB']) z

end Sys2Proof.Machine
end

section
/-! SUPPORT. The frame of the block words, and what a quantised block is (R94, R102, R103, R161, R162, R164). -/

namespace Sys2Proof.Machine

/-! ## The frame of a block word -/

theorem State.withGang_eq {s : State} {G : Gang} (hg : s.gang? s.cur = some G) (f : Gang → Host.Outcome State Fault Refusal) :
    s.withGang f = f G := by
  simp only [State.withGang, hg]

/-- A block word on entries that it accepts leaves what its effect leaves (R163). -/
theorem blockWord_eq {s p : State} {G : Gang} {r : Run} {i : Instr} {msel : Nat} {u : Use} {ok : Bool}
    (turn : s.LaneTurn G r i (some msel) u p) (accepts : ok = true) (eff : Issue → State → State) :
    blockWord i msel u ok eff s =
      .next ((eff (mkIssue s s.cur G r (some msel)) (s.laneIn G r (some msel) u p)).laneIssued s.cur G r.serial) := by
  rw [blockWord, laneWord_eq turn]
  simp [accepts]

/-- The lanes of a block, as the statement counts them (R94). -/
theorem Fmt.blkSpan_eq (F : Fmt) : F.blkSpan = if F.width = 4 ∨ F.blockLen = 16 then 4 else 8 := by
  unfold Fmt.blkSpan Fmt.blkCount
  split <;> rfl

theorem Fmt.blkSpan_pos (F : Fmt) : 0 < F.blkSpan := by
  rw [Fmt.blkSpan_eq]
  split <;> decide

/-- The lanes of the block that holds a block's first lane are the block's. -/
theorem Fmt.blkLanes_of_first (F : Fmt) (j : Nat) :
    ((List.range F.blkSpan).map fun i => F.blkSpan * (F.blkSpan * j / F.blkSpan) + i) = F.blkLanes j := by
  rw [Nat.mul_div_cancel_left j F.blkSpan_pos]
  rfl

theorem groupOk_iff {c idx : Nat} {file : RegFile} : groupOk c idx file = true ↔ idx % c = 0 ∧ file ≠ .special := by
  simp [groupOk]

theorem laneCond_pair (p : Bool) (e e' : Elem) : laneCond p [e, e'] = if p then {} else e.cond.or e'.cond := by
  simp [laneCond, Cond.or]

/-! ## The scale of a block (R102) -/

/-- A NaN or an infinity gives the NaN scale. -/
theorem chooseScale_special (F : Fmt) {xs : List Num} (h : ∃ y ∈ xs, y.isNan = true ∨ y.isInf = true) : chooseScale F xs = 0xFF := by
  have special : (xs.any fun x => x.isNan || x.isInf) = true := by simpa using h
  simp [chooseScale, special]

theorem any_special_eq_false {xs : List Num} (h : ∀ y ∈ xs, y.isNan = false ∧ y.isInf = false) :
    (xs.any fun x => x.isNan || x.isInf) = false :=
  List.any_eq_false.mpr fun y hy => by simp [h y hy]

/-- Zeros alone give the least scale. -/
theorem chooseScale_zeros (F : Fmt) {xs : List Num} (h : ∀ y ∈ xs, y.isZero = true) : chooseScale F xs = 0 := by
  have finite := any_special_eq_false fun y hy => by
    have := h y hy
    cases y <;> simp_all [Num.isZero, Num.isNan, Num.isInf]
  have empty : (xs.filter fun x => !x.isZero) = [] := List.filter_eq_nil_iff.mpr fun y hy => by simp [h y hy]
  simp [chooseScale, finite, empty]

/-- A list's largest exponent, from any start. -/
theorem foldl_max_log2 {ys : List Num} {a l : Int} (bound : a ≤ l ∧ ∀ z ∈ ys, z.log2 ≤ l) (reached : a = l ∨ ∃ z ∈ ys, z.log2 = l) :
    ys.foldl (fun a x => max a x.log2) a = l := by
  induction ys generalizing a with
  | nil => simpa using reached
  | cons y ys ih =>
    obtain ⟨ha, hy⟩ := bound
    obtain ⟨first, rest⟩ := List.forall_mem_cons.mp hy
    refine ih ⟨Int.max_le.mpr ⟨ha, first⟩, rest⟩ ?_
    rcases reached with rfl | ⟨z, hz, e⟩
    · exact .inl (Int.max_eq_left first)
    · rcases List.mem_cons.mp hz with rfl | hz
      · exact .inl (e ▸ Int.max_eq_right (e.symm ▸ ha))
      · exact .inr ⟨z, hz, e⟩

/-- Finite values that are not all zero give the scale of the largest exponent among them. -/
theorem chooseScale_finite (F : Fmt) {xs : List Num} (finite : ∀ y ∈ xs, y.isNan = false ∧ y.isInf = false) {y : Num} (hy : y ∈ xs)
    (nonzero : y.isZero = false) (largest : ∀ z ∈ xs, z.isZero = false → z.log2 ≤ y.log2) :
    (chooseScale F xs : Int) = max (-127) (min 127 (y.log2 - F.emax)) + 127 := by
  have mem (z : Num) : z ∈ (xs.filter fun x => !x.isZero) ↔ z ∈ xs ∧ z.isZero = false := by simp
  simp only [chooseScale, any_special_eq_false finite, Bool.false_eq_true, if_false]
  cases e : xs.filter fun x => !x.isZero with
  | nil =>
    have := (mem y).mpr ⟨hy, nonzero⟩
    rw [e] at this
    cases this
  | cons a as =>
    have bound (z : Num) (hz : z ∈ a :: as) : z.log2 ≤ y.log2 := by
      obtain ⟨hz, nz⟩ := (mem z).mp (e ▸ hz)
      exact largest z hz nz
    have reached : a.log2 = y.log2 ∨ ∃ z ∈ as, z.log2 = y.log2 := by
      rcases List.mem_cons.mp (e ▸ (mem y).mpr ⟨hy, nonzero⟩ : y ∈ a :: as) with rfl | h
      · exact .inl rfl
      · exact .inr ⟨y, h, rfl⟩
    dsimp only
    rw [foldl_max_log2 ⟨bound a List.mem_cons_self, fun z hz => bound z (List.mem_cons_of_mem a hz)⟩ reached]
    omega

/-! ## A quantised block (R103, R162, R164) -/

theorem Issue.whole_iff (x : Issue) (F : Fmt) (j : Nat) :
    x.whole F j = true ↔ ∀ i < F.blkSpan, x.gang.holds (F.blkSpan * j + i) = true → F.blkSpan * j + i ∈ x.act := by
  have lane (l : Nat) : (!x.gang.holds l || x.act.contains l) = true ↔ (x.gang.holds l = true → l ∈ x.act) := by
    cases x.gang.holds l <;> simp
  simp only [Issue.whole, Fmt.blkLanes, List.all_map, List.all_eq_true, List.mem_range, Function.comp_apply, lane]

/-- The scale under which a block is converted: R102's where the word chooses one and the block is whole, else its byte as it stands. -/
def Quant.blockScale (q : Quant) (x : Issue) (j : Nat) : Nat :=
  if q.choose && x.whole q.fmt j then
    chooseScale q.fmt ((List.range (q.fmt.blkSpan * q.fmt.blkLane)).map fun i => (q.value (q.fmt.blkSpan * q.fmt.blkLane * j + i)).1)
  else x.gang.lane.scaleByte q.f.xD.toNat (q.fmt.sb q.f.dst.idx.toNat j)

/-- An element of a block under a scale: the code that a renormalisation keeps, else the rounded quotient. -/
def Quant.elem (q : Quant) (x : Issue) (sc l k : Nat) : Elem :=
  match q.keep.bind fun b => if b.byte x (q.fmt.blkLane * l + k) = sc then some (b.code x (q.fmt.blkLane * l + k)) else none with
  | some code => ⟨code, {}⟩
  | none =>
    let r := q.value (q.fmt.blkLane * l + k)
    q.fmt.round q.f.rnd.toNat q.f.sat (x.rb l k) (if sc = 0xFF then .nan else r.1.scale2 (127 - (sc : Int)), r.2)

/-- What a lane of a block receives: its elements put together, with the block's poison and their causes. -/
def Quant.laneOut (q : Quant) (x : Issue) (j l : Nat) : LaneOut :=
  let es := (List.range q.fmt.blkLane).map (q.elem x (q.blockScale x j) l)
  { vals := cells false (es.zipIdx.foldl (fun n ei => n + ei.1.code * 2 ^ (q.fmt.blkSlot * ei.2)) 0) (q.poison j),
    cond := laneCond (q.poison j) es }

theorem Quant.block_eq (q : Quant) (x : Issue) (j : Nat) : q.block x j =
    ⟨if q.choose && x.whole q.fmt j then some (q.fmt.sb q.f.dst.idx.toNat j, q.blockScale x j) else none,
      ((x.act ++ x.help).filter fun l => decide (l / q.fmt.blkSpan = j)).map fun l => (l, q.laneOut x j l)⟩ := rfl

/-- What a quantised block leaves in lanes is for active and helper lanes of its own. -/
theorem Quant.lanes_block {q : Quant} {x : Issue} {j : Nat} {lo : Nat × LaneOut} (h : lo ∈ (q.block x j).lanes) :
    lo.1 / q.fmt.blkSpan = j ∧ (lo.1 ∈ x.act ∨ lo.1 ∈ x.help) ∧ lo.2 = q.laneOut x j lo.1 := by
  rw [Quant.block_eq] at h
  obtain ⟨l, hl, rfl⟩ := List.mem_map.mp h
  obtain ⟨lane, block⟩ := List.mem_filter.mp hl
  exact ⟨of_decide_eq_true block, List.mem_append.mp lane, rfl⟩

/-- The scale in use is the one that the block leaves, or the byte that stands. -/
theorem Quant.blockScale_eq (q : Quant) (x : Issue) (j : Nat) : q.blockScale x j =
    ((q.block x j).scale.map Prod.snd).getD (x.gang.lane.scaleByte q.f.xD.toNat (q.fmt.sb q.f.dst.idx.toNat j)) := by
  rw [Quant.block_eq]
  cases h : q.choose && x.whole q.fmt j with
  | true => rfl
  | false => simp [Quant.blockScale, h]

theorem Quant.scale_block_chosen {q : Quant} {x : Issue} {j : Nat} (h : (q.choose && x.whole q.fmt j) = true) :
    (q.block x j).scale = some (q.fmt.sb q.f.dst.idx.toNat j, chooseScale q.fmt ((List.range (q.fmt.blkSpan * q.fmt.blkLane)).map
      fun i => (q.value (q.fmt.blkSpan * q.fmt.blkLane * j + i)).1)) := by
  simp only [Quant.block_eq, Quant.blockScale, h, if_true]

theorem Quant.scale_block_kept {q : Quant} {x : Issue} {j : Nat} (h : ¬(q.choose && x.whole q.fmt j) = true) :
    (q.block x j).scale = none := by
  simp only [Quant.block_eq, h]
  rfl

theorem Quant.elem_round {q : Quant} (h : q.keep = none) (x : Issue) (sc l k : Nat) : q.elem x sc l k =
    q.fmt.round q.f.rnd.toNat q.f.sat (x.rb l k) (if sc = 0xFF then .nan else (q.value (q.fmt.blkLane * l + k)).1.scale2 (127 - (sc : Int)),
      (q.value (q.fmt.blkLane * l + k)).2) := by
  simp only [Quant.elem, h, Option.bind_none]

/-- A renormalised element under its source's scale keeps its code (R103). -/
theorem Quant.elem_keep {q : Quant} {b : BlockOp} (h : q.keep = some b) {x : Issue} {sc l k : Nat}
    (same : b.byte x (q.fmt.blkLane * l + k) = sc) : q.elem x sc l k = ⟨b.code x (q.fmt.blkLane * l + k), {}⟩ := by
  simp only [Quant.elem, h, Option.bind_some, same, if_true]

end Sys2Proof.Machine
end

section
/-! The block words, settled (R94, R102, R103, R161, R162, R164 to R167). -/

namespace Sys2Proof.Machine

section
variable {s p : State} {G : Gang} {r : Run} {f : L3}

/-- BMAX (R164). -/
theorem exec_bmax (turn : s.LaneTurn G r (.bmax f) (some f.msel.toNat)
      { srcs := [(f.a, (G.fmt f.fmt.toNat).blkLane)], dsts := [(f.dst, 1)] } p)
    (hb : (G.fmt f.fmt.toNat).b = true) (start : groupOk (G.fmt f.fmt.toNat).blkLane f.a.idx.toNat f.a.file = true) :
    let x := mkIssue s s.cur G r (some f.msel.toNat)
    let F := G.fmt f.fmt.toNat
    exec (.bmax f) s = .next (s.vectorDone G r f.msel.toNat { srcs := [(f.a, F.blkLane)], dsts := [(f.dst, 1)] } p f.dst fun _ l =>
      { vals := cells false (round32 (maxMagnitude ((List.range (F.blkSpan * F.blkLane)).map fun i =>
          x.groupValue f.a F.blkLane (F.blkSpan * F.blkLane * (l / F.blkSpan) + i)))).code
          (x.anyP (F.blkLanes (l / F.blkSpan)) f.a F.blkLane) }) := by
  change execBmax f s = _
  rw [execBmax, State.withGang_eq turn.gang, blockWord_eq turn (by rw [hb, start, Bool.and_self])]
  rfl

/-- A word that quantises a group (R164). -/
theorem groupQuant_eq {i : Instr} {choose : Bool} (turn : s.LaneTurn G r i (some f.msel.toNat)
      { srcs := [(f.a, (G.fmt f.fmt.toNat).blkLane)], dsts := [(f.dst, 1)] } p)
    (hb : (G.fmt f.fmt.toNat).b = true) (start : groupOk (G.fmt f.fmt.toNat).blkLane f.a.idx.toNat f.a.file = true) :
    let x := mkIssue s s.cur G r (some f.msel.toNat)
    let F := G.fmt f.fmt.toNat
    groupQuant i f choose s = .next (((⟨f, F, choose, fun e => (x.groupValue f.a F.blkLane e, false),
      fun j => x.anyP (F.blkLanes j) f.a F.blkLane, none⟩ : Quant).apply x
        (s.laneIn G r (some f.msel.toNat) { srcs := [(f.a, F.blkLane)], dsts := [(f.dst, 1)] } p)).laneIssued s.cur G r.serial) := by
  rw [groupQuant, State.withGang_eq turn.gang, blockWord_eq turn (by rw [hb, start, Bool.and_self])]

/-- A scale-choosing word whose entries are block entries with equally many elements in a lane (R166). -/
theorem blockArith_eq {i : Instr} {F : Fmt} {ops : List BlockOp} {ok : Bool} {v : Issue → Nat → Num × Bool} {keep : Option BlockOp}
    (turn : s.LaneTurn G r i (some f.msel.toNat) (oneUse (ops.map BlockOp.src) f.dst) p)
    (hb : F.b = true) (hok : ok = true) (hops : ∀ b ∈ ops, b.fmt.b = true) :
    let x := mkIssue s s.cur G r (some f.msel.toNat)
    blockArith i f F ops ok v keep s = .next (((⟨f, F, true, v x, fun j => ops.any fun b => x.anyP (F.blkLanes j) b.src 1, keep⟩ :
      Quant).apply x (s.laneIn G r (some f.msel.toNat) (oneUse (ops.map BlockOp.src) f.dst) p)).laneIssued s.cur G r.serial) := by
  have all : (ops.all fun b => b.fmt.b) = true := List.all_eq_true.mpr hops
  rw [blockArith, blockWord_eq turn (by rw [hb, hok, all, Bool.and_self, Bool.and_self])]

/-- BDQT (R165). -/
theorem exec_bdqt (turn : s.LaneTurn G r (.bdqt f) (some f.msel.toNat)
      { srcs := [(f.a, 1)], dsts := [(f.dst, (G.fmt f.fmt.toNat).blkLane)] } p)
    (hb : (G.fmt f.fmt.toNat).b = true) (he : (G.fmt (f.aux.toNat % 16)).s32 = true)
    (start : groupOk (G.fmt f.fmt.toNat).blkLane f.dst.idx.toNat f.dst.file = true) :
    let F := G.fmt f.fmt.toNat
    exec (.bdqt f) s = .next (s.vectorDone G r f.msel.toNat { srcs := [(f.a, 1)], dsts := [(f.dst, F.blkLane)] } p f.dst fun x l =>
      let pz := x.anyP (F.blkLanes (l / F.blkSpan)) f.a 1
      let es := (List.range F.blkLane).map fun k => (G.fmt (f.aux.toNat % 16)).round f.rnd.toNat f.sat (x.rb l k)
        ((⟨F, f.a, f.xA.toNat⟩ : BlockOp).value x (F.blkLane * l + k), false)
      { vals := es.map fun e => ⟨BitVec.ofNat 32 e.code, pz, true⟩, cond := laneCond pz es }) := by
  change execBdqt f s = _
  rw [execBdqt, State.withGang_eq turn.gang, blockWord_eq turn (by rw [hb, he, start, Bool.and_self, Bool.and_self])]
  rfl

/-- What BSDOT leaves in a lane: its group's sum, rounded to binary32 and added to the accumulator (R167). -/
def bsdotLane (f : L3) (A H : BlockOp) (T : Fmt) (x : Issue) (l : Nat) : LaneOut :=
  let span := 32 / A.fmt.blkLane
  let g := l / span
  let ls := (List.range span).map fun i => span * g + i
  let sum := Num.dot ((List.range 32).map fun i => (A.value x (32 * g + i), H.value x (32 * g + i))) [] false
  let P := round32 sum.1
  let acc := x.cell l f.c 0
  let pz := acc.p || x.anyP ls f.a 1 || x.anyP ls f.b 1
  let o := T.round 0 f.sat 0 (Num.sum [T.elem acc.val.toNat 0, binary32.decode P.code] false)
  { vals := cells false o.code pz, cond := if pz then {} else o.cond.or { inv := sum.2, ov := P.ov } }

/-- BSDOT (R167). -/
theorem exec_bsdot (turn : s.LaneTurn G r (.bsdot f) (some f.msel.toNat) (oneUse [f.a, f.b, f.c] f.dst) p)
    (hb : (G.fmt f.fmt.toNat).b = true) (he : (G.fmt (f.aux.toNat % 16)).b = true) (ht : (G.fmt (f.aux.toNat / 16 % 16)).s32 = true)
    (equal : (G.fmt (f.aux.toNat % 16)).blkLane = (G.fmt f.fmt.toNat).blkLane) :
    exec (.bsdot f) s = .next (s.vectorDone G r f.msel.toNat (oneUse [f.a, f.b, f.c] f.dst) p f.dst
      (bsdotLane f ⟨G.fmt f.fmt.toNat, f.a, f.xA.toNat⟩ ⟨G.fmt (f.aux.toNat % 16), f.b, f.xB.toNat⟩ (G.fmt (f.aux.toNat / 16 % 16)))) := by
  change execBsdot f s = _
  have field : bits f.aux.toNat 7 4 = f.aux.toNat / 16 % 16 := bits_eq_div _ _ _
  rw [execBsdot, State.withGang_eq turn.gang, field, blockWord_eq turn (by simp [hb, he, ht, equal]), State.vectorDone]
  simp only [laneCond_pair]
  rfl

end

/-- Settles O24: each word is a word of the frame with its own effect, a scale is that of the largest exponent, and a quantised block is that of
`Quant.block_eq`, whose elements are rounded or kept. -/
theorem blockScaling : Obligations.BlockScaling := by
  unfold Obligations.BlockScaling
  refine ⟨?_, ⟨fun F xs => ⟨chooseScale_special F, chooseScale_zeros F, fun finite y hy nonzero largest =>
    chooseScale_finite F finite hy nonzero largest⟩, fun _ _ _ => rfl, ?_⟩⟩
  · simp only [← Fmt.blkSpan_eq]
    intro s p G r f
    refine ⟨fun turn hb start => ?_, fun e he turn hb start => ?_, fun e he turn hb ops => ?_, fun turn hb he start => ?_,
      fun turn hb he ht equal => ?_⟩
    · exact exec_bmax turn hb (groupOk_iff.mpr start)
    · simp only [List.mem_cons, List.not_mem_nil, or_false] at he
      simp only [Fmt.blkLanes_of_first]
      rcases he with rfl | rfl
      · exact groupQuant_eq turn hb (groupOk_iff.mpr start)
      · exact groupQuant_eq turn hb (groupOk_iff.mpr start)
    · have accepted := fun b hb => (ops b hb).1
      simp only [List.mem_cons, List.not_mem_nil, or_false] at he
      simp only [Fmt.blkLanes_of_first]
      rcases he with rfl | rfl | rfl | rfl | rfl
      · exact (State.withGang_eq turn.gang _).trans (blockArith_eq turn hb rfl accepted)
      · exact (State.withGang_eq turn.gang _).trans (blockArith_eq turn hb rfl accepted)
      · exact (State.withGang_eq turn.gang _).trans (blockArith_eq turn hb rfl accepted)
      · exact (State.withGang_eq turn.gang _).trans (blockArith_eq turn hb rfl accepted)
      · exact (State.withGang_eq turn.gang _).trans <| blockArith_eq turn hb (decide_eq_true (ops _ (List.mem_singleton_self _)).2) accepted
    · exact exec_bdqt turn hb he (groupOk_iff.mpr start)
    · exact exec_bsdot turn hb he ht equal
  · intro q x j F c span byte whole o
    have chosen : (q.choose && x.whole F j) = true ↔ q.choose = true ∧ whole := by rw [Bool.and_eq_true, Issue.whole_iff]
    refine ⟨fun h => Quant.scale_block_chosen (chosen.mpr h), fun h => Quant.scale_block_kept (mt chosen.mp h), fun lo hlo => ?_⟩
    obtain ⟨block, lane, out⟩ := Quant.lanes_block hlo
    refine ⟨block, lane, (List.range c).map (q.elem x (q.blockScale x j) lo.1), by simp, by rw [out]; rfl, by rw [out]; rfl, fun k hk => ?_⟩
    have element : ((List.range c).map (q.elem x (q.blockScale x j) lo.1))[k]? = some (q.elem x (q.blockScale x j) lo.1 k) := by simp [hk]
    dsimp only
    rw [element, show (o.scale.map Prod.snd).getD (x.gang.lane.scaleByte q.f.xD.toNat byte) = q.blockScale x j from
      (q.blockScale_eq x j).symm]
    exact ⟨fun rounds => congrArg some (Quant.elem_round rounds ..), fun b kept same => congrArg some (Quant.elem_keep kept same)⟩

end Sys2Proof.Machine
end

section
/-! Marver words under a mask register that is not 0 and names no lane: the three statements of the Marver refuted (R180, R184, R190, R202). -/

namespace Sys2Proof.Machine

/-! ## A word without an active lane (R180) -/

/-- What a Marver word of one source register uses. -/
def moveUse (f : LX) : Use := { srcs := [(f.a, 1)], dsts := [(f.dst, 1)], gated := true }

section
variable {s p : State} {G : Gang} {r : Run} {i : Instr} {f : LX}

/-- A Marver word that is legal and has no active lane has issued, and nothing more. -/
theorem marverWord_of_active_eq_nil {srcs : List (Src × Nat)} {dsts : List (Dst × Nat)} {mrd mwr : List Nat}
    {eff : Issue → Pend → State → Issued} {ok : Issue → State → Bool} {u : Use}
    (same : u = { srcs := srcs, dsts := dsts, mrd := mrd, mwr := mwr, gated := true })
    (turn : s.LaneTurn G r i (some f.msel.toNat) u p) (idle : G.active f.msel.toNat = [])
    (legal : ok (mkIssue s s.cur G r (some f.msel.toNat)) (s.laneIn G r (some f.msel.toNat) u p) = true) :
    marverWord i f srcs dsts mrd mwr eff s ok = .next ((s.laneIn G r (some f.msel.toNat) u p).laneIssued s.cur G r.serial) := by
  subst same
  have none : (mkIssue s s.cur G r (some f.msel.toNat)).act = [] := idle
  simp [marverWord, laneWord_eq turn, legal, none]

theorem exec_qbcst_of_active_eq_nil (turn : s.LaneTurn G r (.qbcst f) (some f.msel.toNat) (moveUse f) p)
    (idle : G.active f.msel.toNat = []) :
    exec (.qbcst f) s = .next ((s.laneIn G r (some f.msel.toNat) (moveUse f) p).laneIssued s.cur G r.serial) := by
  change execQbcst f s = _
  unfold execQbcst moveWord
  exact marverWord_of_active_eq_nil rfl turn idle rfl

theorem exec_xscan_of_active_eq_nil (turn : s.LaneTurn G r (.xscan f) (some f.msel.toNat) (moveUse f) p)
    (idle : G.active f.msel.toNat = []) :
    exec (.xscan f) s = .next ((s.laneIn G r (some f.msel.toNat) (moveUse f) p).laneIssued s.cur G r.serial) := by
  change execXscan f s = _
  unfold execXscan
  exact marverWord_of_active_eq_nil rfl turn idle rfl

/-- XPAT without an active lane does not wait for its slot's image either. -/
theorem exec_xpat_of_active_eq_nil (turn : s.LaneTurn G r (.xpat f) (some f.msel.toNat) (moveUse f) p)
    (idle : G.active f.msel.toNat = [])
    (bound : ((s.laneIn G r (some f.msel.toNat) (moveUse f) p).binding G.place.wg f.pat.toNat s.cur).2.isSome = true) :
    exec (.xpat f) s = .next ((s.laneIn G r (some f.msel.toNat) (moveUse f) p).laneIssued s.cur G r.serial) := by
  change execXpat f s = _
  exact marverWord_of_active_eq_nil rfl turn idle bound

/-- A word that leaves an operation outstanding has taken a number for it; one that has only issued has not. -/
theorem State.heldDone_ne_laneIssued (s : State) (G : Gang) (r : Run) (q : State) (k : Pend) :
    s.heldDone G r q k ≠ q.laneIssued s.cur G r.serial := fun same =>
  Nat.succ_ne_self q.nextId (congrArg State.nextId same)

/-- A word that has issued has used up a number of the free values, and one that waits has not (log entry 1). -/
theorem State.LaneTurn.laneIssued_ne {msel : Option Nat} {u : Use} (turn : s.LaneTurn G r i msel u p) (g serial : Nat) :
    (s.laneIn G r msel u p).laneIssued g G serial ≠ s := by
  obtain ⟨_, _, _, _, rfl⟩ := State.payAs_tokens turn.paid
  exact fun same => Nat.succ_ne_self s.fresh (congrArg State.fresh same)

end

/-! ## A gang after REPACK whose mask names an empty position (R184, R190) -/

namespace EmptyPosition

/-- A word that reads v4 under m0 and writes v2; of an XPAT, through slot 0. -/
def word : LX := ⟨0, ⟨.v, 2⟩, ⟨false, .v, 4⟩, ⟨false, .v, 0⟩, ⟨false, .v, 0⟩, 0, 0, 0, 0, 0, 0, 0⟩

/-- An XLDP of slot 0 whose entry is not loaded yet (R207). -/
def loading : Pend :=
  ⟨0, .xldp, some .gx, none, [], [], [], [], false, none, 0, .xldp { word with dst := ⟨.special, 0⟩ }, 0, 1, 0, 0x2000, [], [], [], [], 0,
    false⟩

/-- A gang with a lane at every position but 31, and with that position alone in m0. -/
def gang : Gang :=
  let G := placedGang [placedRun 0]
  { G with m := [(0, 0x80000000)], pend := [loading],
           lane := { G.lane with pos := (List.range 32).map fun l => (l, if l < 31 then some ⟨0, false⟩ else none) } }

/-- Its workgroup, with pattern slot 0 bound. -/
def wg : Wg := { placedWg with slots := [(0, 0x4000)] }

/-- The machine in which that gang's run is due. -/
def machine : State := { State.reset.withFetchWord 96 0 with gangs := [(0, gang)], wgs := [(0, wg)] }

theorem mreg_gang_ne_zero : gang.mreg 0 ≠ 0 := by decide

theorem active_gang : gang.active 0 = [] := by decide

theorem full_gang : gang.full .gx = false := by decide

/-- Such a word has its turn there. -/
theorem turn_of_mem {i : Instr} (hi : i ∈ [Instr.qbcst word, .xpat word, .xscan word]) :
    ∃ p, machine.LaneTurn gang (placedRun 0) i (some 0) (moveUse word) p := by
  have may : ∀ i ∈ [Instr.qbcst word, .xpat word, .xscan word], i.wf = true ∧ roleAllows gang.place.role (laneOp i) = true
      ∧ (moveUse word).waits i gang 256 (some 0) = false := by decide
  obtain ⟨wf, role, free⟩ := may i hi
  obtain ⟨p, paid⟩ : ∃ p, machine.pay 0 0 1 = some p := Option.isSome_iff_exists.mp (by decide)
  exact ⟨p, rfl, rfl, by decide, wf, by decide, role, by decide, free, rfl, nofun, paid⟩

section
variable {i : Instr} {p : State} (turn : machine.LaneTurn gang (placedRun 0) i (some 0) (moveUse word) p)
include turn

/-! The token's payment leaves the workgroup, its slot and the XLDP. -/

theorem wg?_laneIn : (machine.laneIn gang (placedRun 0) (some 0) (moveUse word) p).wg? 0 = some wg := by
  obtain ⟨_, _, _, _, rfl⟩ := State.payAs_tokens turn.paid
  rfl

theorem binding_laneIn (n : Nat) :
    (({ machine.laneIn gang (placedRun 0) (some 0) (moveUse word) p with nextId := n } : State).binding 0 0 0).2 = some 0x4000 := by
  obtain ⟨_, _, _, _, rfl⟩ := State.payAs_tokens turn.paid
  rfl

theorem slotPending_laneIn : (machine.laneIn gang (placedRun 0) (some 0) (moveUse word) p).slotPending 0 0 = true := by
  obtain ⟨_, _, _, _, rfl⟩ := State.payAs_tokens turn.paid
  rfl

end
end EmptyPosition

/-! ## The three statements -/

section
open EmptyPosition

/-- Refutes O25: the statement has a moving word leave a result wherever its mask register is not 0. A QBCST whose mask names an empty position
alone has no active lane, and leaves none (R180, R184, R190). -/
theorem not_crossLaneMovesAndExchange : ¬ Obligations.CrossLaneMovesAndExchange := by
  unfold Obligations.CrossLaneMovesAndExchange
  rintro ⟨moves, -⟩
  obtain ⟨p, turn⟩ := turn_of_mem (i := .qbcst word) (by simp)
  obtain ⟨-, -, -, -, qbcst⟩ := moves machine p gang (placedRun 0) word
  obtain ⟨k, -, held, -⟩ := (qbcst turn).2 mreg_gang_ne_zero full_gang
  rw [exec_qbcst_of_active_eq_nil turn active_gang] at held
  injection held with held
  exact State.heldDone_ne_laneIssued _ _ _ _ _ held.symm

/-- Refutes O26: the statement has XPAT wait for the image of its slot wherever its mask register is not 0. An XPAT whose mask names an empty
position alone has no active lane, reads no image, and issues while the XLDP is outstanding (R180, R184, R190). -/
theorem not_patternsAndStreams : ¬ Obligations.PatternsAndStreams := by
  unfold Obligations.PatternsAndStreams
  rintro ⟨patterns, -⟩
  obtain ⟨p, turn⟩ := turn_of_mem (i := .xpat word) (by simp)
  obtain ⟨-, patterns⟩ := patterns machine p gang (placedRun 0) word
  obtain ⟨-, xpat, -⟩ := patterns mreg_gang_ne_zero full_gang
  obtain ⟨-, xpat⟩ := xpat machine wg ⟨0, 0, 0, 0, 0, [], false⟩ turn (wg?_laneIn turn)
  have waits := (xpat 0x4000 (binding_laneIn turn _)).1 (slotPending_laneIn turn)
  rw [exec_xpat_of_active_eq_nil turn active_gang (congrArg Option.isSome (binding_laneIn turn _))] at waits
  injection waits with waits
  exact turn.laneIssued_ne _ _ waits

/-- Refutes O27: the statement has each of these words leave a result wherever its mask register is not 0. An XSCAN whose mask names an empty
position alone has no active lane, and leaves none (R180, R184, R190). -/
theorem not_votesScansRanks : ¬ Obligations.VotesScansRanks := by
  unfold Obligations.VotesScansRanks
  intro words
  obtain ⟨p, turn⟩ := turn_of_mem (i := .xscan word) (by simp)
  obtain ⟨-, xscan, -⟩ := words machine p gang (placedRun 0) word
  obtain ⟨k, held, -⟩ := xscan turn mreg_gang_ne_zero full_gang
  rw [exec_xscan_of_active_eq_nil turn active_gang] at held
  injection held with held
  exact State.heldDone_ne_laneIssued _ _ _ _ _ held.symm

end

end Sys2Proof.Machine
end
